-- ==== Sys2Proof/Word.lean ====
section
/-!
DEFINITION. The word types of the machine and their plainest arithmetic (spec 00 R6, R7, R13).
-/
namespace Sys2Proof

/-- One byte of memory. -/
abbrev Byte := BitVec 8
/-- A 32-bit register word. -/
abbrev W32 := BitVec 32
/-- A 64-bit word: a register pair, an address, a 64-bit special register. -/
abbrev W64 := BitVec 64
/-- One bit per gang lane (R25: a gang has at most 1,024 lanes). -/
abbrev LaneMask := BitVec 1024

/-- `bits(x, hi, lo)` of Table 0.1 on an unbounded number. -/
def natBits (x hi lo : Nat) : Nat := x / 2 ^ lo % 2 ^ (hi + 1 - lo)

/-- `sext(x, n)` of Table 0.1: the low `n` bits of `x` read as two's complement. -/
def sextNat (x n : Nat) : Int :=
  let y := x % 2 ^ n
  if n = 0 then 0 else if y < 2 ^ (n - 1) then (y : Int) else (y : Int) - (2 ^ n : Nat)

/-- `wrap(x, n)` of Table 0.1: `x` modulo `2^n`. -/
def wrapInt (x : Int) (n : Nat) : Nat := (x % ((2 ^ n : Nat) : Int)).toNat

/-- `x` rounded up to a multiple of `a`. -/
def alignUp (x a : Nat) : Nat := (x + (a - 1)) / a * a

/-- `ceil(x / y)`. -/
def ceilDiv (x y : Nat) : Nat := (x + (y - 1)) / y

end Sys2Proof
end

