-- ==== Sys2Proof/Config.lean ====
section
/-!
DEFINITION. What the spec leaves open: opaque constants of which nothing can be proved (log entry 6).
The first argument is the state's counter `fresh`, the second numbers the uses within one step.
-/
namespace Sys2Proof.Config

/-- A free choice between two allowed outcomes (00 R3). -/
opaque freeBit : Nat → Nat → Bool

/-- An unspecified 32-bit word (00 R3). -/
opaque freeWord : Nat → Nat → BitVec 32

/-- An unspecified byte (00 R3). -/
opaque freeByte : Nat → Nat → BitVec 8

/-- An unspecified number. -/
opaque freeNat : Nat → Nat → Nat

/-- The candidate a device gives for an approximate function: the function's number and its operands
(13 R369, 15 R443, 07 R216). The model holds it to the spec's bound. -/
opaque approx : Nat → List Nat → Nat

/-- Does a firmware image pass the boot ROM's signature and CRC checks (10 R296)? -/
opaque imageValid : List (BitVec 8) → Bool

end Sys2Proof.Config
end

