-- ==== Sys2Proof/Machine/Numbers.lean ====
section
/-!
DEFINITION. Numbers and formats (04 R92-R123): exact values, rounding and conversion with their flags, packed
elements, scales, the codebook, and the bounds of the approximate functions.
-/
namespace Sys2Proof.Machine

/-! ### Flags of SR_FPSTAT (04 Table 4.4) -/

def fNV : Nat := 1
def fDZ : Nat := 2
def fOF : Nat := 4
def fUF : Nat := 8
def fNX : Nat := 16
def fSAT : Nat := 32

/-- A floating-point format (04 Table 4.1). `special`: 0 IEEE, 1 IEEE with every NaN quiet, 2 only S.1111.111 is
a NaN, 3 no special encodings. -/
structure FFmt where
  e : Nat
  p : Nat
  bias : Nat
  special : Nat
deriving DecidableEq, Repr

def fp64 : FFmt := { e := 11, p := 52, bias := 1023, special := 0 }
def fp32 : FFmt := { e := 8, p := 23, bias := 127, special := 0 }
def fp19 : FFmt := { e := 8, p := 10, bias := 127, special := 0 }
def bf16 : FFmt := { e := 8, p := 7, bias := 127, special := 0 }
def fp16 : FFmt := { e := 5, p := 10, bias := 15, special := 0 }
def e5m2 : FFmt := { e := 5, p := 2, bias := 15, special := 1 }
def e4m3 : FFmt := { e := 4, p := 3, bias := 7, special := 2 }
def e3m2 : FFmt := { e := 3, p := 2, bias := 3, special := 3 }
def e2m3 : FFmt := { e := 2, p := 3, bias := 1, special := 3 }
def e2m1 : FFmt := { e := 2, p := 1, bias := 1, special := 3 }

/-- The bits of a format. -/
def FFmt.width (f : FFmt) : Nat := 1 + f.e + f.p

/-- An exact value: a NaN (signalling or quiet), an infinity, or a sign with a magnitude num/den. -/
inductive RVal where
  | nan (sig neg : Bool)
  | inf (neg : Bool)
  | fin (neg : Bool) (num den : Nat)
deriving DecidableEq, Repr

/-- The exponent field of all ones. -/
def FFmt.eMax (f : FFmt) : Nat := 2 ^ f.e - 1

/-- m · 2^q as a magnitude. -/
def scale2 (m : Nat) (q : Int) : Nat × Nat :=
  match q with
  | .ofNat k => (m * 2 ^ k, 1)
  | .negSucc k => (m, 2 ^ (k + 1))

/-- The value of an encoding (04 R92, R93). -/
def FFmt.decode (f : FFmt) (x : Nat) : RVal :=
  let neg := x.testBit (f.e + f.p)
  let ex := x / 2 ^ f.p % 2 ^ f.e
  let m := x % 2 ^ f.p
  if ex = f.eMax ∧ f.special ≤ 1 then
    if m = 0 then .inf neg else .nan (f.special = 0 && !(m.testBit (f.p - 1))) neg
  else if ex = f.eMax ∧ f.special = 2 ∧ m = 2 ^ f.p - 1 then .nan false neg
  else if ex = 0 then
    let r := scale2 m (1 - (f.bias : Int) - f.p)
    .fin neg r.1 r.2
  else
    let r := scale2 (2 ^ f.p + m) ((ex : Int) - f.bias - f.p)
    .fin neg r.1 r.2

/-- The canonical NaN (04 R96); 0 for a format without one. -/
def FFmt.cnan (f : FFmt) : Nat :=
  if f.special ≤ 1 then f.eMax * 2 ^ f.p + 2 ^ (f.p - 1)
  else if f.special = 2 then f.eMax * 2 ^ f.p + (2 ^ f.p - 1) else 0

/-- The sign bit of a format. -/
def FFmt.sign (f : FFmt) (neg : Bool) : Nat := if neg then 2 ^ (f.e + f.p) else 0

/-- The infinity of a format with infinities. -/
def FFmt.infBits (f : FFmt) (neg : Bool) : Nat := f.sign neg + f.eMax * 2 ^ f.p

/-- The encoding of the largest finite magnitude (04 Table 4.1). -/
def FFmt.maxMag (f : FFmt) : Nat :=
  if f.special ≤ 1 then f.eMax * 2 ^ f.p - 1
  else if f.special = 2 then f.eMax * 2 ^ f.p + (2 ^ f.p - 2) else f.eMax * 2 ^ f.p + (2 ^ f.p - 1)

/-- Rounding modes (04 R104): 0 RNE, 1 RZ, 2 RU, 3 RD. -/
def roundUp (mode : Nat) (neg : Bool) (m r d : Nat) : Bool :=
  match mode with
  | 0 => decide (2 * r > d) || (decide (2 * r = d) && m % 2 == 1)
  | 1 => false
  | 2 => decide (r ≠ 0) && !neg
  | _ => decide (r ≠ 0) && neg

/-- floor(log2(num/den)) for positive num and den. -/
def log2Q (num den : Nat) : Int :=
  let l : Int := (Nat.log2 num : Int) - (Nat.log2 den : Int)
  let below := match l with
    | .ofNat k => decide (num < den * 2 ^ k)
    | .negSucc k => decide (num * 2 ^ (k + 1) < den)
  if below then l - 1 else l

/-- num/den in units of 2^q, rounded: the integer and whether it is exact. -/
def roundUnits (mode : Nat) (neg : Bool) (num den : Nat) (q : Int) : Nat × Bool :=
  let nd := match q with
    | .ofNat k => (num, den * 2 ^ k)
    | .negSucc k => (num * 2 ^ (k + 1), den)
  let m := nd.1 / nd.2
  let r := nd.1 % nd.2
  ((if roundUp mode neg m r nd.2 then m + 1 else m), r == 0)

/-- Is m · 2^q below 2^k? -/
def below2 (m : Nat) (q k : Int) : Bool :=
  match k - q with
  | .ofNat j => decide (m < 2 ^ j)
  | .negSucc _ => decide (m = 0)

/-- Conversion of an exact value to a format: the encoding and the flags (04 R105). -/
def FFmt.convert (f : FFmt) (mode : Nat) (satb : Bool) (x : RVal) : Nat × Nat :=
  match x with
  | .nan sig _ =>
    if f.special ≤ 2 then (f.cnan, if sig then fNV else 0) else (0, fNV)
  | .inf neg =>
    if f.special ≤ 1 && !satb then (f.infBits neg, 0)
    else if satb || f.special = 3 then (f.sign neg + f.maxMag, fNV)
    else (f.sign neg + f.cnan, fNV)
  | .fin neg num den =>
    if num = 0 then (f.sign neg, 0)
    else
      let k := log2Q num den
      let emin : Int := 1 - (f.bias : Int)
      let q : Int := (if k < emin then emin else k) - f.p
      let y := roundUnits mode neg num den q
      let w := roundUnits mode neg num den (k - f.p)
      let tiny := below2 w.1 (k - f.p) emin
      let fl := (if y.2 then 0 else fNX) + (if tiny && !y.2 then fUF else 0)
      let carry := decide (y.1 = 2 ^ (f.p + 1))
      let m := if carry then 2 ^ f.p else y.1
      let q' := if carry then q + 1 else q
      let enc : Nat := if m < 2 ^ f.p then m else ((q' + f.p + f.bias).toNat) * 2 ^ f.p + (m - 2 ^ f.p)
      if enc > f.maxMag then
        let fl := (fl ||| fOF) ||| fNX
        if satb || f.special = 3 then (f.sign neg + f.maxMag, fl ||| fSAT)
        else if f.special ≤ 1 then
          if mode = 0 || (mode = 2 && !neg) || (mode = 3 && neg) then (f.infBits neg, fl)
          else (f.sign neg + f.maxMag, fl)
        else (f.sign neg + f.cnan, fl)
      else (f.sign neg + enc, fl)

/-! ### Exact arithmetic -/

/-- A signed number over a denominator as an exact value; a zero has sign `z`. -/
def ofInt (z : Bool) (n : Int) (d : Nat) : RVal :=
  match n with
  | .ofNat 0 => .fin z 0 1
  | .ofNat k => .fin false k d
  | .negSucc k => .fin true (k + 1) d

/-- The signed numerator of a finite value. -/
def signed (neg : Bool) (n : Nat) : Int := if neg then -(n : Int) else n

/-- Is a value a NaN, and is it signalling? -/
def RVal.isNan : RVal → Bool
  | .nan _ _ => true
  | _ => false

def RVal.isSig : RVal → Bool
  | .nan s _ => s
  | _ => false

/-- The sign of a value. -/
def RVal.neg : RVal → Bool
  | .nan _ n => n
  | .inf n => n
  | .fin n _ _ => n

/-- The negation of a value. -/
def RVal.negate : RVal → RVal
  | .nan s n => .nan s !n
  | .inf n => .inf !n
  | .fin n a b => .fin (!n) a b

/-- The flags of signalling operands. -/
def sigFlags (l : List RVal) : Nat := if l.any RVal.isSig then fNV else 0

/-- The exact product; an invalid one is a quiet NaN with NV (04 R111). -/
def RVal.mul (a b : RVal) : RVal × Nat :=
  match a, b with
  | .nan _ _, _ => (.nan false false, sigFlags [a, b])
  | _, .nan _ _ => (.nan false false, sigFlags [a, b])
  | .inf s, .inf t => (.inf (s != t), 0)
  | .inf s, .fin t n _ => if n = 0 then (.nan false false, fNV) else (.inf (s != t), 0)
  | .fin s n _, .inf t => if n = 0 then (.nan false false, fNV) else (.inf (s != t), 0)
  | .fin s n d, .fin t m e => (.fin (s != t) (n * m) (d * e), 0)

/-- The exact sum; the sign of an exact zero follows 04 R104 for the mode. -/
def RVal.add (mode : Nat) (a b : RVal) : RVal × Nat :=
  match a, b with
  | .nan _ _, _ => (.nan false false, sigFlags [a, b])
  | _, .nan _ _ => (.nan false false, sigFlags [a, b])
  | .inf s, .inf t => if s = t then (.inf s, 0) else (.nan false false, fNV)
  | .inf s, .fin _ _ _ => (.inf s, 0)
  | .fin _ _ _, .inf t => (.inf t, 0)
  | .fin s n d, .fin t m e =>
    if n = 0 ∧ m = 0 then (.fin (if s = t then s else mode == 3) 0 1, 0)
    else (ofInt (mode == 3) (signed s n * e + signed t m * d) (d * e), 0)

/-- The exact quotient, with DZ and NV (13 Table 13.1). -/
def RVal.div (a b : RVal) : RVal × Nat :=
  match a, b with
  | .nan _ _, _ => (.nan false false, sigFlags [a, b])
  | _, .nan _ _ => (.nan false false, sigFlags [a, b])
  | .inf _, .inf _ => (.nan false false, fNV)
  | .inf s, .fin t _ _ => (.inf (s != t), 0)
  | .fin s _ _, .inf t => (.fin (s != t) 0 1, 0)
  | .fin s n d, .fin t m e =>
    if m = 0 then (if n = 0 then (.nan false false, fNV) else (.inf (s != t), fDZ))
    else (.fin (s != t) (n * e) (d * m), 0)

/-- Integer square root, bit by bit. -/
def isqrtFrom (n : Nat) : Nat → Nat → Nat
  | 0, r => r
  | k + 1, r => if (r + 2 ^ k) * (r + 2 ^ k) ≤ n then isqrtFrom n k (r + 2 ^ k) else isqrtFrom n k r

/-- floor(√n). -/
def isqrt (n : Nat) : Nat := isqrtFrom n (Nat.log2 n / 2 + 1) 0

/-- √(num/den) as a magnitude that rounds as the exact root does to at most 60 bits: the exact root when it has
few bits, else a value strictly between its neighbours. -/
def sqrtQ (num den : Nat) : Nat × Nat :=
  let t := 80 + (if den > num then Nat.log2 den else 0)
  let n := num * 4 ^ t
  let m := isqrt (n / den)
  if m * m * den = n then (m, 2 ^ t) else (2 * m + 1, 2 ^ (t + 1))

/-- The square root with its special results (13 Table 13.1). -/
def RVal.sqrt (a : RVal) : RVal × Nat :=
  match a with
  | .nan s _ => (.nan false false, if s then fNV else 0)
  | .inf neg => if neg then (.nan false false, fNV) else (.inf false, 0)
  | .fin neg n d =>
    if n = 0 then (.fin neg 0 1, 0)
    else if neg then (.nan false false, fNV)
    else let r := sqrtQ n d; (.fin false r.1 r.2, 0)

/-- a · b + c, exact (04 R120). -/
def RVal.fma (mode : Nat) (a b c : RVal) : RVal × Nat :=
  let p := a.mul b
  let r := p.1.add mode c
  (r.1, p.2 ||| r.2 ||| sigFlags [c])

/-- The exact sum of several values: infinities, invalid sums and NaNs as 04 R118 and 15 R471 give; an exact zero
sum is +0 unless `z`. -/
def sumX (z : Bool) (l : List RVal) : RVal × Nat :=
  let fl := sigFlags l
  let pinf := l.any fun x => x == .inf false
  let ninf := l.any fun x => x == .inf true
  if l.any RVal.isNan then (.nan false false, fl)
  else if pinf && ninf then (.nan false false, fNV)
  else if pinf then (.inf false, 0)
  else if ninf then (.inf true, 0)
  else
    let r := l.foldl (fun (acc : Int × Nat) x =>
      match x with
      | .fin neg n d => (acc.1 * d + signed neg n * acc.2, acc.2 * d)
      | _ => acc) (0, 1)
    (ofInt z r.1 r.2, 0)

/-- The rounded result of an operation and all its flags. -/
def FFmt.finish (f : FFmt) (mode : Nat) (r : RVal × Nat) : Nat × Nat :=
  let c := f.convert mode false r.1
  (c.1, c.2 ||| r.2)

/-- The order of two values: negative, zero or positive difference; NaNs apart. −0 equals +0. -/
def RVal.cmp (a b : RVal) : Option Int :=
  match a, b with
  | .nan _ _, _ => none
  | _, .nan _ _ => none
  | .inf s, .inf t => some (if s = t then 0 else if s then -1 else 1)
  | .inf s, .fin _ _ _ => some (if s then -1 else 1)
  | .fin _ _ _, .inf t => some (if t then 1 else -1)
  | .fin s n d, .fin t m e => some (signed s n * e - signed t m * d)

/-- A comparison of Table 12.7: the truth and the flags. -/
def fpCompare (cond : Nat) (a b : RVal) : Bool × Nat :=
  let ordered := 2 ≤ cond ∧ cond ≤ 5
  match a.cmp b with
  | none =>
    (cond == 1 || cond == 7, if ordered then fNV else sigFlags [a, b])
  | some d =>
    ((match cond with
      | 0 => decide (d = 0)
      | 1 => decide (d ≠ 0)
      | 2 => decide (d < 0)
      | 3 => decide (d ≤ 0)
      | 4 => decide (d > 0)
      | 5 => decide (d ≥ 0)
      | 6 => true
      | _ => false), 0)

/-- The lesser or greater operand (04 R113): the pattern and the flags. -/
def fpMinMax (f : FFmt) (isMax : Bool) (x y : Nat) : Nat × Nat :=
  let a := f.decode x
  let b := f.decode y
  let fl := sigFlags [a, b]
  match a.isNan, b.isNan with
  | true, true => (f.cnan, fl)
  | true, false => (y, fl)
  | false, true => (x, fl)
  | false, false =>
    match a.cmp b with
    | some d =>
      let aLess := d < 0 ∨ (d = 0 ∧ a.neg ∧ !b.neg)
      ((if (decide aLess) != isMax then x else y), fl)
    | none => (f.cnan, fl)

/-- An exact value rounded to an integer in a mode. -/
def roundInt (mode : Nat) (neg : Bool) (num den : Nat) : Int × Bool :=
  let r := roundUnits mode neg num den 0
  (signed neg r.1, r.2)

/-- The bounds of an integer format. -/
def intRange (isSigned : Bool) (w : Nat) : Int × Int :=
  if isSigned then (-(2 ^ (w - 1) : Nat), (2 ^ (w - 1) : Nat) - 1) else (0, (2 ^ w : Nat) - 1)

/-- An integer clamped to a format, and whether it clamped (04 R98). -/
def clampInt (isSigned : Bool) (w : Nat) (x : Int) : Int × Bool :=
  let r := intRange isSigned w
  if x < r.1 then (r.1, true) else if x > r.2 then (r.2, true) else (x, false)

/-- Conversion of an exact value to an integer format (04 R107). -/
def toIntFmt (isSigned : Bool) (w mode : Nat) (satb : Bool) (x : RVal) : Nat × Nat :=
  let bad := if satb then fSAT else fNV
  match x with
  | .nan _ _ => (0, fNV)
  | .inf neg => (wrapInt (if neg then (intRange isSigned w).1 else (intRange isSigned w).2) w, bad)
  | .fin neg n d =>
    let r := roundInt mode neg n d
    let c := clampInt isSigned w r.1
    (wrapInt c.1 w, (if r.2 then 0 else fNX) ||| (if c.2 then bad else 0))

/-- FP32 to FP64, exactly; a NaN becomes the canonical one (11 R307). -/
def f32to64 (x : Nat) : Nat := (fp64.convert 0 false (fp32.decode x)).1

/-! ### Approximate functions (13 R368, R369) -/

/-- One unit in the last place of an FP32 magnitude near num/den, as a rational with denominator 2^149. -/
def ulp32 (num den : Nat) : Nat :=
  if num = 0 then 1 else
  let k := log2Q num den
  let q : Int := (if k < -126 then -126 else k) - 23
  2 ^ (q + 149).toNat

/-- Is FP32 encoding `y` a finite value within `n`/`d` of the signed reference num/den? -/
def within (y : Nat) (ref : Int) (rden : Nat) (tn td : Nat) : Bool :=
  match fp32.decode y with
  | .fin neg n d =>
    let diff := (signed neg n * rden - ref * d).natAbs
    decide (diff * td ≤ tn * (d * rden))
  | _ => false

/-- The device's candidate where it lies within the bound, else the reference rounded (log entry 9). -/
def approxIn (fn : Nat) (args : List Nat) (ref : Int) (rden tn td : Nat) : Nat :=
  let y := Config.approx fn args
  if y < 2 ^ 32 ∧ within y ref rden tn td then y else (fp32.convert 0 false (ofInt false ref rden)).1

/-- Fixed-point one of the reference computations. -/
def fxOne : Nat := 2 ^ 128

/-- Terms of a series Σ x^k/k! in fixed point, from term k on. -/
def expSeries (x : Nat) : Nat → Nat → Nat → Nat → Nat
  | 0, _, _, acc => acc
  | fuel + 1, k, term, acc =>
    let t := term * x / fxOne / k
    expSeries x fuel (k + 1) t (acc + t)

/-- ln 2 in fixed point. -/
def fxLn2 : Nat := 235865763225513294137944142764154484399

/-- 2^f for a fraction f in [0, 1), both in fixed point. -/
def exp2Frac (f : Nat) : Nat := expSeries (f * fxLn2 / fxOne) 40 1 fxOne fxOne

/-- 2^(num/den), signed, as a rational. -/
def exp2Ref (neg : Bool) (num den : Nat) : Nat × Nat :=
  let fl : Int := (signed neg num) / (den : Int)
  let fr := ((signed neg num) % (den : Int)).toNat * fxOne / den
  let m := exp2Frac fr
  match fl with
  | .ofNat k => (m * 2 ^ k, fxOne)
  | .negSucc k => (m, fxOne * 2 ^ (k + 1))

/-- Bits of log2 x below the point, for x in [1, 2) in fixed point, by squaring. -/
def logBits : Nat → Nat → Nat → Nat
  | 0, _, acc => acc
  | fuel + 1, x, acc =>
    let y := x * x / fxOne
    if y ≥ 2 * fxOne then logBits fuel (y / 2) (2 * acc + 1) else logBits fuel y (2 * acc)

/-- log2(num/den) in units of 2^-64. -/
def log2Ref (num den : Nat) : Int :=
  let k := log2Q num den
  let m := match k with
    | .ofNat j => num * fxOne / (den * 2 ^ j)
    | .negSucc j => num * 2 ^ (j + 1) * fxOne / den
  k * (2 ^ 64 : Nat) + logBits 64 m 0

/-- π in units of 2^-160. -/
def fxPi : Nat := 4591442807048218921384805199743311128454155024418

/-- Alternating series of sine or cosine in fixed point: the next term divides by k(k+1). -/
def trigSeries (x2 : Nat) : Nat → Nat → Int → Int → Int
  | 0, _, _, acc => acc
  | fuel + 1, k, term, acc =>
    let t := -(term * x2 / (fxOne : Int) / ((k * (k + 1) : Nat) : Int))
    trigSeries x2 fuel (k + 2) t (acc + t)

/-- sin or cos of a magnitude in fixed point with one 2^128, the angle num/den reduced by multiples of π/2. -/
def trigRef (cosine : Bool) (neg : Bool) (num den : Nat) : Int :=
  let x := num * 2 ^ 160 / den
  let half := fxPi / 2
  let quad := x / half
  let r := (x % half) / 2 ^ 32
  let s := trigSeries (r * r / fxOne) 30 2 r r
  let c := trigSeries (r * r / fxOne) 30 1 fxOne fxOne
  let i := (quad + if cosine then 1 else 0) % 4
  let v := match i with
    | 0 => s
    | 1 => c
    | 2 => -s
    | _ => -c
  if neg && !cosine then -v else v

/-- Is a magnitude a power of two? -/
def isPow2Q (num den : Nat) : Bool :=
  let g := Nat.gcd num den
  let n := num / g
  let d := den / g
  n == 2 ^ Nat.log2 n && d == 2 ^ Nat.log2 d

/-- NX and UF of an approximate result (13 R369). -/
def approxFlags (y : Nat) : Nat :=
  fNX ||| (if y % 2 ^ 31 ≠ 0 ∧ y % 2 ^ 31 < 2 ^ 23 then fUF else 0)

/-- FRSQ (13 Table 13.1). -/
def frsq (x : Nat) : Nat × Nat :=
  match fp32.decode x with
  | .nan s _ => (fp32.cnan, if s then fNV else 0)
  | .inf neg => if neg then (fp32.cnan, fNV) else (0, 0)
  | .fin neg n d =>
    if n = 0 then (fp32.infBits neg, fDZ)
    else if neg then (fp32.cnan, fNV)
    else
      let r := sqrtQ d n
      if isPow2Q n d ∧ r.1 * r.1 * n = d * (r.2 * r.2) then ((fp32.convert 0 false (.fin false r.1 r.2)).1, 0)
      else
        let y := approxIn 0x41 [x] r.1 r.2 (ulp32 r.1 r.2) (2 ^ 149)
        (y, approxFlags y)

/-- FEX2 (13 Table 13.1). -/
def fex2 (x : Nat) : Nat × Nat :=
  match fp32.decode x with
  | .nan s _ => (fp32.cnan, if s then fNV else 0)
  | .inf neg => (if neg then 0 else fp32.infBits false, 0)
  | .fin neg n d =>
    if !neg && decide (n ≥ 128 * d) then (fp32.infBits false, fOF ||| fNX)
    else if n % d = 0 ∧ (neg → n / d ≤ 149) then
      let r := scale2 1 (signed neg (n / d))
      let y := (fp32.convert 0 false (.fin false r.1 r.2)).1
      (y, approxFlags y &&& fUF)
    else if neg && decide (n > 400 * d) then
      let y := approxIn 0x43 [x] 0 1 2 (2 ^ 149)
      (y, approxFlags y)
    else
      let r := exp2Ref neg n d
      let y := approxIn 0x43 [x] r.1 r.2 (2 * ulp32 r.1 r.2) (2 ^ 149)
      (y, approxFlags y)

/-- FLG2 (13 Table 13.1). -/
def flg2 (x : Nat) : Nat × Nat :=
  match fp32.decode x with
  | .nan s _ => (fp32.cnan, if s then fNV else 0)
  | .inf neg => if neg then (fp32.cnan, fNV) else (fp32.infBits false, 0)
  | .fin neg n d =>
    if n = 0 then (fp32.infBits true, fDZ)
    else if neg then (fp32.cnan, fNV)
    else if isPow2Q n d then ((fp32.convert 0 false (ofInt false (log2Q n d) 1)).1, 0)
    else
      let r := log2Ref n d
      let near := decide (2 * n ≥ d) && decide (n ≤ 2 * d)
      let y := if near then approxIn 0x44 [x] r (2 ^ 64) 1 (2 ^ 22)
               else approxIn 0x44 [x] r (2 ^ 64) (2 * ulp32 r.natAbs (2 ^ 64)) (2 ^ 149)
      (y, approxFlags y)

/-- FSIN and FCOS (13 Table 13.1). -/
def fsincos (cosine : Bool) (x : Nat) : Nat × Nat :=
  match fp32.decode x with
  | .nan s _ => (fp32.cnan, if s then fNV else 0)
  | .inf _ => (fp32.cnan, fNV)
  | .fin neg n d =>
    if n = 0 then (if cosine then 0x3F800000 else x, 0)
    else
      let fn := if cosine then 0x46 else 0x45
      let y := if n ≤ 32768 * d then approxIn fn [x] (trigRef cosine neg n d) fxOne 1 (2 ^ 21)
               else approxIn fn [x] 0 1 1 1
      (y, approxFlags y)

/-! ### Elements, scales and the codebook (04 R97-R103, Table 4.5) -/

/-- The element bits of a mash format code. -/
def fmtBits (c : Nat) : Nat :=
  match c with
  | 0 => 32
  | 1 => 32
  | 2 => 16
  | 3 => 16
  | 6 => 6
  | 7 => 6
  | 8 => 4
  | 11 => 4
  | 12 => 4
  | 13 => 16
  | 16 => 6
  | 17 => 6
  | 18 => 4
  | 20 => 4
  | 22 => 2
  | 23 => 2
  | _ => 8

/-- The depth of a format (04 Table 4.5). -/
def fmtDepth (c : Nat) : Nat :=
  if c ≤ 1 then 32 else if c ≤ 3 ∨ c = 13 then 64
  else if c = 8 ∨ c = 11 ∨ c = 12 ∨ c = 18 ∨ c = 20 ∨ c = 22 ∨ c = 23 then 256 else 128

/-- The K-group of a format (04 Table 4.5). -/
def fmtGroup (c : Nat) : Nat := if c ≤ 3 ∨ c = 13 then 16 else 32

/-- Is a format an integer kind? -/
def fmtIsInt (c : Nat) : Bool := 9 ≤ c && c ≤ 13

/-- The scale of a format: 0 none, 1 E8M0 per block, 2 E4M3 per block, 3 FP32 per row. -/
def fmtScale (c : Nat) : Nat :=
  if 14 ≤ c ∧ c ≤ 19 ∨ c = 22 then 1 else if c = 20 ∨ c = 23 then 2 else if c = 21 then 3 else 0

/-- The block size of a scaled format; 0 for a per-row scale. -/
def fmtBlock (c : Nat) : Nat := if fmtScale c = 1 then 32 else if fmtScale c = 2 then 16 else 0

/-- Bytes of one scale. -/
def fmtScaleBytes (c : Nat) : Nat := if fmtScale c = 3 then 4 else if fmtScale c = 0 then 0 else 1

/-- The floating-point element format of a real code (CB2 and integers apart). -/
def fmtElem (c : Nat) : FFmt :=
  match c with
  | 0 => fp32
  | 1 => fp19
  | 2 => bf16
  | 3 => fp16
  | 4 => e5m2
  | 5 => e4m3
  | 6 => e3m2
  | 7 => e2m3
  | 8 => e2m1
  | 14 => e5m2
  | 15 => e4m3
  | 16 => e3m2
  | 17 => e2m3
  | 18 => e2m1
  | 20 => e2m1
  | _ => e4m3

/-- Is an integer format signed? -/
def fmtSigned (c : Nat) : Bool := c == 9 || c == 11 || c == 13

/-- The unscaled value of an element. -/
def elemVal (c x : Nat) : RVal :=
  if fmtIsInt c then
    ofInt false (if fmtSigned c then sextNat x (fmtBits c) else (x : Int)) 1
  else if c = 19 then ofInt false (sextNat x 8) 64
  else if c = 1 then fp19.decode (x / 2 ^ 13)
  else (fmtElem c).decode x

/-- The value of a scale (04 R95, R99, R100). -/
def scaleVal (kind x : Nat) : RVal :=
  match kind with
  | 1 => if x = 255 then .nan false false else let r := scale2 1 ((x : Int) - 127); .fin false r.1 r.2
  | 2 => e4m3.decode x
  | 3 => fp32.decode x
  | _ => .fin false 1 1

/-- An element times its scale (04 R100). -/
def scaledVal (e sc : RVal) : RVal :=
  match sc, e with
  | .nan _ _, _ => .nan false false
  | _, .nan _ _ => .nan false false
  | _, _ => (e.mul sc).1

/-- The eight weights of a CB2 index word (04 R102): numerators over 2. -/
def cb2Decode (codebook : List Byte) (x : Nat) : List Int :=
  let ci := x / 256 % 256
  let c := (codebook.getD (2 * ci) 0).toNat + 256 * (codebook.getD (2 * ci + 1) 0).toNat
  let sg := (List.range 7).map fun i => x.testBit (i + 1)
  let negs := (sg.filter id).length
  let s7 := (negs + x % 2) % 2 == 1
  (List.range 8).map fun i =>
    let mag : Int := 2 * ((c / 4 ^ i % 4 : Nat) : Int) + 1
    if (if i = 7 then s7 else sg.getD i false) then -mag else mag

/-- Bit `i` of a byte list, bit b of byte b div 8. -/
def bitsAt (l : List Byte) (off n : Nat) : Nat :=
  let bytes := (List.range ((off % 8 + n + 7) / 8)).map fun i => l.getD (off / 8 + i) 0
  let v := bytes.foldr (fun b acc => b.toNat + 256 * acc) 0
  v / 2 ^ (off % 8) % 2 ^ n

/-- Bytes of a packed row of `n` elements of a format (04 R97): 6-bit rows padded to four, CB2 to eight. -/
def rowBytes (c n : Nat) : Nat :=
  if c = 22 ∨ c = 23 then 2 * ceilDiv n 8
  else if fmtBits c = 6 then 3 * ceilDiv n 4
  else ceilDiv (n * fmtBits c) 8

/-- Element `k` of a packed row, unscaled. -/
def rowElem (c : Nat) (codebook row : List Byte) (k : Nat) : RVal :=
  if c = 22 ∨ c = 23 then
    ofInt false ((cb2Decode codebook (bitsAt row (16 * (k / 8)) 16)).getD (k % 8) 0) 2
  else elemVal c (bitsAt row (k * fmtBits c) (fmtBits c))

/-- Scale position of element `k` in its row. -/
def scalePos (c k : Nat) : Nat := if fmtBlock c = 0 then 0 else k / fmtBlock c

/-- Scales in a row of `n` elements. -/
def scalesInRow (c n : Nat) : Nat :=
  if fmtScale c = 0 then 0 else if fmtBlock c = 0 then 1 else ceilDiv n (fmtBlock c)

/-- A value converted to an element of a format with saturation (04 R105, R154); no flag is kept. -/
def toElem (c : Nat) (v : RVal) : Nat :=
  if fmtIsInt c then (toIntFmt (fmtSigned c) (fmtBits c) 0 true v).1
  else if c = 19 then
    match v with
    | .fin neg n d => wrapInt (let r := (roundInt 0 neg (n * 64) d).1; if r < -127 then -127 else if r > 127 then 127 else r) 8
    | .inf neg => if neg then 0x81 else 0x7F
    | .nan _ _ => 0
  else if c = 1 then (fp19.convert 0 true v).1 * 2 ^ 13
  else ((fmtElem c).convert 0 true v).1

/-- A value divided by a scale. -/
def divScale (v sc : RVal) : RVal := (v.div sc).1

/-- An element stored under a scale: the value divided by it; a block whose scale is zero stores zero elements (04 R108), also where it is
written in part and 05 R154 divides by the stored scale (log entry 87). -/
def storedElem (c : Nat) (v sc : RVal) : Nat :=
  if fmtScale c ≠ 0 && (match sc with | .fin _ 0 _ => true | _ => false) then 0 else toElem c (divScale v sc)

/-- The greater magnitude of a list of finite values, as a rational. -/
def maxMagQ (l : List RVal) : Nat × Nat :=
  l.foldl (fun (m : Nat × Nat) v =>
    match v with
    | .fin _ n d => if n * m.2 > m.1 * d then (n, d) else m
    | _ => m) (0, 1)

/-- A block converted with a fresh scale: the scale's encoding and the elements (04 R108). What a NaN among the values does to a ZS4 or
ZS8 scale the rule does not say: the model makes the scale the NaN of its format (log entry 78). -/
def freshBlock (c : Nat) (l : List RVal) : Nat × List Nat :=
  if fmtScale c = 1 then
    if l.any (fun v => match v with | .fin _ _ _ => false | _ => true) then (255, l.map fun _ => 0)
    else
      let a := maxMagQ l
      let emax : Int := match c with
        | 14 => 15
        | 15 => 8
        | 16 => 4
        | 17 => 2
        | 18 => 2
        | _ => 0
      let x0 : Int := if a.1 = 0 then -127 else log2Q a.1 a.2 - emax
      let x : Int := if x0 < -127 then -127 else if x0 > 127 then 127 else x0
      let sv := scale2 1 x
      ((x + 127).toNat, l.map fun v => toElem c (divScale v (.fin false sv.1 sv.2)))
  else
    let fmt := if fmtScale c = 2 then e4m3 else fp32
    let k := if fmtScale c = 2 then 6 else 448
    let bad := l.any (fun v => match v with | .nan _ _ => true | _ => false)
    let hasInf := l.any (fun v => match v with | .inf _ => true | _ => false)
    let a := maxMagQ l
    let mag : RVal := if bad then .nan false false else if hasInf then .inf false else .fin false a.1 (a.2 * k)
    let sc := (fmt.convert 0 true mag).1
    let sv := fmt.decode sc
    (sc, l.map fun v => storedElem c v sv)

/-- One row's product sum (04 R118): accumulate groups of K in ascending order. `va` and `vb` are the element
values, `acc` the tile word. -/
def mmaGroups (isInt sat : Bool) : List (List (RVal × RVal)) → Nat → Nat
  | [], acc => acc
  | g :: rest, acc =>
    if isInt then
      let s : Int := g.foldl (fun a p =>
        match p.1, p.2 with
        | .fin s n _, .fin t m _ => a + signed s n * signed t m
        | _, _ => a) 0
      let r := sextNat acc 32 + s
      mmaGroups isInt sat rest (wrapInt (if sat then (clampInt true 32 r).1 else r) 32)
    else
      let prods := g.map fun p => (p.1.mul p.2).1
      let s := (sumX false prods).1
      let t := fp32.decode (fp32.convert 0 false s).1
      let sum := (fp32.decode acc).add 0 t
      let infIn := prods.any (fun v => match v with | .inf _ => true | _ => false) ||
        (match fp32.decode acc with | .inf _ => true | _ => false)
      let r := (fp32.convert 0 (sat && !infIn) sum.1).1
      let r' := if sat && !infIn then
          (match t, fp32.decode acc with | .inf _, .nan _ _ => r | .inf neg, _ => fp32.sign neg + fp32.maxMag | _, _ => r)
        else r
      mmaGroups isInt sat rest r'

/-- Is a format CB2 or CB2-S? -/
def isCb2 (c : Nat) : Bool := c == 22 || c == 23

/-- The value a load delivers for an element from its stored bits and scale (05 R153): FP32, or an extended
integer; a scaled integer that is no INT32 is not stated and is a free word. -/
def deliver (fmt scaleMode : Nat) (codebook : List Byte) (x sub : Nat) (scaleBits : Nat) (fw : W32) : Nat :=
  let el := if isCb2 fmt then ofInt false ((cb2Decode codebook x).getD sub 0) 2
            else elemVal fmt (x / 2 ^ sub % 2 ^ fmtBits fmt)
  let sc := match scaleMode with
    | 0 => RVal.fin false 1 1
    | 1 => if fmtScale fmt = 0 then .fin false 1 1 else scaleVal (fmtScale fmt) scaleBits
    | _ => fp32.decode scaleBits
  let v := scaledVal el sc
  if fmtIsInt fmt then
    match v with
    | .fin neg n d =>
      if n % d = 0 ∧ (n / d < 2 ^ 31 ∨ (neg ∧ n / d = 2 ^ 31) ∨ (!(fmtSigned fmt) ∧ !neg ∧ n / d < 2 ^ 32)) then
        wrapInt (signed neg (n / d)) 32 else fw.toNat
    | _ => fw.toNat
  else (fp32.convert 0 false v).1

/-! ### Texel elements (13 Table 13.5) -/

/-- Bytes of an element. -/
def texelBytes (code : Nat) : Nat := if code ≤ 3 then 1 else if code ≤ 9 then 2 else 4

/-- Is the element an integer one? -/
def texelInt (code : Nat) : Bool := code == 2 || code == 3 || code == 6 || code == 7 || code == 10 || code == 11

/-- One, as a channel. -/
def texelOne (code : Nat) : Nat := if texelInt code then 1 else 0x3F800000

/-- A quotient rounded to FP32. -/
def quot32 (n : Int) (d : Nat) : Nat := (fp32.convert 0 false (ofInt false n d)).1

/-- A decoded channel (13 R385); a NaN is canonical (04 R96, R111), for IMLD too (log entry 97). -/
def texelDecode (code v : Nat) : Nat :=
  let snorm := fun (b : Nat) =>
    let m := sextNat v b
    if m < -(2 ^ (b - 1) - 1 : Int) then 0xBF800000 else quot32 m (2 ^ (b - 1) - 1)
  match code with
  | 0 => quot32 v 255
  | 1 => snorm 8
  | 2 => v
  | 3 => wrapInt (sextNat v 8) 32
  | 4 => quot32 v 65535
  | 5 => snorm 16
  | 6 => v
  | 7 => wrapInt (sextNat v 16) 32
  | 8 => (fp32.convert 0 false (fp16.decode v)).1
  | 9 => (fp32.convert 0 false (bf16.decode v)).1
  | 12 => match fp32.decode v with | .nan _ _ => fp32.cnan | _ => v
  | _ => v

/-- Four channels from the bytes of a texel of `chans`, those beyond its own 0, 0, 1. -/
def texelWords (code chans x : Nat) : List Nat :=
  (List.range 4).map fun (c : Nat) =>
    if c < chans then texelDecode code (x / 256 ^ (c * texelBytes code) % 256 ^ texelBytes code)
    else if c = 3 then texelOne code else 0

end Sys2Proof.Machine
end

