-- ==== Sys2Proof/Syntax/Fields.lean ====
section
/-!
DEFINITION. The fields that the constructors of Instr carry: the operation word without its opcode
(11 R303), the control word (11 R300), and the arguments of the device events.
-/
namespace Sys2Proof

/-- The operation word, bits [87:0] of a bundle, without OPC, which is the constructor (11 R303). -/
structure Opw where
  sub : BitVec 6
  gneg : Bool
  gpred : BitVec 3
  dst : BitVec 10
  a : BitVec 10
  b : BitVec 10
  c : BitVec 10
  aux : BitVec 6
  imm : BitVec 32
deriving DecidableEq, Repr

/-- The control word, bits [127:96] of a bundle (11 R300, Table 11.1). -/
structure Ctl where
  nsel : BitVec 4
  ntgt : BitVec 16
  npred : BitVec 3
  nneg : Bool
  rg : Bool
  stall : BitVec 4
  yld : Bool
  rsv : BitVec 2
deriving DecidableEq, Repr

/-- The agents that issue bundles: a fragment of a gang, or a Lauter context numbered
64 · cluster + 16 · engine + context (02 R29, 07 R206, 10 Table 10.2). -/
inductive Agent where
  | gang (gid fid : Nat)
  | ctx (n : Nat)
deriving DecidableEq, Repr

/-- The number types of home operations, reductions and integer arithmetic (12 Table 12.1, 14 R435). -/
inductive Ty where
  | s32 | z32 | f32 | s64 | z64 | f64 | bf2 | hf2
deriving DecidableEq, Repr

/-- The home operations of Table 5.2, with ADD.LIM of 12 R326. Widths are 32 or 64. -/
inductive HomeFn where
  | add (w : Nat)
  | addLim (w : Nat)
  | fadd (t : Ty)
  | min (t : Ty)
  | max (t : Ty)
  | cas (w : Nat)
  | exch (w : Nat)
  | scaleAcc (t : Ty)
  | gath8
deriving DecidableEq, Repr

/-- What a request from a peer chip asks of a home on this chip (06 R182). -/
inductive FabOp where
  | store (bytes : List Byte)
  | rmw (op : HomeFn) (x y : Nat)
  | cbInit (ae be : Nat)
  | cbArrive (n bytes : Nat)
  /-- Bits of a page-table entry set (09 R259). -/
  | or64 (bits : Nat)
  /-- A merge into a raster entry (08 R231): GREATER of the pass, depth, ID and flags. -/
  | merge (greater : Bool) (depth id flags : Nat)
  /-- To the origin of a launch (12 R352): a chip's share of a cohort's phase, whether its members took part and whether all have ended. -/
  | cohortShare (gen cohort phase : Nat) (arrived gone : Bool) (op : Option Nat) (bad : Bool) (values : List Nat)
  /-- From the origin of a launch: a cohort's phase is complete, with its result. -/
  | cohortRelease (origin gen cohort phase result : Nat)
deriving DecidableEq, Repr

/-- A write-class request arriving over the fabric with its three identifiers (06 R182, 10 R283), and the path of its stream (06 R178). -/
structure FabReq where
  src : Nat
  stream : Nat
  seq : Nat
  path : Nat
  key : Nat
  op : FabOp
deriving DecidableEq, Repr

/-- A message to a start barrier (03 R88): a copy of a record for this chip to check, or a named
chip's report to this chip as the origin. -/
inductive McMsg where
  | copy (origin gen part pasid : Nat) (record : List (BitVec 64))
  | report (gen fromChip code : Nat)
deriving DecidableEq, Repr

end Sys2Proof
end

