-- ==== Sys2Proof/Syntax.lean ====
section
/-!
DEFINITION. The one inductive of the instruction set: one constructor per row of spec/opcode_table.json.
Operation words carry their fields (11 R303), sequencing forms the control word (11 R300), device
events what the environment or the agent decides.
-/
namespace Sys2Proof

/-- One constructor per row of the table of operations and events, in the table's order. -/
inductive Instr where
  | nop (o : Opw)
  | srd (o : Opw)
  | swr (o : Opw)
  | trap (o : Opw)
  | hret (o : Opw)
  | cclr (o : Opw)
  | bar (o : Opw)
  | bara (o : Opw)
  | barw (o : Opw)
  | waitc (o : Opw)
  | fence (o : Opw)
  | fencex (o : Opw)
  | mon (o : Opw)
  | mwait (o : Opw)
  | sleep (o : Opw)
  | bkpt (o : Opw)
  | iadd (o : Opw)
  | isub (o : Opw)
  | imul (o : Opw)
  | imulh (o : Opw)
  | imad (o : Opw)
  | imin (o : Opw)
  | imax (o : Opw)
  | iabs (o : Opw)
  | lea (o : Opw)
  | icmp (o : Opw)
  | sel (o : Opw)
  | mov (o : Opw)
  | idiv (o : Opw)
  | andB (o : Opw)
  | orB (o : Opw)
  | xorB (o : Opw)
  | notB (o : Opw)
  | logt (o : Opw)
  | shl (o : Opw)
  | shr (o : Opw)
  | sar (o : Opw)
  | fshf (o : Opw)
  | bfe (o : Opw)
  | bfi (o : Opw)
  | popc (o : Opw)
  | clz (o : Opw)
  | brev (o : Opw)
  | bperm (o : Opw)
  | fadd (o : Opw)
  | fmul (o : Opw)
  | fmac (o : Opw)
  | fmin (o : Opw)
  | fmax (o : Opw)
  | fcmp (o : Opw)
  | fclass (o : Opw)
  | frnd (o : Opw)
  | cvt (o : Opw)
  | hadd2 (o : Opw)
  | hmul2 (o : Opw)
  | hmac2 (o : Opw)
  | vdot (o : Opw)
  | frcp (o : Opw)
  | frsq (o : Opw)
  | fsqrt (o : Opw)
  | fex2 (o : Opw)
  | flg2 (o : Opw)
  | fsin (o : Opw)
  | fcos (o : Opw)
  | fdiv (o : Opw)
  | dadd (o : Opw)
  | dmul (o : Opw)
  | dmac (o : Opw)
  | dcmp (o : Opw)
  | plop (o : Opw)
  | pmov (o : Opw)
  | vote (o : Opw)
  | shfl (o : Opw)
  | redf (o : Opw)
  | scanf (o : Opw)
  | matchV (o : Opw)
  | ld (o : Opw)
  | st (o : Opw)
  | lds (o : Opw)
  | sts (o : Opw)
  | ldk (o : Opw)
  | stk (o : Opw)
  | atom (o : Opw)
  | atoms (o : Opw)
  | red (o : Opw)
  | nmop (o : Opw)
  | pref (o : Opw)
  | cctlIinv (o : Opw)
  | cctlL1inv (o : Opw)
  | cctlL2wb (o : Opw)
  | cctlL2ev (o : Opw)
  | samp (o : Opw)
  | sampg (o : Opw)
  | sampl (o : Opw)
  | txld (o : Opw)
  | imld (o : Opw)
  | imst (o : Opw)
  | attr (o : Opw)
  | pixlk (o : Opw)
  | pixul (o : Opw)
  | rtrace (o : Opw)
  | rastq (o : Opw)
  | rflush (o : Opw)
  | vbwr (o : Opw)
  | tlrel (o : Opw)
  | lxsub (o : Opw)
  | lxsubNb (o : Opw)
  | cbinit (o : Opw)
  | cbarr (o : Opw)
  | cbwait (o : Opw)
  | cbtest (o : Opw)
  | dcset (o : Opw)
  | dcdec (o : Opw)
  | dlaunch (o : Opw)
  | nralloc (o : Opw)
  | nrsend (o : Opw)
  | nrdone (o : Opw)
  | qbind (o : Opw)
  | cobar (o : Opw)
  | cored (o : Opw)
  | mldw (o : Opw)
  | mswap (o : Opw)
  | mma (o : Opw)
  | mmaG (o : Opw)
  | mmaJ (o : Opw)
  | mmaGJ (o : Opw)
  | mgrp (o : Opw)
  | mrd (o : Opw)
  | mclr (o : Opw)
  | mtag (o : Opw)
  | mcbt (o : Opw)
  | mwr (o : Opw)
  | tmov (o : Opw)
  | tgath (o : Opw)
  | tscat (o : Opw)
  | tfill (o : Opw)
  | ptmap (o : Opw)
  | ptinv (o : Opw)
  | prireq (o : Opw)
  | swapoOut (o : Opw)
  | swapoIn (o : Opw)
  | gkill (o : Opw)
  | gres (o : Opw)
  | seqF (c : Ctl)
  | jmp (c : Ctl)
  | bru (c : Ctl)
  | brl (c : Ctl)
  | callF (c : Ctl)
  | retF (c : Ctl)
  | loopF (c : Ctl)
  | jind (c : Ctl)
  | exitF (c : Ctl)
  | regangCheck (gid fid : Nat)
  | regangRelease (gid fid : Nat)
  | issueSelect (core dp : Nat)
  | registerCacheFill (gid reg slice : Nat)
  | inFlightCompletion (fl : Nat)
  | haltReach (gid : Nat) (stop : Bool)
  | handlerEnter (gid : Nat)
  | asyncCauseTake (gid fid : Nat)
  | pageRequestResponse (index outcome : Nat)
  | atsInvalidate (pasid page : Nat)
  | migrationHoldExpire (fl : Nat)
  | homeApply (fl acc : Nat) (fromL1 : Bool)
  | monitorFire (ag : Agent) (displaced : Bool)
  | mwaitTimeout (ag : Agent)
  | sleepExpire (gid fid : Nat)
  | cbwaitRelease (gid fid : Nat)
  | cohortPhaseComplete (grid cohort : Nat)
  | pixlkRelease (gid fid : Nat)
  | queueUnblock (gid fid : Nat)
  | nrallocGrant (graph : Nat)
  | batchTimeout (graph node : Nat)
  | graphDrain (graph : Nat)
  | packetLaunch (q : Nat)
  | packetLauter (q : Nat)
  | packetDcopSet (q : Nat)
  | packetDcopDecrement (q : Nat)
  | packetCbopInitialise (q : Nat)
  | packetCbopArrive (q : Nat)
  | packetNop (q : Nat)
  | cbopFailureReport (k : Nat)
  | dispatchRound (part : Nat)
  | preemptTakeEffect (wid : Nat)
  | waitSwapOut (wid : Nat)
  | wakeCondition (wid : Nat)
  | gridCompletion (grid : Nat)
  | dlaunchRelease (core : Nat)
  | mcReport (m : McMsg)
  | mcStart (origin gen : Nat)
  | mcAbort (origin gen : Nat)
  | mcTimeout (gen : Nat)
  | kilnGrant (cluster : Nat)
  | kilnPeriodExpire (cluster holder : Nat) (waited : Bool)
  | jointStart (latch : Nat)
  | jointAbort (latch : Nat)
  | mtagRetire (fl : Nat)
  | lauterContextStart (engine : Nat)
  | lauterIssue (engine : Nat)
  | lauterFaultRecordWrite (part : Nat)
  | lauterCompletion (ctx : Nat)
  | lauterResume (ctx : Nat)
  | lauterAbort (ctx : Nat)
  | rasterRequest (cluster : Nat)
  | tileSeal (cluster : Nat)
  | rflushProcess (cluster : Nat)
  | pinSpillTimeout (slice : Nat)
  | classifyScan (cluster : Nat)
  | binTimeout (cluster : Nat) (pass : Nat) (bin : Nat)
  | rayDelivery (k : Nat)
  | passClose (pass : Nat)
  | passDone (pass : Nat)
  | queueEnable (q : Nat) (flags : W32)
  | queueDisable (q : Nat) (flags : W32)
  | errheadWrite (q : Nat) (v : W32)
  | devctlWarmReset (v : W64)
  | preset (part : Nat)
  | kbudgetWrite (cluster : Nat) (v : Byte)
  | pinmaxWrite (v : W32)
  | registerWrite (owner : Option Nat) (off size : Nat) (v : W64)
  | hostBar2Access (off : Nat) (len : Nat) (wr : Option (List Byte))
  | coldReset
  | warmReset
  | functionLevelReset
  | thermalTrip (celsius : Nat)
  | powerThrottle (cluster budget mhz : Nat) (thermal active : Bool)
  | canaryMeasure (region : Nat) (drifted : Bool)
  | regionRetrain (region : Nat)
  | retrainDeferralExpire (region : Nat)
  | crcBurstRetrain (region : Nat)
  | busCrcReplay (region : Nat) (failing : Bool)
  | unitRetire (isCore : Bool) (k : Nat)
  | fabricLinkRetrain (link : Nat)
  | fabricLinkFail (link : Nat)
  | fabricFlitReplay (link : Nat)
  | fabricRequestArrive (r : FabReq)
  | fabricHoldTimeout (fl : Nat)
  | cxlLinkDown (port : Nat)
  | patrolScrub (sector : Nat) (bad : Bool)
  | cxlLinkUp (port : Nat)
  | gddrCxlCrcRetry (sector : Nat)
  | firmwareMailboxAccess (image : List Byte)
  | atsTranslationCompletion (pasid page : Nat) (granted : Option Nat)
deriving DecidableEq, Repr

end Sys2Proof
end

