-- ==== Sys2Proof/Decode.lean ====
section
/-!
DEFINITION. The decoder of bundles, total on any 128 bits, and the encoder, both from Tables 11.1 to 11.3
and the opcode map of 11 R317. A bundle is read as one number whose bit n is bit n of the bundle (11 R298).
-/
namespace Sys2Proof

/-- The operation word of bits [95:0], from its least significant field up (11 Table 11.3). -/
def opwOf (w : Nat) : Opw :=
  { imm := BitVec.ofNat 32 w,
    aux := BitVec.ofNat 6 (w / 2 ^ 32),
    c := BitVec.ofNat 10 (w / 2 ^ 38),
    b := BitVec.ofNat 10 (w / 2 ^ 48),
    a := BitVec.ofNat 10 (w / 2 ^ 58),
    dst := BitVec.ofNat 10 (w / 2 ^ 68),
    gpred := BitVec.ofNat 3 (w / 2 ^ 78),
    gneg := w / 2 ^ 81 % 2 == 1,
    sub := BitVec.ofNat 6 (w / 2 ^ 82) }

/-- OPC, bits [95:88] (11 Table 11.3). -/
def opcOf (w : Nat) : Nat := w / 2 ^ 88 % 2 ^ 8

/-- The control word, bits [127:96] (11 Table 11.1). -/
def ctlOf (w : Nat) : Ctl :=
  { rsv := BitVec.ofNat 2 (w / 2 ^ 96),
    yld := w / 2 ^ 98 % 2 == 1,
    stall := BitVec.ofNat 4 (w / 2 ^ 99),
    rg := w / 2 ^ 103 % 2 == 1,
    nneg := w / 2 ^ 104 % 2 == 1,
    npred := BitVec.ofNat 3 (w / 2 ^ 105),
    ntgt := BitVec.ofNat 16 (w / 2 ^ 108),
    nsel := BitVec.ofNat 4 (w / 2 ^ 124) }

/-- A truth as a bit. -/
def bit01 (b : Bool) : Nat := if b then 1 else 0

/-- Bits [95:0] of a bundle. -/
def opwBits (opc : Nat) (o : Opw) : Nat :=
  o.imm.toNat + 2 ^ 32 * (o.aux.toNat + 2 ^ 6 * (o.c.toNat + 2 ^ 10 * (o.b.toNat + 2 ^ 10 *
    (o.a.toNat + 2 ^ 10 * (o.dst.toNat + 2 ^ 10 * (o.gpred.toNat + 2 ^ 3 * (bit01 o.gneg + 2 *
      (o.sub.toNat + 2 ^ 6 * opc))))))))

/-- Bits [127:96] of a bundle, as a 32-bit number. -/
def ctlBits (c : Ctl) : Nat :=
  c.rsv.toNat + 2 ^ 2 * (bit01 c.yld + 2 * (c.stall.toNat + 2 ^ 4 * (bit01 c.rg + 2 * (bit01 c.nneg + 2 *
    (c.npred.toNat + 2 ^ 3 * (c.ntgt.toNat + 2 ^ 16 * c.nsel.toNat))))))

/-- The CCTL row of SUB (12 Table 12.5); any other SUB keeps the first row, whose checks refuse it. -/
def cctlOf (o : Opw) : Instr :=
  if o.sub = 1 then .cctlL1inv o else if o.sub = 2 then .cctlL2wb o else if o.sub = 3 then .cctlL2ev o
  else .cctlIinv o

/-- The LXSUB row of SUB (13 R395). -/
def lxsubOf (o : Opw) : Instr := if o.sub = 1 then .lxsubNb o else .lxsub o

/-- The MMA row of SUB[3:2], J and G (14 R406). -/
def mmaOf (o : Opw) : Instr :=
  if o.sub.getLsbD 3 then (if o.sub.getLsbD 2 then .mmaGJ o else .mmaJ o)
  else (if o.sub.getLsbD 2 then .mmaG o else .mma o)

/-- The SWAPO row of SUB (15 R460). -/
def swapoOf (o : Opw) : Instr := if o.sub = 1 then .swapoIn o else .swapoOut o

/-- The operation of an opcode (11 Table 11.10); none for an unassigned one (11 R318). -/
def opInstr (opc : Nat) (o : Opw) : Option Instr :=
  match opc with
  | 0x00 => some (.nop o)
  | 0x01 => some (.srd o)
  | 0x02 => some (.swr o)
  | 0x03 => some (.trap o)
  | 0x04 => some (.hret o)
  | 0x05 => some (.cclr o)
  | 0x06 => some (.bar o)
  | 0x07 => some (.bara o)
  | 0x08 => some (.barw o)
  | 0x09 => some (.waitc o)
  | 0x0A => some (.fence o)
  | 0x0B => some (.fencex o)
  | 0x0C => some (.mon o)
  | 0x0D => some (.mwait o)
  | 0x0E => some (.sleep o)
  | 0x0F => some (.bkpt o)
  | 0x10 => some (.iadd o)
  | 0x11 => some (.isub o)
  | 0x12 => some (.imul o)
  | 0x13 => some (.imulh o)
  | 0x14 => some (.imad o)
  | 0x15 => some (.imin o)
  | 0x16 => some (.imax o)
  | 0x17 => some (.iabs o)
  | 0x18 => some (.lea o)
  | 0x19 => some (.icmp o)
  | 0x1A => some (.sel o)
  | 0x1B => some (.mov o)
  | 0x1C => some (.idiv o)
  | 0x20 => some (.andB o)
  | 0x21 => some (.orB o)
  | 0x22 => some (.xorB o)
  | 0x23 => some (.notB o)
  | 0x24 => some (.logt o)
  | 0x25 => some (.shl o)
  | 0x26 => some (.shr o)
  | 0x27 => some (.sar o)
  | 0x28 => some (.fshf o)
  | 0x29 => some (.bfe o)
  | 0x2A => some (.bfi o)
  | 0x2B => some (.popc o)
  | 0x2C => some (.clz o)
  | 0x2D => some (.brev o)
  | 0x2E => some (.bperm o)
  | 0x30 => some (.fadd o)
  | 0x31 => some (.fmul o)
  | 0x32 => some (.fmac o)
  | 0x33 => some (.fmin o)
  | 0x34 => some (.fmax o)
  | 0x35 => some (.fcmp o)
  | 0x36 => some (.fclass o)
  | 0x37 => some (.frnd o)
  | 0x38 => some (.cvt o)
  | 0x39 => some (.hadd2 o)
  | 0x3A => some (.hmul2 o)
  | 0x3B => some (.hmac2 o)
  | 0x3C => some (.vdot o)
  | 0x40 => some (.frcp o)
  | 0x41 => some (.frsq o)
  | 0x42 => some (.fsqrt o)
  | 0x43 => some (.fex2 o)
  | 0x44 => some (.flg2 o)
  | 0x45 => some (.fsin o)
  | 0x46 => some (.fcos o)
  | 0x47 => some (.fdiv o)
  | 0x48 => some (.dadd o)
  | 0x49 => some (.dmul o)
  | 0x4A => some (.dmac o)
  | 0x4B => some (.dcmp o)
  | 0x50 => some (.plop o)
  | 0x51 => some (.pmov o)
  | 0x52 => some (.vote o)
  | 0x53 => some (.shfl o)
  | 0x54 => some (.redf o)
  | 0x55 => some (.scanf o)
  | 0x56 => some (.matchV o)
  | 0x60 => some (.ld o)
  | 0x61 => some (.st o)
  | 0x62 => some (.lds o)
  | 0x63 => some (.sts o)
  | 0x64 => some (.ldk o)
  | 0x65 => some (.stk o)
  | 0x66 => some (.atom o)
  | 0x67 => some (.atoms o)
  | 0x68 => some (.red o)
  | 0x69 => some (.nmop o)
  | 0x6A => some (.pref o)
  | 0x6B => some (cctlOf o)
  | 0x70 => some (.samp o)
  | 0x71 => some (.sampg o)
  | 0x72 => some (.sampl o)
  | 0x73 => some (.txld o)
  | 0x74 => some (.imld o)
  | 0x75 => some (.imst o)
  | 0x76 => some (.attr o)
  | 0x77 => some (.pixlk o)
  | 0x78 => some (.pixul o)
  | 0x79 => some (.rtrace o)
  | 0x7A => some (.rastq o)
  | 0x7B => some (.rflush o)
  | 0x7C => some (.vbwr o)
  | 0x7D => some (.tlrel o)
  | 0x80 => some (lxsubOf o)
  | 0x81 => some (.cbinit o)
  | 0x82 => some (.cbarr o)
  | 0x83 => some (.cbwait o)
  | 0x84 => some (.cbtest o)
  | 0x85 => some (.dcset o)
  | 0x86 => some (.dcdec o)
  | 0x87 => some (.dlaunch o)
  | 0x88 => some (.nralloc o)
  | 0x89 => some (.nrsend o)
  | 0x8A => some (.nrdone o)
  | 0x8B => some (.qbind o)
  | 0x8C => some (.cobar o)
  | 0x8D => some (.cored o)
  | 0x90 => some (.mldw o)
  | 0x91 => some (.mswap o)
  | 0x92 => some (mmaOf o)
  | 0x93 => some (.mgrp o)
  | 0x94 => some (.mrd o)
  | 0x95 => some (.mclr o)
  | 0x96 => some (.mtag o)
  | 0x97 => some (.mcbt o)
  | 0x98 => some (.mwr o)
  | 0xA0 => some (.tmov o)
  | 0xA1 => some (.tgath o)
  | 0xA2 => some (.tscat o)
  | 0xA3 => some (.tfill o)
  | 0xB0 => some (.ptmap o)
  | 0xB1 => some (.ptinv o)
  | 0xB2 => some (.prireq o)
  | 0xB3 => some (swapoOf o)
  | 0xB4 => some (.gkill o)
  | 0xB5 => some (.gres o)
  | _ => none

/-- The sequencing form of NSEL (11 Table 11.2); 9 to 15 keep the first form, and the decode checks refuse
them (11 R301). -/
def seqInstr (c : Ctl) : Instr :=
  match c.nsel.toNat with
  | 1 => .jmp c
  | 2 => .bru c
  | 3 => .brl c
  | 4 => .callF c
  | 5 => .retF c
  | 6 => .loopF c
  | 7 => .jind c
  | 8 => .exitF c
  | _ => .seqF c

/-- A bundle's operation and control word; none for an unassigned opcode. -/
def decode (w : Nat) : Option (Instr × Ctl) :=
  (opInstr (opcOf w) (opwOf w)).map fun i => (i, ctlOf w)

/-- The opcode and fields of an operation; none for a sequencing form or an event. -/
def opParts : Instr → Option (Nat × Opw)
  | .nop o => some (0x00, o)
  | .srd o => some (0x01, o)
  | .swr o => some (0x02, o)
  | .trap o => some (0x03, o)
  | .hret o => some (0x04, o)
  | .cclr o => some (0x05, o)
  | .bar o => some (0x06, o)
  | .bara o => some (0x07, o)
  | .barw o => some (0x08, o)
  | .waitc o => some (0x09, o)
  | .fence o => some (0x0A, o)
  | .fencex o => some (0x0B, o)
  | .mon o => some (0x0C, o)
  | .mwait o => some (0x0D, o)
  | .sleep o => some (0x0E, o)
  | .bkpt o => some (0x0F, o)
  | .iadd o => some (0x10, o)
  | .isub o => some (0x11, o)
  | .imul o => some (0x12, o)
  | .imulh o => some (0x13, o)
  | .imad o => some (0x14, o)
  | .imin o => some (0x15, o)
  | .imax o => some (0x16, o)
  | .iabs o => some (0x17, o)
  | .lea o => some (0x18, o)
  | .icmp o => some (0x19, o)
  | .sel o => some (0x1A, o)
  | .mov o => some (0x1B, o)
  | .idiv o => some (0x1C, o)
  | .andB o => some (0x20, o)
  | .orB o => some (0x21, o)
  | .xorB o => some (0x22, o)
  | .notB o => some (0x23, o)
  | .logt o => some (0x24, o)
  | .shl o => some (0x25, o)
  | .shr o => some (0x26, o)
  | .sar o => some (0x27, o)
  | .fshf o => some (0x28, o)
  | .bfe o => some (0x29, o)
  | .bfi o => some (0x2A, o)
  | .popc o => some (0x2B, o)
  | .clz o => some (0x2C, o)
  | .brev o => some (0x2D, o)
  | .bperm o => some (0x2E, o)
  | .fadd o => some (0x30, o)
  | .fmul o => some (0x31, o)
  | .fmac o => some (0x32, o)
  | .fmin o => some (0x33, o)
  | .fmax o => some (0x34, o)
  | .fcmp o => some (0x35, o)
  | .fclass o => some (0x36, o)
  | .frnd o => some (0x37, o)
  | .cvt o => some (0x38, o)
  | .hadd2 o => some (0x39, o)
  | .hmul2 o => some (0x3A, o)
  | .hmac2 o => some (0x3B, o)
  | .vdot o => some (0x3C, o)
  | .frcp o => some (0x40, o)
  | .frsq o => some (0x41, o)
  | .fsqrt o => some (0x42, o)
  | .fex2 o => some (0x43, o)
  | .flg2 o => some (0x44, o)
  | .fsin o => some (0x45, o)
  | .fcos o => some (0x46, o)
  | .fdiv o => some (0x47, o)
  | .dadd o => some (0x48, o)
  | .dmul o => some (0x49, o)
  | .dmac o => some (0x4A, o)
  | .dcmp o => some (0x4B, o)
  | .plop o => some (0x50, o)
  | .pmov o => some (0x51, o)
  | .vote o => some (0x52, o)
  | .shfl o => some (0x53, o)
  | .redf o => some (0x54, o)
  | .scanf o => some (0x55, o)
  | .matchV o => some (0x56, o)
  | .ld o => some (0x60, o)
  | .st o => some (0x61, o)
  | .lds o => some (0x62, o)
  | .sts o => some (0x63, o)
  | .ldk o => some (0x64, o)
  | .stk o => some (0x65, o)
  | .atom o => some (0x66, o)
  | .atoms o => some (0x67, o)
  | .red o => some (0x68, o)
  | .nmop o => some (0x69, o)
  | .pref o => some (0x6A, o)
  | .cctlIinv o => some (0x6B, o)
  | .cctlL1inv o => some (0x6B, o)
  | .cctlL2wb o => some (0x6B, o)
  | .cctlL2ev o => some (0x6B, o)
  | .samp o => some (0x70, o)
  | .sampg o => some (0x71, o)
  | .sampl o => some (0x72, o)
  | .txld o => some (0x73, o)
  | .imld o => some (0x74, o)
  | .imst o => some (0x75, o)
  | .attr o => some (0x76, o)
  | .pixlk o => some (0x77, o)
  | .pixul o => some (0x78, o)
  | .rtrace o => some (0x79, o)
  | .rastq o => some (0x7A, o)
  | .rflush o => some (0x7B, o)
  | .vbwr o => some (0x7C, o)
  | .tlrel o => some (0x7D, o)
  | .lxsub o => some (0x80, o)
  | .lxsubNb o => some (0x80, o)
  | .cbinit o => some (0x81, o)
  | .cbarr o => some (0x82, o)
  | .cbwait o => some (0x83, o)
  | .cbtest o => some (0x84, o)
  | .dcset o => some (0x85, o)
  | .dcdec o => some (0x86, o)
  | .dlaunch o => some (0x87, o)
  | .nralloc o => some (0x88, o)
  | .nrsend o => some (0x89, o)
  | .nrdone o => some (0x8A, o)
  | .qbind o => some (0x8B, o)
  | .cobar o => some (0x8C, o)
  | .cored o => some (0x8D, o)
  | .mldw o => some (0x90, o)
  | .mswap o => some (0x91, o)
  | .mma o => some (0x92, o)
  | .mmaG o => some (0x92, o)
  | .mmaJ o => some (0x92, o)
  | .mmaGJ o => some (0x92, o)
  | .mgrp o => some (0x93, o)
  | .mrd o => some (0x94, o)
  | .mclr o => some (0x95, o)
  | .mtag o => some (0x96, o)
  | .mcbt o => some (0x97, o)
  | .mwr o => some (0x98, o)
  | .tmov o => some (0xA0, o)
  | .tgath o => some (0xA1, o)
  | .tscat o => some (0xA2, o)
  | .tfill o => some (0xA3, o)
  | .ptmap o => some (0xB0, o)
  | .ptinv o => some (0xB1, o)
  | .prireq o => some (0xB2, o)
  | .swapoOut o => some (0xB3, o)
  | .swapoIn o => some (0xB3, o)
  | .gkill o => some (0xB4, o)
  | .gres o => some (0xB5, o)
  | _ => none

/-- The control word of a sequencing form. -/
def ctlParts : Instr → Option Ctl
  | .seqF c => some c
  | .jmp c => some c
  | .bru c => some c
  | .brl c => some c
  | .callF c => some c
  | .retF c => some c
  | .loopF c => some c
  | .jind c => some c
  | .exitF c => some c
  | _ => none

/-- The 128 bits of the bundle of an operation and a control word. -/
def encode (i : Instr) (c : Ctl) : Option Nat :=
  (opParts i).map fun p => opwBits p.1 p.2 + 2 ^ 96 * ctlBits c

/-- Sixteen bytes, first at the lowest address, as one number (00 R7). -/
def leBytes : List Byte → Nat
  | [] => 0
  | b :: t => b.toNat + 256 * leBytes t

/-- The `n` bytes of a number, least significant first (00 R7). -/
def toBytes : Nat → Nat → List Byte
  | 0, _ => []
  | n + 1, x => BitVec.ofNat 8 x :: toBytes n (x / 256)

/-- The instruction a bundle whose bits are `w` stands for in the table: its operation, or its sequencing form
when the operation word is the plain NOP and the form is not SEQ. -/
def decodeTableWord (_nbits w : Nat) : Option Instr :=
  match decode w with
  | none => none
  | some (i, c) => if w % 2 ^ 96 = 0 ∧ c.nsel ≠ 0 then some (seqInstr c) else some i

end Sys2Proof
end

