-- ==== Sys2Proof/Machine/Operands.lean ====
section
/-!
DEFINITION. Operand specifiers and selectors (11 R305-R309), and for every operation the operands, SUB values,
AUX form and IMM32 use that its reference entry gives: the table that the decode checks of 11 R310 read.
-/
namespace Sys2Proof.Machine

/-- What an operand specifier names (11 Table 11.4). -/
inductive Opnd where
  | v (n : Nat)
  | s (n : Nat)
  | q (n : Nat)
  | h (n : Nat)
  | imm
  | cst (i : Nat)
  | bad
deriving DecidableEq, Repr

/-- The operand of a specifier (11 Table 11.4). -/
def opnd (sp : BitVec 10) : Opnd :=
  let x := sp.toNat
  let lo := x % 256
  if x < 256 then .v lo
  else if x < 512 then
    if lo < 64 then .s lo
    else if lo < 128 then .bad
    else if lo < 192 then (if lo % 64 < 16 then .q (lo % 16) else .bad)
    else (if lo % 64 < 16 then .h (lo % 16) else .bad)
  else if x < 768 then (if lo = 0 then .imm else .bad)
  else (if lo < 16 then .cst lo else .bad)

/-- The inline constants (11 Table 11.5). -/
def inlineConst (i : Nat) : Nat :=
  match i with
  | 0 => 0x00000000
  | 1 => 0x00000001
  | 2 => 0xFFFFFFFF
  | 3 => 0x00000002
  | 4 => 0x00000004
  | 5 => 0x00000008
  | 6 => 0x3F000000
  | 7 => 0x3F800000
  | 8 => 0x40000000
  | 9 => 0xBF800000
  | 10 => 0x7F800000
  | 11 => 0x7FC00000
  | 12 => 0x000000FF
  | 13 => 0x0000FFFF
  | 14 => 0x0000001F
  | _ => 0x0000003F

/-- How a field of an operation word is used. -/
inductive Use where
  /-- Not used: zero (11 R303). -/
  | zero
  /-- A specifier of the files in the mask (1 V, 2 S, 4 Q, 8 H, 16 IMM32, 32 inline constant), naming `n`
  consecutive registers from a multiple of `al`. -/
  | reg (files n al : Nat)
  /-- A V range of `n` registers from a multiple of `al`, or a Q register. -/
  | vOrQ (n al : Nat)
  /-- A predicate selector (11 Table 11.6): P allowed, K allowed. -/
  | pred (p k : Bool)
  /-- A Q register that an engine reads or fills (14 Table 14.1). -/
  | engQ
  /-- A tile selector. -/
  | tile
  /-- An in-flight counter selector. -/
  | ctr
  /-- A loop counter selector. -/
  | lcSel
  /-- The name of a queue register (14 R431). -/
  | qname
  /-- A raw field whose values the entry gives. -/
  | raw (ok : Bool)
deriving DecidableEq, Repr

/-- How AUX is used (11 R308). -/
inductive AuxUse where
  | zero
  /-- Rounding and saturation. -/
  | alu (rnd sat : Bool)
  /-- Scope, the orders in the mask, and the non-temporal bit. -/
  | mem (orders : Nat) (nt : Bool)
  /-- Only the scope (12 R346). -/
  | scope
  /-- Only the non-temporal bit (15 Table 15.3). -/
  | nt
deriving DecidableEq, Repr

/-- How IMM32 is used. -/
inductive ImmUse where
  /-- Non-zero only when a specifier selects it (11 R303). -/
  | sel
  /-- Any value. -/
  | any
  /-- Bits at and above `n` zero. -/
  | low (n : Nat)
  /-- A displacement, and a buffer record when BR is set (11 R316). -/
  | mem (br : Bool)
deriving DecidableEq, Repr

/-- The operand shape of an operation. `alu`: R309 applies; `wide`: one slice per pass; `lat`: fixed latency
(0: none); `mode`: 0 any, 1 handler modes, 2 supervisor handler mode (11 R310); `lx`: in the Lauter subset
(07 R208); `bad`: a further static reason for ILLOP. -/
structure Shape where
  dst : Use := .zero
  a : Use := .zero
  b : Use := .zero
  c : Use := .zero
  sub : Bool := true
  aux : AuxUse := .zero
  imm : ImmUse := .sel
  alu : Bool := false
  wide : Bool := false
  lat : Nat := 0
  mode : Nat := 0
  lx : Bool := false
  bad : Bool := false
deriving DecidableEq, Repr

/-- A source of one register, of any kind. -/
def uAny : Use := .reg 63 1 1
/-- A destination of one register. -/
def uDst : Use := .reg 15 1 1
/-- A register or pair source, constants widened. -/
def uSrc (n : Nat) : Use := if n = 1 then uAny else .reg 51 n n
/-- A register or pair destination. -/
def uDstN (n : Nat) : Use := if n = 1 then uDst else .reg 3 n n
/-- A uniform operand (12 R324). -/
def uUni : Use := .reg 50 1 1
/-- A uniform operand where IMM32 is not available. -/
def uUniC : Use := .reg 34 1 1
/-- An even S pair. -/
def uSPair : Use := .reg 2 2 2
/-- The index of an address (11 R316). -/
def uIdx : Use := .reg 47 1 1
/-- The base of a generic address: a V or S pair, or an omitted base. -/
def uBase : Use := .reg 35 2 2
/-- The base of a scratchpad or buffer-record operand. -/
def uOff : Use := .reg 47 1 1
/-- A predicate destination of either file. -/
def uPred : Use := .pred true true
/-- A K destination. -/
def uK : Use := .pred false true

/-- The words of an integer type code: 0 S32, 1 Z32, 2 S64, 3 Z64 (13 R380). -/
def typeWords (t : Nat) : Nat := if t % 4 < 2 then 1 else 2

/-- Is the specifier a V register? -/
def isV (sp : BitVec 10) : Bool := decide (sp.toNat < 256)

/-- Is the specifier an S register? -/
def isS (sp : BitVec 10) : Bool := match opnd sp with | .s _ => true | _ => false

/-- The registers of a load or store size code (13 Table 13.6); 0 for a reserved code. -/
def sizeWords (code : Nat) : Nat :=
  if code ≤ 4 then 1 else if code = 5 then 2 else if code = 6 then 4 else 0

/-- The bytes of a load or store size code. -/
def sizeBytes (code : Nat) : Nat :=
  match code with
  | 0 => 1
  | 1 => 1
  | 2 => 2
  | 3 => 2
  | 4 => 4
  | 5 => 8
  | 6 => 16
  | _ => 0

/-- The home operation of a SUB[4:0] of Table 12.1 and 14 R416, with its width in bits and the registers
SRCC holds; none for a reserved value. -/
def homeOpOf (code : Nat) : Option (HomeFn × Nat × Nat) :=
  match code with
  | 0x00 => some (.add 32, 32, 1)
  | 0x01 => some (.add 64, 64, 2)
  | 0x02 => some (.addLim 32, 32, 2)
  | 0x03 => some (.addLim 64, 64, 4)
  | 0x04 => some (.fadd .f32, 32, 1)
  | 0x05 => some (.fadd .f64, 64, 2)
  | 0x06 => some (.fadd .bf2, 32, 1)
  | 0x07 => some (.fadd .hf2, 32, 1)
  | 0x08 => some (.min .s32, 32, 1)
  | 0x09 => some (.min .z32, 32, 1)
  | 0x0A => some (.min .s64, 64, 2)
  | 0x0B => some (.min .z64, 64, 2)
  | 0x0C => some (.min .f32, 32, 1)
  | 0x0D => some (.min .f64, 64, 2)
  | 0x0E => some (.max .s32, 32, 1)
  | 0x0F => some (.max .z32, 32, 1)
  | 0x10 => some (.max .s64, 64, 2)
  | 0x11 => some (.max .z64, 64, 2)
  | 0x12 => some (.max .f32, 32, 1)
  | 0x13 => some (.max .f64, 64, 2)
  | 0x14 => some (.cas 32, 32, 2)
  | 0x15 => some (.cas 64, 64, 4)
  | 0x16 => some (.exch 32, 32, 1)
  | 0x17 => some (.exch 64, 64, 2)
  | 0x18 => some (.scaleAcc .f32, 32, 2)
  | 0x19 => some (.scaleAcc .f64, 64, 4)
  | 0x1A => some (.gath8, 256, 2)
  | _ => none

/-- The data operand of an atomic: one register or uniform, or a pair or quad of registers (12 R325). -/
def uAtom (n : Nat) : Use := if n = 1 then .reg 35 1 1 else .reg 3 n n

/-- The shape of ATOM, ATOMS and RED for a set of allowed codes. -/
def atomShape (o : Opw) (ok : Nat → Bool) (dst br : Bool) (orders : Nat) : Shape :=
  let code := o.sub.toNat % 32
  let isBr := o.sub.getLsbD 5
  match homeOpOf code with
  | some (_, w, n) =>
    { dst := if dst then .reg 1 (w / 32) (w / 32) else .zero,
      a := if isBr || !br then uOff else uBase, b := uIdx, c := uAtom n,
      sub := ok code && (br || !isBr), aux := .mem orders true, imm := .mem (br && isBr) }
  | none => { a := if isBr || !br then uOff else uBase, b := uIdx, c := uAny, sub := false, dst := uDst,
              aux := .mem orders true, imm := .mem (br && isBr) }

/-- Is an NMOP scalar-form (14 R416)? -/
def nmopScalar (o : Opw) : Bool :=
  isS o.a && isS o.c && !(isV o.b) && (match opnd o.b with | .q _ => false | .h _ => false | _ => true) &&
    (o.imm.getLsbD 23 || isS o.dst)

/-- The shape of NMOP (14 R416). -/
def nmopShape (o : Opw) : Shape :=
  let code := o.sub.toNat % 32
  let br := o.sub.getLsbD 5
  let nd := o.imm.getLsbD 23
  match homeOpOf code with
  | some (f, w, n) =>
    let dn := w / 32
    { dst := if nd then .zero else .reg (if nmopScalar o then 2 else 1) dn dn,
      a := if br then uOff else uBase, b := uIdx, c := uAtom n,
      sub := code ≠ 2 && code ≠ 3, aux := .mem (if nd then 5 else 15) true, imm := .mem br,
      lx := nmopScalar o, bad := nd && f == .gath8 }
  | none => { dst := uDst, a := uAny, b := uAny, c := uAny, sub := false, aux := .mem 15 true, imm := .any }

/-- The shape of LD, LDS and LDK (13 Table 13.6), `gen` for a generic address. -/
def loadShape (o : Opw) (file : Nat) (gen br : Bool) : Shape :=
  let n := sizeWords (o.sub.toNat % 32)
  let isBr := o.sub.getLsbD 5
  { dst := .reg file (max n 1) (max n 1), a := if gen && !isBr then uBase else uOff, b := uIdx,
    sub := n ≠ 0 && (br || !isBr), aux := .mem 3 true, imm := .mem (br && isBr) }

/-- Is the code one of the store sizes (15 R456)? -/
def storeCode (code : Nat) : Bool := code == 0 || code == 2 || code == 4 || code == 5 || code == 6

/-- The shape of ST and STS (15 R456). -/
def storeShape (o : Opw) (gen br : Bool) : Shape :=
  let code := o.sub.toNat % 32
  let n := sizeWords code
  let isBr := o.sub.getLsbD 5
  { a := if gen && !isBr then uBase else uOff, b := uIdx,
    c := if n ≤ 1 then .reg 47 1 1 else if n = 2 then .reg 35 2 2 else .reg 3 4 4,
    sub := storeCode code && (br || !isBr), aux := .mem 5 true, imm := .mem (br && isBr) }

/-- The shape of an integer operation over the type codes of 13 R380. -/
def intShape (o : Opw) (maxSub : Nat) (sat useB useC : Bool) : Shape :=
  let t := o.sub.toNat
  let wideForm := t == 4 || t == 5
  let n := if wideForm then 1 else typeWords t
  let nd := if wideForm then 2 else typeWords t
  { dst := uDstN nd, a := uSrc n, b := if useB then uSrc n else .zero, c := if useC then uSrc nd else .zero,
    sub := decide (t ≤ maxSub), aux := .alu false (sat && !wideForm), alu := true, lat := 2, lx := true }

/-- The shape of a 32- or 64-bit operation chosen by SUB. -/
def wordShape (o : Opw) (useB useC : Bool) : Shape :=
  let n := if o.sub.toNat = 0 then 1 else 2
  { dst := uDstN n, a := uSrc n, b := if useB then uSrc n else .zero, c := if useC then uSrc n else .zero,
    sub := decide (o.sub.toNat ≤ 1), aux := .alu false false, alu := true, lat := 2, lx := true }

/-- The shape of an FP32 operation. -/
def f32Shape (o : Opw) (useB useC rnd : Bool) (lat : Nat) : Shape :=
  { dst := uDst, a := uAny, b := if useB then uAny else .zero, c := if useC then uAny else .zero,
    sub := o.sub == 0, aux := .alu rnd false, alu := true, lat := lat, lx := true }

/-- The shape of an FP64 operation (12 R355). -/
def f64Shape (o : Opw) (useC : Bool) : Shape :=
  { dst := uDstN 2, a := uSrc 2, b := uSrc 2, c := if useC then uSrc 2 else .zero, sub := o.sub == 0,
    aux := .alu true false, alu := true, wide := true, lat := 8, lx := true }

/-- Bits of the CVT formats' codes that are 64 bits wide (12 Table 12.6). -/
def cvtWide (code : Nat) : Bool := code == 17 || code == 18 || code == 19

/-- Is the CVT code an integer format? -/
def cvtInt (code : Nat) : Bool := 9 ≤ code && code ≤ 18

/-- The shape of CVT (12 R353). -/
def cvtShape (o : Opw) : Shape :=
  let d := o.sub.toNat
  let sc := o.b.toNat
  let rm := o.aux.toNat / 16
  let narrow := (4 ≤ d && d ≤ 8) || d == 20
  { dst := uDstN (if cvtWide d then 2 else 1), a := uSrc (if cvtWide (sc % 32) then 2 else 1),
    b := .raw (decide (sc ≤ 20)), sub := decide (d ≤ 20), aux := .alu true true, alu := true,
    wide := cvtWide d || cvtWide (sc % 32), lat := 4, lx := true,
    bad := rm ≠ 0 && (narrow || (cvtInt d && cvtInt (sc % 32))) }

/-- The shape of REDF and SCANF (14 R435, 15 R448). -/
def reduceShape (o : Opw) (scan : Bool) : Shape :=
  let op := o.sub.toNat / 8
  let t := o.sub.toNat % 8
  let n := if t < 3 then 1 else 2
  let fp := t == 2 || t == 5
  { dst := .reg 3 n n,
    a := if scan then (if n = 1 then .reg 47 1 1 else .reg 35 2 2) else uSrc n,
    sub := op ≤ 5 && t ≤ 5 && !(op ≥ 3 && fp), aux := .alu (op == 0 && fp) false,
    imm := if scan then .low 1 else .sel, wide := t == 5, lat := 8 }

/-- The operand of a mash-array instruction by its kind (14 Table 14.1): SRCA and SRCB. -/
def mashA (kind rng : Nat) : Use :=
  match kind with
  | 0 => uSPair
  | 1 => .reg 2 1 1
  | 2 => .engQ
  | _ => .reg 1 rng 4

/-- SRCB of a mash-array instruction by its kind. -/
def mashB (kind : Nat) : Use := if kind < 2 then uUni else .zero

/-- The shape of a mash-array instruction with an operand: the highest kind allowed. -/
def mashShape (o : Opw) (dst c : Use) (maxKind rng : Nat) : Shape :=
  let kind := o.sub.toNat % 4
  { dst := dst, a := mashA kind rng, b := mashB kind, c := c, sub := decide (o.sub.toNat ≤ maxKind), imm := .low 0 }

/-- The shape of an MMA form (14 R406). -/
def mmaShape (o : Opw) : Shape :=
  let kind := o.sub.toNat % 4
  let g := o.sub.getLsbD 2
  let j := o.sub.getLsbD 3
  { dst := .tile, a := mashA kind 1, b := mashB kind, c := uUni, sub := decide (o.sub.toNat < 16), imm := .low 12,
    bad := (g && o.c ≠ 0x300) || (!j && o.imm.toNat % 256 ≠ 0) }

/-- The shape of a sampling instruction (15 R442). -/
def sampShape (o : Opw) (txld : Bool) : Shape :=
  let n := o.sub.toNat + 1
  { dst := .reg 1 n (if n ≤ 2 then n else 4), a := uSPair, b := uSPair, c := .reg 1 1 1,
    sub := decide (o.sub.toNat < 4), aux := .mem 1 true, imm := if txld then .low 4 else .sel }

/-- Number, words, per-lane, readable mode, writable mode (3: read-only) of a special register (11 Table 11.9). -/
def srInfo (n : Nat) : Option (Nat × Bool × Nat × Nat) :=
  if n ≤ 0x001 then some (1, true, 0, 3)
  else if n ≤ 0x008 then some (1, false, 0, 3)
  else if n ≤ 0x00A then some (1, true, 0, 3)
  else if n < 0x010 then none
  else if n ≤ 0x017 then some (1, false, 0, 0)
  else if n = 0x020 then some (2, false, 0, 3)
  else if n = 0x021 ∨ n = 0x022 then some (1, false, 0, 3)
  else match n with
    | 0x030 => some (2, false, 0, 3)
    | 0x031 => some (2, false, 0, 1)
    | 0x032 => some (1, false, 1, 3)
    | 0x033 => some (2, false, 2, 3)
    | 0x034 => some (1, false, 2, 3)
    | 0x035 => some (1, true, 0, 3)
    | 0x036 => some (1, true, 2, 3)
    | 0x037 => some (1, false, 2, 3)
    | _ => none

/-- The shape of SRD (15 R454, 11 R315). -/
def srdShape (o : Opw) : Shape :=
  match srInfo (o.imm.toNat % 65536) with
  | some (w, lane, rd, _) =>
    { dst := .reg (if lane then 1 else 3) w w, sub := o.sub == 0, imm := .low 16, lat := 2, mode := rd }
  | none => { dst := uDst, sub := o.sub == 0, imm := .low 16, lat := 2, bad := true }

/-- The shape of SWR (15 R454). -/
def swrShape (o : Opw) : Shape :=
  match srInfo (o.imm.toNat % 65536) with
  | some (w, _, _, wr) =>
    { a := if w = 1 then .reg 46 1 1 else .reg 34 2 2, sub := o.sub == 0, imm := .low 16,
      mode := if wr = 3 then 0 else wr, bad := wr == 3 }
  | none => { a := .reg 46 1 1, sub := o.sub == 0, imm := .low 16, bad := true }

/-- The shape of PMOV (14 R425). -/
def pmovShape (o : Opw) : Shape :=
  let kf := o.imm.getLsbD 8
  let badMask := kf && decide (16 ≤ o.imm.toNat % 256)
  let base : Shape := { sub := decide (o.sub.toNat ≤ 3), alu := true, lat := 2, lx := true, aux := .alu false false }
  match o.sub.toNat with
  | 0 => { base with dst := uPred, a := .reg 15 1 1, imm := .low 0 }
  | 1 => { base with dst := uDst, a := uPred, imm := .low 0, bad := o.a.getLsbD 3 && isV o.dst }
  | 2 => { base with dst := uDst, imm := .low 9, bad := badMask || (!kf && !isV o.dst), lx := kf }
  | _ => { base with a := uAny, imm := .low 9, bad := badMask || (kf && isV o.a), alu := false, lx := kf }

/-- The shape of MOV (14 R414). -/
def movShape (o : Opw) : Shape :=
  let base : Shape := { sub := decide (o.sub.toNat ≤ 3), alu := true, lat := 2, lx := true, aux := .alu false false }
  match o.sub.toNat with
  | 0 => { base with dst := uDst, a := uAny }
  | 1 => { base with dst := uDstN 2, a := uSrc 2 }
  | 2 => { base with dst := .lcSel, a := uUni }
  | _ => { base with dst := .reg 7 1 1, a := .lcSel }

/-- The shape of a tensor-movement instruction (15 R462). -/
def tensorShape (o : Opw) (walk useA : Bool) (eMax : Nat) : Shape :=
  let i := o.imm.toNat
  let d := i % 8
  let e := i / 8 % 8
  let bReg := match opnd o.b with | .s n => n | _ => 99
  let conv := useA && walk && o.c ≠ 0x300
  { dst := uSPair, a := if useA then uSPair else .zero, b := .reg 2 1 4,
    c := if useA && walk && o.c = 0x300 then .raw true else uSPair,
    sub := o.sub == 0, aux := .nt, imm := .low 8, lx := true,
    bad := decide (bReg > (if walk then 16 else 28)) ||
      (if walk then d == 0 || decide (d > 5) || decide (e > eMax) else d ≠ 0 || e ≠ 0) ||
      (conv && e ≠ 0) || (!useA && i / 64 % 2 == 1) }

/-- The shape of every operation word, from its entry; of a sequencing form or event, the empty shape. -/
def shape (ctx : Bool) : Instr → Shape
  | .nop o => { sub := o.sub == 0, lx := true }
  | .srd o => srdShape o
  | .swr o => swrShape o
  | .trap o => { sub := o.sub == 0, imm := .any, lx := true }
  | .hret o => { sub := o.sub == 0, bad := o.gneg || o.gpred ≠ 0 }
  | .cclr o => { a := .reg 50 2 2, sub := o.sub == 0, mode := 1 }
  | .bar o => { a := uUni, b := uUni, sub := o.sub == 0 }
  | .bara o => { a := uUni, b := uUni, sub := o.sub == 0 }
  | .barw o => { a := uUni, sub := o.sub == 0 }
  | .waitc o => { a := .ctr, b := uUni, sub := o.sub == 0, imm := .low 0, lx := true }
  | .fence o => { sub := o.sub == 0, aux := .mem 14 false, lx := true }
  | .fencex o =>
    { sub := o.sub == 0, aux := .mem 14 false, imm := .low 16,
      bad := o.imm.getLsbD 7 || o.imm.getLsbD 15 || o.imm.toNat % 256 == 0 || o.imm.toNat / 256 % 256 == 0 }
  | .mon o =>
    { dst := if o.sub = 2 then .zero else .reg 2 (o.sub.toNat + 1) (o.sub.toNat + 1), a := uSPair, b := uUni,
      sub := decide (o.sub.toNat ≤ 2), aux := .mem 3 true, imm := .low 24, lx := true }
  | .mwait o => { dst := uK, a := uUni, sub := o.sub == 0, lx := true }
  | .sleep o => { a := uUni, sub := o.sub == 0 }
  | .bkpt o => { sub := o.sub == 0, imm := .any }
  | .iadd o => intShape o 3 true true false
  | .isub o => intShape o 3 true true false
  | .imul o => intShape o 5 true true false
  | .imulh o => intShape o 3 false true false
  | .imad o => intShape o 5 true true true
  | .imin o => intShape o 3 false true false
  | .imax o => intShape o 3 false true false
  | .iabs o => { intShape o 3 true false false with sub := o.sub == 0 || o.sub == 2 }
  | .lea o =>
    let n := if o.sub = 0 then 1 else 2
    { dst := uDstN n, a := uSrc n, b := uAny, c := uAny, sub := decide (o.sub.toNat ≤ 2), alu := true, lat := 2,
      lx := true, aux := .alu false false }
  | .icmp o =>
    let n := typeWords (o.sub.toNat / 8)
    { dst := uPred, a := uSrc n, b := uSrc n, sub := decide (o.sub.toNat < 32 ∧ o.sub.toNat % 8 ≤ 5), alu := true,
      lat := 2, lx := true, aux := .alu false false }
  | .sel o =>
    let n := if o.sub = 0 then 1 else 2
    { dst := uDstN n, a := uSrc n, b := uSrc n, c := uPred, sub := decide (o.sub.toNat ≤ 1), alu := true, lat := 2,
      lx := true, aux := .alu false false }
  | .mov o => movShape o
  | .idiv o =>
    let t := o.sub.toNat
    let n := typeWords t
    { dst := uDstN n, a := uSrc n, b := uSrc n, sub := decide (t ≤ 7), aux := .alu false (t == 0 || t == 2),
      alu := true, wide := n == 2, lat := 24, lx := true }
  | .andB o => wordShape o true false
  | .orB o => wordShape o true false
  | .xorB o => wordShape o true false
  | .notB o => wordShape o false false
  | .logt o =>
    let n := if o.sub = 0 then 1 else 2
    let u : Use := if n = 1 then .reg 47 1 1 else .reg 35 2 2
    { dst := uDstN n, a := u, b := u, c := u, sub := decide (o.sub.toNat ≤ 1), imm := .low 8, alu := true, lat := 2,
      lx := true, aux := .alu false false }
  | .shl o => { wordShape o false false with b := uAny }
  | .shr o => { wordShape o false false with b := uAny }
  | .sar o => { wordShape o false false with b := uAny }
  | .fshf o => { f32Shape o true true false 2 with sub := decide (o.sub.toNat ≤ 3) }
  | .bfe o =>
    let n := if o.sub.toNat < 2 then 1 else 2
    { dst := uDstN n, a := uSrc n, b := uAny, sub := decide (o.sub.toNat ≤ 3), alu := true, lat := 2, lx := true,
      aux := .alu false false }
  | .bfi o =>
    let n := if o.sub = 0 then 1 else 2
    { dst := uDstN n, a := uSrc n, b := uSrc n, c := uAny, sub := o.sub == 0 || o.sub == 2, alu := true, lat := 2,
      lx := true, aux := .alu false false }
  | .popc o => { wordShape o false false with dst := uDst }
  | .clz o => { wordShape o false false with dst := uDst }
  | .brev o => wordShape o false false
  | .bperm o =>
    { dst := uDst, a := uAny, b := if o.sub = 0 then uAny else .reg 3 4 4, c := if o.sub = 0 then uAny else .zero,
      sub := decide (o.sub.toNat ≤ 2), alu := true, lat := 3, lx := true, aux := .alu false false }
  | .fadd o => f32Shape o true false true 4
  | .fmul o => f32Shape o true false true 4
  | .fmac o => f32Shape o true true true 4
  | .fmin o => f32Shape o true false false 4
  | .fmax o => f32Shape o true false false 4
  | .fcmp o => { f32Shape o true false false 4 with dst := uPred, sub := decide (o.sub.toNat ≤ 7) }
  | .fclass o => { f32Shape o true false false 4 with dst := uPred }
  | .frnd o => f32Shape o false false true 4
  | .cvt o => cvtShape o
  | .hadd2 o => { f32Shape o true false true 4 with sub := decide (o.sub.toNat ≤ 1) }
  | .hmul2 o => { f32Shape o true false true 4 with sub := decide (o.sub.toNat ≤ 1) }
  | .hmac2 o => { f32Shape o true true true 4 with sub := decide (o.sub.toNat ≤ 1) }
  | .vdot o =>
    { f32Shape o true true false 5 with
      sub := decide (o.sub.toNat ≤ 6), aux := .alu (decide (o.sub.toNat < 4)) (decide (4 ≤ o.sub.toNat)) }
  | .frcp o => f32Shape o false false true 8
  | .frsq o => f32Shape o false false false 8
  | .fsqrt o => f32Shape o false false true 8
  | .fex2 o => f32Shape o false false false 8
  | .flg2 o => f32Shape o false false false 8
  | .fsin o => f32Shape o false false false 8
  | .fcos o => f32Shape o false false false 8
  | .fdiv o => f32Shape o true false true 20
  | .dadd o => f64Shape o false
  | .dmul o => f64Shape o false
  | .dmac o => f64Shape o true
  | .dcmp o =>
    { f64Shape o false with dst := uPred, sub := decide (o.sub.toNat ≤ 7), aux := .alu false false }
  | .plop o =>
    { dst := uPred, a := uPred, b := uPred, c := uPred, sub := o.sub == 0, imm := .low 8, alu := true, lat := 2,
      lx := true, aux := .alu false false }
  | .pmov o => pmovShape o
  | .vote o =>
    let k := o.sub.toNat
    { dst := if k < 2 then uPred else .reg 3 1 1, a := uPred, b := if k = 2 then uUni else .zero,
      sub := decide (k ≤ 3), lat := 8, aux := .alu false false }
  | .shfl o =>
    let n := if o.sub.getLsbD 2 then 2 else 1
    { dst := .reg 1 n n, a := uSrc n, b := uAny, c := uUni, sub := decide (o.sub.toNat < 8), lat := 6,
      wide := n == 2, aux := .alu false false }
  | .redf o => reduceShape o false
  | .scanf o => reduceShape o true
  | .matchV o =>
    let kind := o.sub.toNat / 2
    let n := o.sub.toNat % 2 + 1
    { dst := if kind < 2 then .reg 1 1 1 else uPred, a := uSrc n, sub := decide (o.sub.toNat ≤ 5), lat := 8,
      aux := .alu false false, bad := kind == 2 && o.dst.getLsbD 3 && isV o.a }
  | .ld o => loadShape o 1 true true
  | .st o => storeShape o true true
  | .lds o => loadShape o 1 false false
  | .sts o => storeShape o false false
  | .ldk o => { loadShape o 2 true false with a := uSPair, b := uUniC, lx := true }
  | .stk o =>
    let n := sizeWords (o.sub.toNat % 32)
    { storeShape o true false with a := uSPair, b := uUniC, c := .reg 2 (max n 1) (max n 1), lx := true }
  | .atom o => atomShape o (fun c => c < 0x18) true true 15
  | .atoms o => atomShape o (fun c => c < 0x18) true false 15
  | .red o => atomShape o (fun c => c == 0 || c == 1 || (4 ≤ c && c < 0x14)) false true 5
  | .nmop o => nmopShape o
  | .pref o =>
    let br := o.sub.getLsbD 5
    { a := if br then uOff else uBase, b := uIdx, sub := decide (o.sub.toNat % 32 ≤ 1), imm := .mem br }
  | .cctlIinv o => { sub := o.sub == 0, aux := .scope }
  | .cctlL1inv o => { sub := o.sub == 1 }
  | .cctlL2wb o => { a := uBase, b := uIdx, c := .reg 35 1 1, sub := o.sub == 2, imm := .low 24 }
  | .cctlL2ev o => { a := uBase, b := uIdx, c := .reg 35 1 1, sub := o.sub == 3, imm := .low 24 }
  | .samp o => sampShape o false
  | .sampg o => sampShape o false
  | .sampl o => sampShape o false
  | .txld o => sampShape o true
  | .imld o =>
    let n := o.sub.toNat + 1
    { dst := .reg 1 n n, a := uSPair, b := .reg 1 1 1, sub := decide (o.sub.toNat < 4), aux := .mem 1 true,
      imm := .low 4 }
  | .imst o =>
    let n := o.sub.toNat + 1
    { a := uSPair, b := .reg 1 1 1, c := .reg 1 n n, sub := decide (o.sub.toNat < 4), aux := .mem 1 true,
      imm := .low 4 }
  | .attr o =>
    let na := o.imm.toNat / 256 % 32
    let g := if o.imm.getLsbD 13 then 12 else 4
    { dst := .vOrQ (10 + g * na) 1, sub := o.sub == 0, imm := .low 14, bad := decide (na > 16) }
  | .pixlk o => { a := uBase, b := uIdx, c := .reg 35 1 1, sub := o.sub == 0, imm := .low 24 }
  | .pixul o => { a := uBase, b := uIdx, c := .reg 35 1 1, sub := o.sub == 0, imm := .low 24 }
  | .rtrace o => { dst := .vOrQ 8 4, a := .reg 1 12 4, b := uSPair, sub := o.sub == 0 }
  | .rastq o => { a := uUni, sub := decide (o.sub.toNat ≤ 1), imm := .low 0 }
  | .rflush o => { sub := o.sub == 0 }
  | .vbwr o => { a := uIdx, b := uIdx, c := .reg 3 2 2, sub := decide (o.sub.toNat ≤ 1) }
  | .tlrel o => { sub := o.sub == 0 }
  | .lxsub o =>
    { a := if ctx then uSPair else uUniC, b := if ctx then .zero else uUni, sub := o.sub == 0, aux := .mem 1 true,
      imm := .low 24, lx := true }
  | .lxsubNb o =>
    { dst := uK, a := if ctx then uSPair else uUniC, b := if ctx then .zero else uUni, sub := o.sub == 1,
      aux := .mem 1 true, imm := .low 24, lx := true }
  | .cbinit o =>
    { a := uSPair, b := uUniC, c := .reg 34 2 2, sub := o.sub == 0, aux := .mem 1 false, imm := .low 24, lx := true }
  | .cbarr o =>
    { a := uSPair, b := uUniC, c := .reg 34 2 2, sub := o.sub == 0, aux := .mem 1 false, imm := .low 24, lx := true }
  | .cbwait o => { a := uSPair, b := uUniC, sub := o.sub == 0, aux := .mem 1 false, imm := .low 24 }
  | .cbtest o => { dst := uK, a := uSPair, b := uUniC, sub := o.sub == 0, aux := .mem 1 false, imm := .low 24 }
  | .dcset o => { dst := uK, a := uUni, b := uUni, c := uSPair, sub := o.sub == 0 }
  | .dcdec o => { a := uUni, b := uUni, sub := o.sub == 0, lx := true }
  | .dlaunch o => { dst := uK, a := uUniC, b := uUni, sub := o.sub == 0, imm := .low 24 }
  | .nralloc o => { dst := .reg 1 2 2, sub := o.sub == 0 }
  | .nrsend o => { a := .reg 1 2 2, b := uUni, sub := o.sub == 0, imm := .low 0 }
  | .nrdone o => { a := .reg 1 2 2, sub := o.sub == 0 }
  | .qbind o => { dst := .qname, a := uUni, sub := o.sub == 0, imm := .low 0 }
  | .cobar o => { a := uUni, sub := o.sub == 0, imm := .low 0 }
  | .cored o =>
    let op := o.sub.toNat / 8
    let t := o.sub.toNat % 8
    let n := if t < 3 then 1 else 2
    let fp := t == 2 || t == 5
    { dst := .reg 2 n n, a := .reg 50 n n, b := uUni, sub := op ≤ 5 && t ≤ 5 && !(op ≥ 3 && fp),
      imm := .low 0, aux := .alu (op == 0 && fp) false }
  | .mldw o => mashShape o .zero .zero 2 1
  | .mswap o => { sub := o.sub == 0 }
  | .mma o => mmaShape o
  | .mmaG o => mmaShape o
  | .mmaJ o => mmaShape o
  | .mmaGJ o => mmaShape o
  | .mgrp o => mashShape o .zero uUni 1 1
  | .mrd o => mashShape o .tile uUni 3 64
  | .mclr o => { dst := .tile, c := uUni, sub := o.sub == 0, imm := .low 0 }
  | .mtag o => { dst := .tile, a := uUni, sub := o.sub == 0, imm := .low 0 }
  | .mcbt o => mashShape o .zero .zero 1 1
  | .mwr o => mashShape o .tile uUni 3 64
  | .tmov o => tensorShape o true true 4
  | .tgath o => tensorShape o false true 0
  | .tscat o => tensorShape o false true 0
  | .tfill o => tensorShape o true false 3
  | .ptmap o => { dst := .reg 2 1 1, a := uUni, sub := o.sub == 0, imm := .low 0, mode := 2 }
  | .ptinv o =>
    let k := o.sub.toNat
    { a := if k < 2 then .reg 34 2 2 else .zero, b := if k < 2 then .reg 34 2 2 else .zero,
      c := if k = 1 ∨ k = 2 then uUni else .zero, sub := decide (k ≤ 3), imm := .low 0, mode := 2 }
  | .prireq o => { sub := o.sub == 0, mode := 2 }
  | .swapoOut o => { dst := uK, sub := o.sub == 0, mode := 2 }
  | .swapoIn o => { dst := uK, sub := o.sub == 1, mode := 2 }
  | .gkill o => { dst := uK, a := uUni, b := uUni, sub := o.sub == 0, mode := 2 }
  | .gres o => { dst := uK, a := uUni, b := uUni, c := uUni, sub := o.sub == 0, mode := 2 }
  | _ => {}

/-- A signed 24-bit displacement of IMM32 (11 R316). -/
def dispOf (o : Opw) : Int := sextNat o.imm.toNat 24

/-- A generic address (11 R316): base, signed index and displacement, modulo 2^64. -/
def genAddr (o : Opw) (base idx : Nat) : Nat := wrapInt ((base : Int) + sextNat idx 32 + dispOf o) 64

/-- A scratchpad offset or buffer operand sum, exact (11 R316). -/
def exactSum (o : Opw) (base idx : Nat) : Int := (base : Int) + sextNat idx 32 + dispOf o

/-- The scratchpad operand of a bundle (11 R316): the bytes it reaches and its access code, when its class has one that the decode
stage knows by SRCA and SRCB. -/
def scrUse : Instr → Option (Nat × Nat)
  | .lds o => some (sizeBytes (o.sub.toNat % 32), 0)
  | .sts o => some (sizeBytes (o.sub.toNat % 32), 1)
  | .atoms o => (homeOpOf (o.sub.toNat % 32)).map fun f => (f.2.1 / 8, 2)
  | .lxsub _ => some (64, 0)
  | .lxsubNb _ => some (64, 0)
  | .dlaunch _ => some (128, 0)
  | _ => none

/-- Does an instruction act once for its fragment, with a scratchpad operand (12 R324)? -/
def scrOnce : Instr → Bool
  | .lxsub _ => true
  | .lxsubNb _ => true
  | .dlaunch _ => true
  | _ => false

/-- Is an operand the same in every bundle of these bits: IMM32 or an inline constant? -/
def isConst (sp : BitVec 10) : Bool := match opnd sp with | .imm => true | .cst _ => true | _ => false

/-- Does the operand field of a bundle name the registers that the bundle writes? MRD.V does so in SRCA (14 Table 14.1). -/
def aWrites : Instr → Bool
  | .mrd o => o.sub.toNat % 4 == 3
  | _ => false

/-- The K register that a bundle's own variable-latency operation will write (11 R311): the operation completes after the bundle's
sequencing. -/
def slowK (i : Instr) (o : Opw) : Option Nat :=
  match i with
  | .cbtest _ => some (o.dst.toNat % 8)
  | .dcset _ => some (o.dst.toNat % 8)
  | .dlaunch _ => some (o.dst.toNat % 8)
  | .lxsubNb _ => some (o.dst.toNat % 8)
  | _ => none

/-- Reserved values and alignment of one field (11 R305-R307, 13 R364, 15 R440): a range of chapter 14, which starts at a multiple of 4,
may not run past V255 (14 R398). -/
def Use.badField (u : Use) (sp : BitVec 10) : Bool :=
  match u with
  | .zero => sp ≠ 0
  | .reg files n al =>
    match opnd sp with
    | .v k => !(files.testBit 0) || k % al ≠ 0 || (al == 4 && decide (k + n > 256))
    | .s k => !(files.testBit 1) || k % al ≠ 0
    | .q _ => !(files.testBit 2)
    | .h _ => !(files.testBit 3)
    | .imm => !(files.testBit 4)
    | .cst _ => !(files.testBit 5)
    | .bad => true
  | .vOrQ n al =>
    match opnd sp with
    | .v k => k % al ≠ 0 || decide (k + n > 256)
    | .q _ => false
    | .s _ => false
    | .h _ => false
    | _ => true
  | .pred p k =>
    decide (sp.toNat ≥ 16) || (if sp.getLsbD 3 then !k || sp.getLsbD 2 else !p)
  | .tile => decide (sp.toNat ≥ 8)
  | .ctr => decide (sp.toNat ≥ 7)
  | .lcSel => decide (sp.toNat ≥ 4)
  | .qname => match opnd sp with | .q _ => false | _ => true
  | .engQ => match opnd sp with | .q _ => false | _ => true
  | .raw ok => !ok

/-- Does the field select IMM32? -/
def Use.selImm (u : Use) (sp : BitVec 10) : Bool :=
  match u with
  | .reg _ _ _ => opnd sp == .imm
  | _ => false

/-- An illegal AUX value (11 R308). -/
def AuxUse.bad (u : AuxUse) (aux : BitVec 6) : Bool :=
  let x := aux.toNat
  match u with
  | .zero => x ≠ 0
  | .alu rnd sat => x % 8 ≠ 0 || (x / 8 % 2 == 1 && !sat) || (x / 16 ≠ 0 && !rnd)
  | .mem orders ntOk => decide (x / 8 ≥ 6) || !(orders.testBit (x / 2 % 4)) || (x % 2 == 1 && !ntOk)
  | .scope => decide (x / 8 ≥ 6) || x % 8 ≠ 0
  | .nt => decide (x ≥ 2)

/-- An illegal IMM32 value; `sel` says that a specifier selects it. -/
def ImmUse.bad (u : ImmUse) (imm : BitVec 32) (sel : Bool) : Bool :=
  match u with
  | .sel => !sel && imm ≠ 0
  | .any => false
  | .low n => decide (imm.toNat ≥ 2 ^ n)
  | .mem br => !br && decide (imm.toNat ≥ 2 ^ 24)

/-- Is DST a scalar destination: an S, Q or H register, or a K selector (11 R309)? -/
def Shape.scalarDst (sh : Shape) (o : Opw) : Bool :=
  match sh.dst with
  | .reg _ _ _ => !(isV o.dst)
  | .pred _ _ => o.dst.getLsbD 3
  | .lcSel => true
  | .zero => false
  | _ => false

/-- Is a source a V register or a P selector? -/
def Use.vecSrc (u : Use) (sp : BitVec 10) : Bool :=
  match u with
  | .reg _ _ _ => isV sp
  | .pred _ _ => !(sp.getLsbD 3)
  | _ => false

/-- Is the operation scalar-form (11 R309)? -/
def Shape.scalar (sh : Shape) (o : Opw) : Bool := sh.alu && sh.scalarDst o

/-- The reasons for ILLOP that the operation word alone decides (11 R310 item 1). -/
def Shape.illop (sh : Shape) (o : Opw) : Bool :=
  let sel := sh.a.selImm o.a || sh.b.selImm o.b || sh.c.selImm o.c
  !sh.sub || sh.bad || sh.dst.badField o.dst || sh.a.badField o.a || sh.b.badField o.b || sh.c.badField o.c ||
    sh.aux.bad o.aux || sh.imm.bad o.imm sel ||
    (sh.scalar o && (sh.a.vecSrc o.a || sh.b.vecSrc o.b || sh.c.vecSrc o.c))

/-- Illegal control word fields (11 R301, Table 11.2), the Lauter restriction of 07 R208 included. -/
def ctlIllop (c : Ctl) (ctx : Bool) : Bool :=
  let z := c.npred ≠ 0 || c.nneg
  c.rsv ≠ 0 ||
    match c.nsel.toNat with
    | 0 => c.ntgt ≠ 0 || z
    | 1 => z
    | 2 => decide (c.npred.toNat ≥ 4)
    | 3 => ctx && c.npred ≠ 0
    | 4 => z
    | 5 => c.ntgt ≠ 0 || z
    | 6 => decide (c.npred.toNat ≥ 4) || c.nneg
    | 7 => z || decide (c.ntgt.toNat ≥ 64) || c.ntgt.getLsbD 0
    | 8 => c.ntgt ≠ 0 || z
    | _ => true

end Sys2Proof.Machine
end

