-- ==== Sys2Proof/Machine/Tab.lean ====
section
/-!
DEFINITION. Sparse tables: lists of (key, value) pairs with keys strictly rising. A table with a default
lists no entry equal to the default, so that equal tables are equal lists. Memory is such a table (log entry 3).
-/
namespace Sys2Proof.Machine

/-- A sparse table by natural-number keys. -/
abbrev Tab (α : Type) := List (Nat × α)

/-- The entry under `k`, if listed. -/
def Tab.find? {α : Type} : Tab α → Nat → Option α
  | [], _ => none
  | (j, v) :: t, k => if j = k then some v else Tab.find? t k

/-- The value under `k`, an unlisted key reading as `d`. -/
def Tab.get {α : Type} (d : α) (t : Tab α) (k : Nat) : α := (Tab.find? t k).getD d

/-- `t` without `k`. -/
def Tab.del {α : Type} (t : Tab α) (k : Nat) : Tab α := t.filter fun e => e.1 != k

/-- `t` with `k` listed as `v`. -/
def Tab.put {α : Type} : Tab α → Nat → α → Tab α
  | [], k, v => [(k, v)]
  | (j, w) :: t, k, v =>
    if j = k then (k, v) :: t else if k < j then (k, v) :: (j, w) :: t else (j, w) :: Tab.put t k v

/-- `t` reading `v` under `k`: an entry equal to the default is removed. -/
def Tab.set {α : Type} [DecidableEq α] (d : α) (t : Tab α) (k : Nat) (v : α) : Tab α :=
  if v = d then Tab.del t k else Tab.put t k v

/-- `t` with `f` applied to the entry under `k`, if listed. -/
def Tab.upd {α : Type} (f : α → α) : Tab α → Nat → Tab α
  | [], _ => []
  | (j, v) :: t, k => if j = k then (j, f v) :: t else (j, v) :: Tab.upd f t k

/-- `t` without the keys from `lo` to `lo + n - 1`. -/
def Tab.clear {α : Type} (t : Tab α) (lo n : Nat) : Tab α :=
  t.filter fun e => !(lo ≤ e.1 && e.1 < lo + n)

/-- The keys. -/
def Tab.keys {α : Type} (t : Tab α) : List Nat := t.map (·.1)

/-- Keys strictly rising from `lo`, and no entry equal to the default. -/
def Tab.wfFrom {α : Type} [DecidableEq α] (d : α) : Nat → Tab α → Bool
  | _, [] => true
  | lo, (k, v) :: t => decide (lo ≤ k) && decide (v ≠ d) && Tab.wfFrom d (k + 1) t

/-- The canonical form of a table with a default. -/
def Tab.wf {α : Type} [DecidableEq α] (d : α) (t : Tab α) : Bool := Tab.wfFrom d 0 t

/-- A finite set of numbers kept in rising order. -/
abbrev NSet := List Nat

/-- Is `k` in the set? -/
def NSet.has (s : NSet) (k : Nat) : Bool := s.contains k

/-- The set with `k`. -/
def NSet.ins : NSet → Nat → NSet
  | [], k => [k]
  | j :: t, k => if j = k then j :: t else if k < j then k :: j :: t else j :: NSet.ins t k

/-- The set without `k`. -/
def NSet.era (s : NSet) (k : Nat) : NSet := s.filter (fun j => j != k)

/-- Position `i` of a list replaced, if it exists. -/
def setAt {α : Type} (l : List α) (i : Nat) (v : α) : List α := l.set i v

end Sys2Proof.Machine
end

