-- ==== Sys2Proof/Machine/State.lean ====
section
/-!
DEFINITION. The state of the device as plain data: everything the spec gives the machine (INVENTORY.md,
State), the reasons a step can stop, and the state right after reset.
-/
namespace Sys2Proof.Machine

/-- The reasons a meaning stops the model. -/
inductive Fault where
  /-- Raised by a bundle's meaning when no agent is issuing a bundle. Safe: a step runs such a meaning only
  while an agent issues, so no run meets it. -/
  | noAgent
deriving DecidableEq, Repr

/-- The reasons an instruction has no meaning here. -/
inductive Refusal where
  /-- An instruction of the table without a meaning in this model, by its mnemonic. Safe: the run stops. -/
  | notModelled (mnemonic : String)
deriving DecidableEq, Repr

/-- A call frame (02 R42, 05 R146): the return address and the fragment that pushed it. -/
structure Frame where
  ret : Nat
  owner : Nat
deriving DecidableEq, Repr

/-- What a blocked fragment waits for (02 R35). -/
inductive Block where
  /-- A named barrier: its number, the phase waited past, and whether the bundle is BARW. -/
  | bar (b phase : Nat)
  /-- A cohort barrier or reduction: the cohort and the phase waited past. -/
  | cohort (c phase : Nat)
  /-- MWAIT: the cycle at which a timeout expires, 0 for none, and the K register of the result. -/
  | mwait (deadline k : Nat)
  /-- SLEEP until a cycle. -/
  | sleep (till : Nat)
  /-- A queue register without room or words. -/
  | queue
  /-- CBWAIT: the flight that polls the barrier. -/
  | cbwait (fl : Nat)
  /-- NRALLOC back-pressure. -/
  | nralloc
  /-- LXSUB on a full command queue. -/
  | lxsub
  /-- PIXLK. -/
  | pixlk
  /-- RASTQ or RFLUSH with a full intake. -/
  | rastq
  /-- DLAUNCH with no pending entry and no overflow slot. -/
  | dlaunch
  /-- A counter at its limit (05 R136, 07 R196). -/
  | inflight
  /-- An ATS translation (09 R263). -/
  | ats
  /-- A migration hold (09 R270), with its token. -/
  | hold (fl : Nat)
  /-- PRIREQ without a free page request index (09 R263). -/
  | pri
  /-- WAITC: the counter and the value it must fall to. -/
  | counter (c k : Nat)
  /-- FENCE, FENCEX, PTINV, QBIND or another wait for operations of the gang: their flights. -/
  | drain (fls : List Nat)
deriving DecidableEq, Repr

/-- The state of a fragment (02 R35, R37; 05 Table 5.8). -/
inductive FStat where
  | ready
  | blocked (b : Block)
  | rgWait
deriving DecidableEq, Repr

/-- Names of registers that a producer's latency covers (11 R311). -/
inductive RegId where
  | v (n : Nat)
  | p (n : Nat)
  | s (n : Nat)
  | k (n : Nat)
  | h (n : Nat)
  | lc (n : Nat)
  | fmt
deriving DecidableEq, Repr

/-- A register inside a producer's fixed latency, with the values it held before: per lane for V and P,
under key 0 for the others (11 R311, R312). -/
structure Haz where
  reg : RegId
  till : Nat
  old : Tab Nat
deriving DecidableEq, Repr

/-- Accesses of a flight that later accesses must follow: on which later paths (bit mask), later reads,
later writes (06 R170, R172, R173). `ack`: of a release at fabric scope, whose writes wait for the acknowledgements of those before it
(06 R183). -/
structure Con where
  fl : Nat
  paths : Nat
  rd : Bool
  wr : Bool
  ack : Bool
deriving DecidableEq, Repr

/-- A fragment (02 R29): the unit that issues. `readyAt`, `lastIssue`, `created`, `blockedAt` and the hazards count its core's local cycles (11
R300, R311). `jt`: the target that the JIND of a bundle now waiting for its sequencing read before the bundle issued (11 R299). -/
structure Frag where
  pc : Nat
  mask : LaneMask
  fmt : W32
  lc : Vector W32 4
  frames : List Frame
  sdepth : Nat
  parent : Option Nat
  stat : FStat
  stopped : Bool
  rgOk : Bool
  pendSeq : Bool
  pendTrap : Bool
  pendBkpt : Bool
  readyAt : Nat
  run : Nat
  lastIssue : Nat
  created : Nat
  blockedAt : Nat
  haz : List Haz
  po : List Nat
  con : List Con
  skip : LaneMask
  jt : Option Nat
deriving DecidableEq, Repr

/-- A split record (02 R33). A child names a fragment or a record; none when it is gone. -/
structure SplitRec where
  fmt : W32
  lc : Vector W32 4
  frames : List Frame
  sdepth : Nat
  parent : Option Nat
  childT : Option Nat
  childF : Option Nat
deriving DecidableEq, Repr

/-- A queue register: its binding word and its words, oldest first (07 R186-R188). -/
structure Queue where
  bind : W32
  words : List W32
deriving DecidableEq, Repr

/-- A weight plane (07 R193, R194): format, recorded source, block bytes; `held` says that it holds a block, `stale`
that it is to be loaded again from its source (07 R205). `bad`: its poisoned sectors of 32 bytes (10 R290). -/
structure Plane where
  fmt : Nat
  src : Nat
  held : Bool
  stale : Bool
  data : List Byte
  bad : NSet
deriving DecidableEq, Repr

/-- The modes of Table 9.5. -/
inductive Mode where
  | user
  | userHandler
  | supHandler
deriving DecidableEq, Repr

/-- The handler slot (09 R254): what HRET restores. `mode` is the handler being run. -/
structure Slot where
  fid : Nat
  mode : Mode
  fmt : W32
  lc : Vector W32 4
  frames : List Frame
  k : BitVec 4
deriving DecidableEq, Repr

/-- A gang's part in a halt (09 R252). -/
inductive Halt where
  | running
  | received (n : Nat)
  | stopped
deriving DecidableEq, Repr

/-- The gang's monitor (14 R411, 05 R147): the line's key and address, armed, fired. -/
structure Monitor where
  line : Nat
  va : Nat
  armed : Bool
  fired : Bool
deriving DecidableEq, Repr

/-- A trap awaiting its handler: the raising fragment (09 R252-R254). -/
structure TrapSt where
  fid : Nat
  entered : Bool
deriving DecidableEq, Repr

/-- A gang (02 R24-R26, R48 and the special registers of Table 11.9). `esc`: its page fault's escalation: 0 none,
1 waiting for the host, 2 + outcome when answered and not yet acted on (09 R263, R264). `gslot`: its gang slot on its core (03 R69,
06 R182). `vbad`: the lanes of V registers that stand in a poisoned register line, by `vKey` (10 R290, R292); `abad`: the poisoned sectors of
its tiles, each of 8 words, by 1,024 times the tile plus 8 times the row plus the sector's number in the row. -/
structure Gang where
  wid : Nat
  num : Nat
  width : Nat
  core : Nat
  dp : Nat
  image : Nat
  frags : Tab Frag
  recs : Tab SplitRec
  v : Tab W32
  p : Vector LaneMask 8
  s : Tab W32
  k : BitVec 4
  h : Tab W32
  q : Vector Queue 16
  a : Tab W32
  active : Plane
  shadow : Plane
  codebook : List Byte
  groups : List (Nat × Nat)
  mshUsed : Bool
  cause : W64
  epc : W64
  skid : W32
  faddr : W64
  fsub : W32
  fmask : LaneMask
  dmask : LaneMask
  pristat : W32
  chk : W32
  fpctl : W32
  fpstat : W32
  mset : W32
  vplo : W32
  vphi : W32
  drawwait : W32
  helper : LaneMask
  ray : LaneMask
  entryRefs : Tab Nat
  mon : Monitor
  slot : Option Slot
  trap : Option TrapSt
  halt : Halt
  lastFid : Nat
  asyncs : List (Nat × Nat)
  lastArr : Tab Nat
  rcMissing : List (Nat × Nat)
  esc : Nat
  gslot : Nat
  vbad : NSet
  abad : NSet
  /-- The bytes of its context image as the device last wrote them, by offset: what supervisor code may have changed (05 R148). -/
  saved : Tab Byte
deriving DecidableEq, Repr

/-- The launch record's fields that outlive the launch (03 Table 3.4), and the kernel header's (11 Table 11.12). -/
structure Launch where
  addr : Nat
  tag : Nat
  khdr : Nat
  gx : Nat
  gy : Nat
  gz : Nat
  gangs : Nat
  width : Nat
  prio : Nat
  lflags : Nat
  part : Nat
  dcId : Nat
  cflags : Nat
  arg : Nat
  cohort : Nat
  nmAddr : Nat
  nmAddend : Nat
  chipset : Nat
  gen : Nat
  graph : Nat
deriving DecidableEq, Repr

/-- The kernel header's fields (11 Table 11.12). -/
structure KHdr where
  base : Nat
  hflags : Nat
  entry : Nat
  vregs : Nat
  sregs : Nat
  barriers : Nat
  scratch : Nat
  splitd : Nat
  calld : Nat
  width : Nat
  trapoff : Nat
  swapwait : Nat
  fmt : Nat
  bufoff : Int
  bufcnt : Nat
deriving DecidableEq, Repr

/-- How a grid came about, which decides its completion (03 R66, R85-R87; 08 R239). -/
inductive GridKind where
  | launch
  | graphRoot (graph : Nat)
  | node (graph node : Nat)
  | bin (cluster pass bin : Nat)
deriving DecidableEq, Repr

/-- A cohort's barrier state (12 R350): phase, the lanes of each workgroup that took part, the contributions. `sent`: this chip's share of
the open phase has gone to the origin (12 R352). -/
structure Cohort where
  phase : Nat
  lanes : Tab Nat
  op : Option Nat
  values : List (Nat × Nat)
  bad : Bool
  flights : List Nat
  sent : Bool
deriving DecidableEq, Repr

/-- A grid: the workgroups of one launch (02 R24, 03 R63-R66). `dead`: linear indexes killed before they were placed
(13 R377). `mc`: the origin and GEN of a launch over several chips (03 R88). -/
structure Grid where
  lr : Launch
  kh : KHdr
  kind : GridKind
  pasid : Nat
  base : Nat
  first : Nat
  count : Nat
  next : Nat
  live : Nat
  killed : Bool
  members : List (List Nat)
  cohortN : Nat
  cohorts : Tab Cohort
  lanes : Nat
  entries : List Nat
  reserve : Option Nat
  dead : NSet
  mc : Option (Nat × Nat)
deriving DecidableEq, Repr

/-- A cohort's state at the origin of a launch over several chips (12 R352): the phase, and the shares of the open phase: each chip's
operation, whether its contributions disagree, and its contributions. -/
structure HubCohort where
  phase : Nat
  shares : Tab (Option Nat × Bool × List Nat)
deriving DecidableEq, Repr

/-- The cohort state that the origin holds for a launch over several chips (12 R352): the launch, its members, its cohorts, and for each
chip the cohorts whose members there have all ended. -/
structure Hub where
  gen : Nat
  part : Nat
  lr : Launch
  members : List (List Nat)
  cohorts : Tab HubCohort
  ended : List (Nat × Nat)
  gone : List Nat
deriving DecidableEq, Repr

/-- A named barrier (12 R332): phase, lanes arrived, expected lanes, and the accesses that the arrivals of the
open phase and of the completed phases release. -/
structure Barrier where
  phase : Nat
  arrived : Nat
  expect : Nat
  cons : List Nat
  done : List Nat
deriving DecidableEq, Repr

/-- Where a workgroup stands (03 R81, 09 R261-R268; STATE of Table 5.6). `preempting` goes on issuing until its
pre-emption takes effect; `swapping` has stopped and drains before it is saved (state 3: before it parks). -/
inductive WStat where
  | resident
  | preempting
  | swapping (state : Nat)
  | away (state : Nat)
  | parked
deriving DecidableEq, Repr

/-- A workgroup placed and not ended (02 R24, R26). `haltAt`: the cycle in which its halt was broadcast. -/
structure Wg where
  grid : Nat
  linear : Nat
  gangs : List Nat
  stat : WStat
  halted : Bool
  haltAt : Nat
  prio : Nat
  part : Nat
  cores : List Nat
  fused : Bool
  scr : Tab Byte
  bars : List Barrier
  image : Nat
  imageLen : Nat
  placedAt : Nat
  forEntry : Option Nat
  wakes : List (Nat × Nat)
  woken : Bool
  swapo : Bool
  dblFault : Bool
  /-- Its core is retired (10 R292): it is saved as SWAPO saves. Once it is, the cores whose parts of a shadow region hold its on-chip state,
  each with the region's address and the count of the save (log entry 88). -/
  emptied : Option (List (Nat × Nat × Nat))
  /-- What its reads of each buffer record have given, the newest first (05 R149). -/
  bufs : Tab (List Nat)
deriving DecidableEq, Repr

/-- Where an access acts. -/
inductive Loc where
  /-- A byte address of memory, as a key (log entry 3): page attributes TSO, ZB. -/
  | mem (key : Nat) (tso zb : Bool)
  /-- Scratchpad of a workgroup. -/
  | scr (wid off : Nat)
  /-- Register space, with the partition of the supervisor code that reaches it. -/
  | reg (off part : Nat)
  /-- No address: a unit of the device. -/
  | dev
deriving DecidableEq, Repr

/-- What an access does where it acts (05 R129-R131, R140, R154; 08 R231; 95). -/
inductive HomeOp where
  | rd (n : Nat)
  | wr (n v : Nat) (table : Nat)
  | wbits (off len v : Nat) (table : Nat)
  /-- Bits [lo + len - 1 : lo] of a value converted with a stored scale: `scale` lists the scale's pieces, each twice its key (plus 1 on a
  ZB page) and its bytes. -/
  | welem (fmt off v : Nat) (scale : List (Nat × Nat)) (kind table lo len : Nat)
  | rmw (f : HomeFn) (x y n : Nat)
  | gath (idx : Nat)
  | cbInit (ae be : Nat)
  | cbArrive (n bytes : Nat)
  | cbRead
  | merge (pass part px : Nat) (depth : W32) (id : Nat) (flags : Nat)
  | or64 (m : Nat)
  | refsDec (pass part tile : Nat)
  | pinBit (pass part tile : Nat)
  | spill (pass part tile : Nat)
  | errs (pass part bits : Nat)
  | devRec (part addr code tag lin : Nat)
  | dcSet (id n task pasid : Nat)
  | dcDec (id m : Nat)
  | monArm (n va : Nat)
  | leafZero (len : Nat)
  | wback (n : Nat) (ev : Bool)
  | iinv (scope : Nat)
  | devNone
  | none
deriving DecidableEq, Repr

/-- One access of an operation in flight: a lane's, or a scalar-form one. -/
structure Acc where
  lane : Nat
  slot : Nat
  va : Nat
  loc : Loc
  op : HomeOp
  res : Nat
  done : Bool
  waitSince : Nat
  poisoned : Bool
deriving DecidableEq, Repr

/-- How results reach registers when an operation completes (05 R137, R138). -/
inductive Dest where
  | none
  /-- Raw words of each lane's result into V registers from the base: count, and the load's extension
  (0 none, else 2·bits + signed). -/
  | v (base words ext : Nat)
  /-- Decoded elements: register base, element format, per-lane slots, scale mode. -/
  | elem (base n fmt scale : Nat)
  /-- The first channels of each lane's texel: register base, channels, element code and the texel's own channels; a lane with no texel
  gets those of a place outside the image. -/
  | texel (base n code chans : Nat)
  /-- Words into S registers. -/
  | s (base words ext : Nat)
  /-- A scalar truth into a K register, its number the selector modulo 8: true when the result is non-zero. -/
  | k (sel : Nat)
  /-- Words pushed to a queue register in lane order. -/
  | q (n words : Nat)
deriving DecidableEq, Repr

/-- Page attributes kept with an operation: virtual 4 KiB page, key of its first byte, TSO, ZB. -/
structure PageMap where
  vpage : Nat
  key : Nat
  tso : Bool
  zb : Bool
deriving DecidableEq, Repr

/-- A FENCEX of an agent that came after an operation: the writer paths and the reader paths that it joins (06 R173). -/
structure Join where
  ag : Agent
  writers : Nat
  readers : Nat
deriving DecidableEq, Repr

/-- An operation issued and not retired (05 R136-R139). `slot` numbers the gang slot or context slot that issued it (06 R182). `instr` names the operation; `sw` and `lw` hold
the scalar and per-lane operands read at issue; `cur` is a row or element cursor. `joins`: the FENCEXs that its accesses
happen before; `fenced`: the acq-rel FENCEs that it happens before, each by its agent and scope (06 R172); `acks`: the writes whose
acknowledgements it waits for (06 R183). -/
structure Flight where
  id : Nat
  ag : Agent
  core : Nat
  slot : Nat
  path : Nat
  cnt : Bool
  instr : Instr
  mask : LaneMask
  pc : Nat
  pasid : Nat
  scope : Nat
  acq : Bool
  rel : Bool
  rd : Bool
  wr : Bool
  nt : Bool
  handler : Bool
  after : List Nat
  accs : List Acc
  dest : Dest
  fmt : W32
  sw : List Nat
  lw : Tab (List Nat)
  pages : List PageMap
  cur : Nat
  born : Nat
  grant : Nat
  withdrawn : Bool
  invals : List Agent
  tafter : List Nat
  clash : List (RegId × LaneMask)
  joins : List Join
  fenced : List (Agent × Nat)
  acks : List Nat
deriving DecidableEq, Repr

/-- Room held on a core for an entry (03 R70): gang slots, scratchpad bytes, barrier entries. -/
structure RoomAt where
  core : Nat
  gangs : Nat
  scratch : Nat
  bars : Nat
deriving DecidableEq, Repr

/-- A dispatch-queue entry (03 R67, R68): a grid with workgroups left, or a workgroup that returns. -/
structure Entry where
  id : Nat
  part : Nat
  grid : Nat
  wid : Option Nat
  base : Nat
  eff : Nat
  rounds : Nat
  victim : Option Nat
  room : List RoomAt
deriving DecidableEq, Repr

/-- A dependence counter (03 R75). -/
structure DepCtr where
  count : Int
  task : Nat
  pasid : Nat
  armed : Bool
  err : Bool
deriving DecidableEq, Repr

/-- A record on its way from DLAUNCH to dispatch (03 R79): `bytes` in the pending queue, or in slot `slot` of the partition's
launch-overflow area. -/
structure Pending where
  core : Nat
  spilled : Bool
  slot : Nat
  issued : Nat
  pasid : Nat
  part : Nat
  base : Nat
  bytes : List Byte
  cons : List Nat
deriving DecidableEq, Repr

/-- A slot of a cask pool (03 R83, Table 3.8); a slot not listed is FREE. -/
inductive CaskSt where
  | held (gid : Nat) (fromRes : Option Nat)
  | committed (node : Nat)
  | running (gid lane node : Nat)
deriving DecidableEq, Repr

/-- A node of a work graph (03 R82, Table 3.7) with its open batch. -/
structure GNode where
  khdr : Nat
  recBytes : Nat
  batch : Nat
  prio : Nat
  timeout : Nat
  reserve : Nat
  open_ : List Nat
  lastAppend : Nat
deriving DecidableEq, Repr

/-- A running work graph (03 R82-R87). -/
structure Graph where
  addr : Nat
  grid : Nat
  part : Nat
  pasid : Nat
  lr : Launch
  slotLog2 : Nat
  slots : Nat
  pool : Nat
  nodes : List GNode
  cask : Tab CaskSt
  blocked : List (Nat × Nat)
  rootDone : Bool
deriving DecidableEq, Repr

/-- A multi-chip launch in progress on this chip (03 R88-R91). -/
structure McLaunch where
  origin : Nat
  gen : Nat
  part : Nat
  lr : Launch
  pasid : Nat
  q : Option (Nat × Nat × Nat)
  reports : Tab Nat
  since : Nat
  accepted : Bool
  kh : KHdr
  members : List (List Nat)
  cohortN : Nat
  graph : Option Graph
deriving DecidableEq, Repr

/-- An enabled or disabled work queue's descriptor (03 Table 3.1) and the front end's read index. `enabling`: the QFLAGS of an enable that
waits for the host's translation of the read index's page (10 R274). -/
structure WorkQ where
  base : Nat
  log2 : Nat
  qflags : W32
  widxAddr : Nat
  ridxAddr : Nat
  errAddr : Nat
  pasid : Nat
  partMask : Nat
  errcount : Nat
  errtail : Nat
  errhead : Nat
  ridx : Nat
  enabling : Option W32
deriving DecidableEq, Repr

/-- A CBOP request whose outcome the home has not yet reported (03 R61). -/
structure CbReq where
  q : Nat
  index : Nat
  tag : Nat
  pasid : Nat
  part : Nat
  addr : Nat
  op : HomeOp
  scope : Nat
deriving DecidableEq, Repr

/-- A partition block (10 Table 10.4). -/
structure PartBlk where
  supvec : W64
  ftpool : W64
  dering : W64
  dehead : W32
  detail : W32
  lovf : W64
  lfring : W64
  lflog2 : W32
  lfhead : W32
  lftail : W32
  shadow : W64
  pen : W32
  derovf : W32
  stalecnt : W32
  imgbase : W64
  imgsize : W64
  mctimeout : W32
deriving DecidableEq, Repr

/-- The states of a Lauter context (07 R210). A context parked by a tensor-movement element keeps the wait it was in. -/
inductive CtxStat where
  | free
  | running
  | waiting (deadline k : Nat) (ctr : Option Nat)
  | parked (fromCompleting : Bool) (wait : Option (Nat × Nat × Option Nat))
  | completing
deriving DecidableEq, Repr

/-- A LAUTER packet (07 Table 7.6) with its submitter's PASID and partition, and the workgroup that submitted it by LXSUB or
LAU_CMD (15 R462); `lx`: by LXSUB, whose issue the packet follows (13 R397). -/
structure LPacket where
  entry : Nat
  arg : List W32
  cbAddr : Nat
  cbBytes : Nat
  dcId : Nat
  cfl : Nat
  pasid : Nat
  part : Nat
  tag : Nat
  cons : List Nat
  wid : Option Nat
  lx : Bool
deriving DecidableEq, Repr

/-- A Lauter context (07 R208-R212); `jt` as a fragment's. -/
structure Ctx where
  stat : CtxStat
  pkt : LPacket
  s : Tab W32
  k : BitVec 4
  lc : Vector W32 4
  frames : List Nat
  pc : Nat
  mon : Monitor
  seqOnly : Bool
  restart : Option Nat
  arrived : Bool
  asyncs : List Nat
  readyAt : Nat
  haz : List Haz
  po : List Nat
  con : List Con
  jt : Option Nat
deriving DecidableEq, Repr

/-- A Lauter fault record not yet written (10 R278). -/
structure LfRec where
  part : Nat
  cause : Nat
  who : Nat
  pc : Nat
  addr : Nat
  elem : Nat
  pasid : Nat
deriving DecidableEq, Repr

/-- The members' joint operations held at a rendezvous latch, or, once it has released them, running (07 R203). -/
structure Latch where
  grid : Nat
  set : W32
  evenWg : Nat
  tag : Nat
  rows : List Nat
  flights : List Nat
  broken : Bool
  running : Bool
deriving DecidableEq, Repr

/-- A grant or a request at a kiln (07 R217): since when, and, when its operation waits for something else, 1 more than the cycle in which
that wait began. -/
structure KilnReq where
  who : Nat
  units : Nat
  since : Nat
  stalled : Nat
deriving DecidableEq, Repr

/-- A raster request (08 R224, R228): the pass, its tile, seal; or a flush of the pass. `id` gives the order of acceptance,
`cur` the bin entries that the classify engine has appended. -/
structure RastReq where
  id : Nat
  pass : Nat
  tile : Nat
  sealIt : Bool
  flush : Bool
  pasid : Nat
  part : Nat
  cur : Nat
  cons : List Nat
deriving DecidableEq, Repr

/-- A pinned tile (08 R234, R235) with the keys of its four pages. -/
structure Pin where
  pass : Nat
  pasid : Nat
  part : Nat
  tile : Nat
  keys : List Nat
deriving DecidableEq, Repr

/-- A tile whose opening waits for room among the pinned lines (08 R235); `free`: it may open unpinned. -/
structure PinWait where
  pin : Pin
  since : Nat
  free : Bool
deriving DecidableEq, Repr

/-- A material bin's ring on one cluster (08 R238, R239): entries appended and launched, last append. -/
structure BinSt where
  cluster : Nat
  pass : Nat
  bin : Nat
  pasid : Nat
  part : Nat
  appended : Nat
  launched : Nat
  last : Nat
deriving DecidableEq, Repr

/-- A ray on its way through the traversal unit (07 R213, 08 R242): its operation and lane. -/
structure RayHit where
  fl : Nat
  lane : Nat
deriving DecidableEq, Repr

/-- A pass the device knows (08 R241): its descriptor address, PASID and partition, and what the engines
have seen of its end. -/
structure PassSt where
  addr : Nat
  pasid : Nat
  part : Nat
  closing : Bool
deriving DecidableEq, Repr

/-- A bond region that is not in its reset state (10 R285-R287): spares in use, a repair scheduled and since when, retraining under
way, since when transfers issued later wait, and the numbers of the transfers through its port that failed their CRC. -/
structure Region where
  spares : Nat
  scheduled : Bool
  since : Nat
  retraining : Bool
  pause : Option Nat
  fails : List Nat
deriving DecidableEq, Repr

/-- A stream's window of applied requests (06 R182): the next number expected, and the last 64 applied with
the prior values returned. -/
structure Window where
  src : Nat
  stream : Nat
  next : Nat
  applied : Tab Nat
  heldReqs : List FabReq
deriving DecidableEq, Repr

/-- A stream of this chip's requests to another (06 R182, R184): the gang or context slot and the path that it belongs to, its number,
the next sequence number, the requests not yet acknowledged with their operations, and the link in use. -/
structure Stream where
  slot : Nat
  path : Nat
  peer : Nat
  num : Nat
  seq : Nat
  unacked : List (Nat × Nat)
  link : Nat
deriving DecidableEq, Repr

/-- A repair record copy (10 R295): sequence number, whether its CRC holds, spares in use per region. -/
structure RepairRec where
  seq : Nat
  valid : Bool
  spares : Tab Nat
deriving DecidableEq, Repr

/-- A valid leaf held by a TLB (09 R260): the unit (core, or 256 + cluster, or 512 for the front end), the
PASID, the page's virtual base and size, and the entry. -/
structure TlbEnt where
  unit : Nat
  pasid : Nat
  base : Nat
  size : Nat
  leaf : Nat
deriving DecidableEq, Repr

/-- A line held by a core's L1 (05 R132), by its key divided by 128, with the bytes it was loaded with. `behind`: the
bytes of it that a non-temporal access, which leaves the line unchanged, has since found or made newer at home (06 R169, log entry 77). -/
structure L1Line where
  core : Nat
  line : Nat
  data : List Byte
  behind : NSet
deriving DecidableEq, Repr

/-- A byte that a write through a path replaced, and that reads through other paths may still find (06 R176, R178): where it stands (0 and its
key, or 1 more than its workgroup and its offset in the scratchpad), the write's number, the bytes before and after, the write's path, and
the agents (or all) and reading paths to which the write has become visible. The bytes of one write have one number; later writes have
greater ones. -/
structure Stale where
  place : Nat × Nat
  num : Nat
  old : Byte
  new : Byte
  path : Nat
  closed : List (Option Agent × Nat)
deriving DecidableEq, Repr

/-- A bundle's bytes held by a core's instruction cache (05 R126). -/
structure ICLine where
  core : Nat
  key : Nat
  data : List Byte
deriving DecidableEq, Repr

/-- The bundle being issued: who, where, its control word, the active lanes, a JIND target read before the
operation word, trap-after causes to take once sequencing is done (11 R299), and the latencies standing before
the bundle. -/
structure Issue where
  ag : Agent
  pc : Nat
  ctl : Ctl
  mask : LaneMask
  jt : Nat
  seqOnly : Bool
  after : Nat
  cyc : Nat
  passes : Nat
  haz : List Haz
deriving DecidableEq, Repr

/-- The device block's registers (10 Table 10.3). -/
structure DevBlk where
  stepping : Nat
  devctl : W64
  pasidtab : W64
  zbh0 : W64
  zbh1 : W64
  pinmax : W32
  chipid : W32
  winbase : W64
  fwver : W32
  clkstep : W32
  replace : Bool
  nospare : Nat
  corr : Nat
  recovery : Bool
  recbad : Bool
  thermal : Bool
  pwrcap : Bool
  fabdeg : Bool
  cxldeg : Bool
deriving DecidableEq, Repr

/-- An event to come: the local cycles before it, and the event (log entry 4). -/
structure Sched where
  wait : Nat
  ev : Instr
deriving DecidableEq, Repr

/-- A write of the event in progress (log entry 7): a byte, or zeros over a range; or, at a reset, a byte that GDDR still
held, or a range whose contents are gone (10 R294); or that a whole ZB block was stored, its bytes apart (05 R160). -/
inductive JW where
  | byte (key : Nat) (b : Byte)
  | zeros (key n : Nat)
  | back (key : Nat) (b : Byte)
  | lose (key n : Nat)
  | block (b : Nat)
deriving DecidableEq, Repr

/-- A message sent to the host or to another chip (09 R263, 03 R88): kind and fields. -/
structure OutMsg where
  kind : Nat
  args : List Nat
deriving DecidableEq, Repr

/-- The whole device. -/
structure State where
  cycle : Nat
  /-- How far each core's count of local cycles is behind the device's (10 R297, log entry 5). -/
  lag : Tab Nat
  mem : List Host.Cell
  poison : NSet
  zbBlocks : NSet
  cbUse : NSet
  l1 : List L1Line
  icache : List ICLine
  l2old : Tab Byte
  l2first : NSet
  tlb : List TlbEnt
  atc : List (Nat × Nat × Nat)
  flights : Tab Flight
  gangs : Tab Gang
  wgs : Tab Wg
  grids : Tab Grid
  entries : List Entry
  dps : Tab (Nat × Nat × Nat)
  dcs : Tab DepCtr
  pending : List Pending
  graphs : Tab Graph
  mcs : List McLaunch
  gens : List (Nat × Nat × Nat)
  images : List (Nat × Nat × Nat)
  swapped : NSet
  /-- For a partition swapped out, the shadow region's start and the count its free bytes were drawn at (09 R268). -/
  shadows : Tab (Nat × Nat)
  hubs : List Hub
  pri : Tab (Nat × Nat)
  priOff : Bool
  atsInv : List (Nat × Nat × List Nat)
  queues : Tab WorkQ
  cbops : Tab CbReq
  parts : List PartBlk
  dev : DevBlk
  kbudget : List Nat
  kilns : Tab (List KilnReq × List KilnReq)
  routes : List W64
  ctxs : Tab Ctx
  cmdqs : Tab (List LPacket)
  lfHeld : List LfRec
  tiles : List (Nat × Nat)
  latches : Tab Latch
  rast : Tab (List RastReq)
  seals : Tab (List RastReq)
  scans : Tab (List RastReq)
  bins : List BinSt
  rays : Tab RayHit
  passes : List PassSt
  pins : List Pin
  pinWait : List PinWait
  cores : Nat
  slices : Nat
  retiredCores : NSet
  retiredSlices : NSet
  links : List Nat
  windows : List Window
  streams : List Stream
  cxl : List Bool
  regions : Tab Region
  xfers : Tab Nat
  repair : List RepairRec
  soft : Tab Nat
  flash : List Byte
  flashOk : Bool
  flashNew : Option (List Byte)
  /-- Writes that the host has made to its own memory and that have not yet been seen, in PCIe order (06 R185): an input, as the agenda is. -/
  hostWrites : List (Nat × List Byte)
  /-- How many of them, the oldest, a read made at a bundle's issue has already seen (06 R185). -/
  hostSeen : Nat
  /-- Bytes that reads through another path may still find, the newest first (06 R178). -/
  older : List Stale
  hostOut : List OutMsg
  fabricOut : List OutMsg
  issue : Option Issue
  latch : Option Agent
  agenda : List Sched
  /-- The events of the default policy that have not had their turn in this cycle (the model's own field: log entry 4). -/
  round : Nat
  journal : List JW
  fresh : Nat
  nextId : Nat
deriving DecidableEq, Repr

/-- A packet of no context (a free context's). -/
def LPacket.empty : LPacket :=
  { entry := 0, arg := [], cbAddr := 0, cbBytes := 0, dcId := 0, cfl := 0, pasid := 0, part := 0, tag := 0,
    cons := [], wid := none, lx := false }

/-- A monitor that is not armed. -/
def Monitor.off : Monitor := { line := 0, va := 0, armed := false, fired := false }

/-- A context in state FREE (07 R210). -/
def Ctx.free : Ctx :=
  { stat := .free, pkt := LPacket.empty, s := [], k := 0, lc := Vector.replicate 4 0, frames := [], pc := 0,
    mon := Monitor.off, seqOnly := false, restart := none, arrived := false, asyncs := [], readyAt := 0,
    haz := [], po := [], con := [], jt := none }

/-- A queue descriptor with every field zero: disabled (03 Table 3.1). -/
def WorkQ.zero : WorkQ :=
  { base := 0, log2 := 0, qflags := 0, widxAddr := 0, ridxAddr := 0, errAddr := 0, pasid := 0, partMask := 0,
    errcount := 0, errtail := 0, errhead := 0, ridx := 0, enabling := none }

/-- A dependence counter at reset (03 R75). -/
def DepCtr.zero : DepCtr := { count := 0, task := 0, pasid := 0, armed := false, err := false }

/-- A partition block at reset (10 Table 10.4): MCTIMEOUT 2,000,000; the rest log entry 2. -/
def PartBlk.reset : PartBlk :=
  { supvec := 0, ftpool := 0, dering := 0, dehead := 0, detail := 0, lovf := 0, lfring := 0, lflog2 := 0,
    lfhead := 0, lftail := 0, shadow := 0, pen := 0, derovf := 0, stalecnt := 0, imgbase := 0, imgsize := 0,
    mctimeout := 2000000 }

/-- The device block at reset (10 Tables 10.3, 10.6); values without a rule are log entry 2's. -/
def DevBlk.reset : DevBlk :=
  { stepping := 0, devctl := 0, pasidtab := 0, zbh0 := 0, zbh1 := 0, pinmax := 8192, chipid := 0, winbase := 0,
    fwver := 0, clkstep := 2000, replace := false, nospare := 0, corr := 0, recovery := false, recbad := false,
    thermal := false, pwrcap := false, fabdeg := false, cxldeg := false }

/-- A bond region with every spare free and nothing scheduled (10 R285). -/
def Region.reset : Region :=
  { spares := 0, scheduled := false, since := 0, retraining := false, pause := none, fails := [] }

/-- The machine right after reset (10 R294, R296): no work, every register at its reset value or, where the
spec gives none, at the value log entry 2 names. -/
def State.reset : State :=
  { cycle := 0, lag := [], mem := [], poison := [], zbBlocks := [], cbUse := [], l1 := [], icache := [], l2old := [], l2first := [],
    tlb := [], atc := [], flights := [], gangs := [], wgs := [], grids := [], entries := [], dps := [], dcs := [],
    pending := [], graphs := [], mcs := [], gens := [], images := [], swapped := [], shadows := [], hubs := [], pri := [],
    priOff := false, atsInv := [],
    queues := [], cbops := [], parts := List.replicate 8 PartBlk.reset, dev := DevBlk.reset,
    kbudget := List.replicate 32 32, kilns := [], routes := List.replicate 64 0, ctxs := [], cmdqs := [],
    lfHeld := [], tiles := [], latches := [], rast := [], seals := [], scans := [], bins := [], rays := [], passes := [],
    pins := [], pinWait := [], cores := 256, slices := 320, retiredCores := [],
    retiredSlices := [], links := List.replicate 18 0, windows := [], streams := [],
    cxl := [true, true, true, true], regions := [], xfers := [],
    repair := [{ seq := 1, valid := true, spares := [] }, { seq := 0, valid := true, spares := [] }], soft := [],
    flash := [], flashOk := true, flashNew := none, hostWrites := [], hostSeen := 0, older := [], hostOut := [], fabricOut := [], issue := none, latch := none,
    agenda := [], round := 0, journal := [], fresh := 0, nextId := 0 }

end Sys2Proof.Machine
end

