-- ==== Sys2Proof/Machine/Ops.lean ====
section
/-!
DEFINITION. The named operations over the state: lanes, fragments, registers, memory, poison, taking a cause and
returning from a handler, translation, and operations in flight.
-/
namespace Sys2Proof.Machine

/-! ### Lanes and masks -/

/-- The lanes of a mask below a width, in ascending order. -/
def lanesOf (width : Nat) (m : LaneMask) : List Nat := (List.range width).filter fun l => m.getLsbD l

/-- The mask of a list of lanes. -/
def maskOf (l : List Nat) : LaneMask := l.foldl (fun m i => m ||| (1#1024 <<< i)) 0

/-- The mask of lanes 0 to n - 1. -/
def maskLow (n : Nat) : LaneMask := BitVec.ofNat 1024 (2 ^ n - 1)

/-- The number of set lanes below a width. -/
def popLanes (width : Nat) (m : LaneMask) : Nat := (lanesOf width m).length

/-- The slices with a set lane, below a width (02 R29). -/
def slicesOf (width : Nat) (m : LaneMask) : List Nat :=
  (List.range (width / 8)).filter fun k => (m.toNat / 2 ^ (8 * k)) % 256 ≠ 0

/-- The position of a lane among the set lanes below it (02 Table 2.5, SR_FRANK). -/
def rankOf (m : LaneMask) (l : Nat) : Nat := popLanes l m

/-! ### Gangs, fragments, workgroups -/

/-- A gang by its number. -/
def State.gang? (s : State) (gid : Nat) : Option Gang := s.gangs.find? gid

/-- A fragment of a gang. -/
def State.frag? (s : State) (gid fid : Nat) : Option Frag := (s.gangs.find? gid).bind fun g => g.frags.find? fid

/-- A gang changed. -/
def State.updGang (s : State) (gid : Nat) (f : Gang → Gang) : State := { s with gangs := s.gangs.upd f gid }

/-- A fragment changed. -/
def State.updFrag (s : State) (gid fid : Nat) (f : Frag → Frag) : State :=
  s.updGang gid fun g => { g with frags := g.frags.upd f fid }

/-- A workgroup changed. -/
def State.updWg (s : State) (wid : Nat) (f : Wg → Wg) : State := { s with wgs := s.wgs.upd f wid }

/-- A grid changed. -/
def State.updGrid (s : State) (grid : Nat) (f : Grid → Grid) : State := { s with grids := s.grids.upd f grid }

/-- The workgroup of a gang. -/
def State.wgOf (s : State) (g : Gang) : Option Wg := s.wgs.find? g.wid

/-- The grid of a gang. -/
def State.gridOf (s : State) (g : Gang) : Option Grid := (s.wgOf g).bind fun w => s.grids.find? w.grid

/-- A Lauter context; one never used is FREE. -/
def State.ctx (s : State) (n : Nat) : Ctx := Tab.get Ctx.free s.ctxs n

/-- A Lauter context changed. -/
def State.updCtx (s : State) (n : Nat) (f : Ctx → Ctx) : State :=
  { s with ctxs := Tab.set Ctx.free s.ctxs n (f (s.ctx n)) }

/-- A partition block. -/
def State.part (s : State) (n : Nat) : PartBlk := s.parts.getD n PartBlk.reset

/-- A partition block changed. -/
def State.updPart (s : State) (n : Nat) (f : PartBlk → PartBlk) : State :=
  { s with parts := s.parts.set n (f (s.part n)) }

/-- The kernel header a gang runs under; of no grid, a header that declares nothing. -/
def KHdr.none : KHdr :=
  { base := 0, hflags := 0, entry := 256, vregs := 0, sregs := 0, barriers := 0, scratch := 0, splitd := 0,
    calld := 0, width := 32, trapoff := 0, swapwait := 0, fmt := 0, bufoff := 0, bufcnt := 0 }

/-- The kernel header of a gang. -/
def State.khOf (s : State) (g : Gang) : KHdr := ((s.gridOf g).map (·.kh)).getD KHdr.none

/-- The kernel header of a workgroup's grid. -/
def State.khWg (s : State) (w : Wg) : KHdr := ((s.grids.find? w.grid).map (·.kh)).getD KHdr.none

/-- Does a workgroup hold room on its cores? -/
def Wg.onChip (w : Wg) : Bool :=
  match w.stat with
  | .away _ => false
  | _ => true

/-- What a workgroup holds on each of its cores (03 R69, 05 R133). -/
def State.roomOf (s : State) (w : Wg) : List RoomAt :=
  let k := s.khWg w
  let scr := alignUp k.scratch 1024
  w.cores.zipIdx.map fun e =>
    { core := e.1,
      gangs := (w.gangs.filter fun g => (s.gang? g).any fun x => x.core == e.1).length,
      scratch := if w.fused then scr / 8 else scr, bars := if e.2 = 0 then k.barriers else 0 }

/-- The unit number of the TLB that serves the front end and the scheduler. -/
def devUnit : Nat := 512

/-- The cluster of a core (01 R14). -/
def clusterOf (core : Nat) : Nat := core / 8

/-- The cluster of a context numbered 64 · cluster + 16 · engine + context. -/
def ctxCluster (n : Nat) : Nat := n / 64

/-- The partition of a cluster (01 R15). -/
def partOfCluster (c : Nat) : Nat := c / 4

/-- The PASID of an agent. -/
def State.pasidOf (s : State) : Agent → Nat
  | .gang gid _ => (((s.gang? gid).bind fun g => s.gridOf g).map (·.pasid)).getD 0
  | .ctx n => (s.ctx n).pkt.pasid

/-- The partition of an agent. -/
def State.partOf (s : State) : Agent → Nat
  | .gang gid _ => (((s.gang? gid).bind fun g => s.wgOf g).map (·.part)).getD 0
  | .ctx n => partOfCluster (ctxCluster n)

/-- The core a gang is homed on, or 256 + cluster for a context: the unit whose TLB serves the agent. -/
def State.unitOf (s : State) : Agent → Nat
  | .gang gid _ => ((s.gang? gid).map (·.core)).getD 0
  | .ctx n => 256 + ctxCluster n

/-- The gang slot or context slot of an agent (06 R182): 64 times its core plus its slot there, or 2^20 plus the context. -/
def State.slotOf (s : State) : Agent → Nat
  | .gang gid _ => ((s.gang? gid).map fun g => 64 * g.core + g.gslot).getD 0
  | .ctx n => 2 ^ 20 + n

/-- The cluster an agent runs on. -/
def State.clusterOfAg (s : State) : Agent → Nat
  | .gang gid _ => clusterOf (((s.gang? gid).map (·.core)).getD 0)
  | .ctx n => ctxCluster n

/-- The mode a gang's bundles run in (09 R255). -/
def Gang.mode (g : Gang) : Mode := (g.slot.map (·.mode)).getD .user

/-- Does an agent run in supervisor handler mode? -/
def State.isSup (s : State) : Agent → Bool
  | .gang gid _ => (s.gang? gid).any fun g => g.mode == .supHandler
  | .ctx _ => false

/-- Does an agent run in a handler? -/
def State.inHandler (s : State) : Agent → Bool
  | .gang gid _ => (s.gang? gid).any fun g => g.mode != .user
  | .ctx _ => false

/-- The FMT register of an agent; a context has none (07 R208). -/
def State.fmtOf (s : State) : Agent → W32
  | .gang gid fid => ((s.frag? gid fid).map (·.fmt)).getD 0
  | .ctx _ => 0

/-! ### Registers -/

/-- The key of a V register's lane. -/
def vKey (n l : Nat) : Nat := n * 1024 + l

/-- A lane's V register. -/
def Gang.rdV (g : Gang) (n l : Nat) : W32 := Tab.get 0 g.v (vKey n l)

/-- A lane's V register written; what stands there is poisoned no longer (10 R290, log entry 10). -/
def Gang.wrV (g : Gang) (n l : Nat) (x : W32) : Gang :=
  { g with v := Tab.set 0 g.v (vKey n l) x, vbad := g.vbad.era (vKey n l) }

/-- A predicate register; P0 reads as true in every lane (02 R48). -/
def Gang.rdP (g : Gang) (n : Nat) : LaneMask := if n = 0 then BitVec.allOnes 1024 else g.p.getD n 0

/-- A predicate register written in the lanes of `m`; P0 ignores writes (02 R48). -/
def Gang.wrP (g : Gang) (n : Nat) (m x : LaneMask) : Gang :=
  if n = 0 then g else { g with p := g.p.setIfInBounds n ((g.p.getD n 0 &&& ~~~m) ||| (x &&& m)) }

/-- An S register of an agent. -/
def State.rdS (s : State) (ag : Agent) (n : Nat) : W32 :=
  match ag with
  | .gang gid _ => ((s.gang? gid).map fun g => Tab.get 0 g.s n).getD 0
  | .ctx c => Tab.get 0 (s.ctx c).s n

/-- An S register of an agent written. -/
def State.wrS (s : State) (ag : Agent) (n : Nat) (x : W32) : State :=
  match ag with
  | .gang gid _ => s.updGang gid fun g => { g with s := Tab.set 0 g.s n x }
  | .ctx c => s.updCtx c fun k => { k with s := Tab.set 0 k.s n x }

/-- A K predicate of an agent. -/
def State.rdK (s : State) (ag : Agent) (n : Nat) : Bool :=
  match ag with
  | .gang gid _ => ((s.gang? gid).map fun g => g.k.getLsbD n).getD false
  | .ctx c => (s.ctx c).k.getLsbD n

/-- A K file with one bit written. -/
def setKBit (k : BitVec 4) (n : Nat) (b : Bool) : BitVec 4 :=
  if b then k ||| (1#4 <<< n) else k &&& ~~~(1#4 <<< n)

/-- A K predicate of an agent written. -/
def State.wrK (s : State) (ag : Agent) (n : Nat) (b : Bool) : State :=
  match ag with
  | .gang gid _ => s.updGang gid fun g => { g with k := setKBit g.k n b }
  | .ctx c => s.updCtx c fun x => { x with k := setKBit x.k n b }

/-- A loop counter of an agent. -/
def State.rdLc (s : State) (ag : Agent) (n : Nat) : W32 :=
  match ag with
  | .gang gid fid => ((s.frag? gid fid).map fun f => f.lc.getD n 0).getD 0
  | .ctx c => (s.ctx c).lc.getD n 0

/-- A loop counter of an agent written. -/
def State.wrLc (s : State) (ag : Agent) (n : Nat) (x : W32) : State :=
  match ag with
  | .gang gid fid => s.updFrag gid fid fun f => { f with lc := f.lc.setIfInBounds n x }
  | .ctx c => s.updCtx c fun k => { k with lc := k.lc.setIfInBounds n x }

/-- The program counter of an agent. -/
def State.pcOf (s : State) : Agent → Nat
  | .gang gid fid => ((s.frag? gid fid).map (·.pc)).getD 0
  | .ctx c => (s.ctx c).pc

/-- The program counter of an agent written. -/
def State.setPc (s : State) (ag : Agent) (pc : Nat) : State :=
  match ag with
  | .gang gid fid => s.updFrag gid fid fun f => { f with pc := pc, rgOk := false, jt := none }
  | .ctx c => s.updCtx c fun k => { k with pc := pc, jt := none }

/-- A free choice of this step (00 R3). -/
def State.pick (s : State) (k : Nat) : Bool := Config.freeBit s.fresh k

/-- A name for a new fragment, record, gang, flight or entry. -/
def State.newId (s : State) : Nat × State := (s.nextId, { s with nextId := s.nextId + 1 })

/-! ### Memory -/

/-- The key of a byte: tier, peer chip and physical address (05 Table 5.1). -/
def memKey (tier peer pa : Nat) : Nat := tier * 2 ^ 60 + peer * 2 ^ 52 + pa

/-- The tier of a key. -/
def keyTier (k : Nat) : Nat := k / 2 ^ 60

/-- The tier of keys that stand for an access whose translation met poison (09 Table 9.6): what it reads is poisoned, and it
changes nothing. -/
def poisonTier : Nat := 15

/-- A core's own count of local cycles (10 R297): no clock of another core shares it (00 R9, log entry 5). -/
def State.coreCycle (s : State) (core : Nat) : Nat := s.cycle - Tab.get 0 s.lag core

/-- How far the clock of an agent's core is behind. -/
def State.lagOf (s : State) : Agent → Nat
  | .gang gid _ => ((s.gang? gid).map fun g => Tab.get 0 s.lag g.core).getD 0
  | .ctx _ => 0

/-- The local cycle that an agent counts (10 R297). -/
def State.cycleOf (s : State) (ag : Agent) : Nat := s.cycle - s.lagOf ag

/-- Local cycles pass; a core's clock may fall behind the others' (10 R297, log entry 5). -/
def State.passCycles (s : State) (n : Nat) : State :=
  let c := Config.freeNat s.fresh (2 ^ 56) % 256
  let k := Config.freeNat s.fresh (2 ^ 56 + 1) % (n + 1)
  { s with cycle := s.cycle + n, lag := Tab.set 0 s.lag c (Tab.get 0 s.lag c + k), fresh := s.fresh + 1 }

/-- The latest write of the event in progress to a byte. -/
def journalAt : List JW → Nat → Option Byte
  | [], _ => none
  | .byte j b :: t, k => if j = k then some b else journalAt t k
  | .zeros lo n :: t, k => if lo ≤ k ∧ k < lo + n then some 0 else journalAt t k
  | .back j b :: t, k => if j = k then some b else journalAt t k
  | .lose lo n :: t, k => if lo ≤ k ∧ k < lo + n then some 0 else journalAt t k
  | .block _ :: t, k => journalAt t k

/-- A byte of memory as the event in progress sees it; an unlisted byte reads as 0 (log entry 3). -/
def State.peek (s : State) (k : Nat) : Byte := (journalAt s.journal k).getD (Tab.get 0 s.mem k)

/-- `n` bytes from a key, as a little-endian number (00 R7). -/
def State.peekN (s : State) (k : Nat) : Nat → Nat
  | 0 => 0
  | n + 1 => (s.peek k).toNat + 256 * s.peekN (k + 1) n

/-- `n` bytes from a key. -/
def State.peekBytes (s : State) (k n : Nat) : List Byte := (List.range n).map fun i => s.peek (k + i)

/-- A byte written by the event in progress. -/
def State.poke (s : State) (k : Nat) (b : Byte) : State := { s with journal := .byte k b :: s.journal }

/-- Bytes written from a key on. -/
def State.pokeBytes (s : State) (k : Nat) : List Byte → State
  | [] => s
  | b :: t => (s.poke k b).pokeBytes (k + 1) t

/-- A little-endian number of `n` bytes written at a key. -/
def State.pokeN (s : State) (k n x : Nat) : State := s.pokeBytes k (toBytes n x)

/-- `n` bytes from a key on written with zeros. -/
def State.pokeZeros (s : State) (k n : Nat) : State := { s with journal := .zeros k n :: s.journal }

/-- How many of the host's writes to its memory, the oldest, an access of tier 3 sees in this step (06 R185, log entry 58). -/
def State.hostNow (s : State) : Nat :=
  max s.hostSeen (Config.freeNat s.fresh (2 ^ 49) % (s.hostWrites.length + 1))

/-- Before an access of tier 3 is applied, the oldest of the host's writes to its memory that have not been seen are: some number of them,
in PCIe order (06 R185, log entry 58). -/
def State.seeHost (s : State) (key : Nat) : State :=
  if keyTier key ≠ 3 then s else
  let n := s.hostNow
  (s.hostWrites.take n).foldl (fun (t : State) w => t.pokeBytes w.1 w.2) { s with hostWrites := s.hostWrites.drop n, hostSeen := 0 }

/-- The host's writes that a read made at a bundle's issue has seen stay seen: later accesses of tier 3 see them too. -/
def State.sawHost (s : State) (key : Nat) : State := if keyTier key ≠ 3 then s else { s with hostSeen := s.hostNow }

/-- One write of the journal applied to memory, which keeps its canonical form. -/
def applyJW (m : List Host.Cell) : JW → List Host.Cell
  | .byte k b => Tab.set 0 m k b
  | .zeros lo n => Tab.clear m lo n
  | .back k b => Tab.set 0 m k b
  | .lose lo n => Tab.clear m lo n
  | .block _ => m

/-- A journal, newest first, applied to memory. -/
def applyJournal (m : List Host.Cell) : List JW → List Host.Cell
  | [] => m
  | w :: t => applyJW (applyJournal m t) w

/-- The canonical form of memory: addresses strictly rising, no listed zero byte. -/
def Memory.wf (m : List Host.Cell) : Bool := Tab.wf 0 m

/-- Does a write of the journal touch a 128-byte line? A ZB block is stored whole (05 R160), so each of its lines is written. -/
def JW.hits (w : JW) (line : Nat) : Bool :=
  match w with
  | .byte k _ => k / 128 == line
  | .zeros lo n => decide (lo / 128 ≤ line) && decide (line * 128 < lo + n)
  | .block b => line / 4 == b
  | _ => false

/-- Is a 512-byte block among those of a journal that were written as plain bytes, and not as a ZB block? It is no ZB block any more
(05 R161). -/
def plainBlock (j : List JW) (b : Nat) : Bool :=
  (j.any fun w => match w with
    | .byte k _ => k / 512 == b
    | .zeros lo n => decide (lo / 512 ≤ b) && decide (b * 512 < lo + n)
    | _ => false) && !(j.any fun w => w == .block b)

/-- A monitor after the writes of a journal (14 R411). -/
def Monitor.after (m : Monitor) (j : List JW) : Monitor :=
  if m.armed && j.any (fun w => w.hits m.line) then { m with fired := true } else m

/-- The bytes GDDR still has for lines that the journal makes dirty in L2 (05 R132, 10 R294): tiers 0 and 1. -/
def trackL2 (mem : List Host.Cell) (old : Tab Byte) : List JW → Tab Byte
  | [] => old
  | .byte k _ :: t =>
    let o := trackL2 mem old t
    if keyTier k < 2 && (o.find? k).isNone then o.put k (Tab.get 0 mem k) else o
  | .zeros lo n :: t =>
    let o := trackL2 mem old t
    (mem.filter fun e => decide (lo ≤ e.1 ∧ e.1 < lo + n)).foldl
      (fun o e => if (o.find? e.1).isNone then o.put e.1 e.2 else o) o
  | _ :: t => trackL2 mem old t

/-- Does a write of the journal store a byte by itself? A ZB block's bytes are stored through its coding. -/
def JW.sets (w : JW) (k : Nat) : Bool :=
  match w with
  | .byte j _ => j == k
  | .zeros lo n => decide (lo ≤ k ∧ k < lo + n)
  | .back j _ => j == k
  | .lose lo n => decide (lo ≤ k ∧ k < lo + n)
  | .block _ => false

/-- The bytes that a path's reads may still find in place of newer ones, after an event that wrote a journal: a write that no path made is
visible to every read (06 R176), so nothing older than it is found. `old`: the records before the event, whose numbers are the lowest. -/
def dropOlder (old : List Stale) (j : List JW) (now : List Stale) : List Stale :=
  if now.isEmpty then [] else
  let last := (old.head?.map (·.num)).getD 0
  now.filter fun r =>
    r.place.1 ≠ 0 || decide (last < r.num) || !(j.any fun w => w.sets r.place.2) || j.contains (.block (r.place.2 / 512)) ||
      now.any fun x => x.place == r.place && decide (last < x.num)

/-- The bytes of lines that may have been written back to GDDR before a write: any of the dirty lines, freely (05 R132, log entry 43). -/
def State.stillDirty (s : State) : Tab Byte := s.l2old.filter fun e => !(s.pick (2 ^ 63 + e.1 / 128))

/-- The effects that every applied write has beyond its bytes: monitors fire, wake-table lines are seen, lines
become dirty in L2, ZB blocks written over as plain bytes are none any more. -/
def afterWrites (s : State) (j : List JW) : State :=
  if j.isEmpty then s else
  { s with
    gangs := s.gangs.map fun e => (e.1, { e.2 with mon := e.2.mon.after j }),
    ctxs := s.ctxs.map fun e => (e.1, { e.2 with mon := e.2.mon.after j }),
    wgs := s.wgs.map fun e =>
      (e.1, if e.2.wakes.any (fun w => j.any (fun x => x.hits w.1)) then { e.2 with woken := true } else e.2),
    l2old := trackL2 s.mem s.stillDirty j,
    zbBlocks := s.zbBlocks.filter fun b => !(plainBlock j b) }

/-- The outcome of an event that started in `s` and reached `t`: the journal is applied to memory once. -/
def runEv (s t : State) : Host.Outcome State Fault Refusal :=
  .next { afterWrites t t.journal with mem := applyJournal s.mem t.journal, older := dropOlder s.older t.journal t.older, journal := [] }

/-- The outcome of a bundle's part that started in `s` and reached `t`: a bundle writes no memory at issue. -/
def runOp (s t : State) : Host.Outcome State Fault Refusal :=
  .next { t with mem := s.mem, journal := [] }

/-- Is the 32-byte sector of a byte poisoned (05 R131, 10 R290)? -/
def State.isPoison (s : State) (k : Nat) : Bool := s.poison.has (k / 32)

/-- Is any sector of a range poisoned? -/
def State.poisonIn (s : State) (k n : Nat) : Bool :=
  s.poison.any fun p => decide (p * 32 < k + n ∧ k < p * 32 + 32)

/-! ### Causes -/

def cILLOP : Nat := 2 ^ 0
def cPRIV : Nat := 2 ^ 1
def cREGBOUND : Nat := 2 ^ 2
def cBARBOUND : Nat := 2 ^ 3
def cSCRBOUND : Nat := 2 ^ 4
def cSPLITDEPTH : Nat := 2 ^ 5
def cSTALLCHK : Nat := 2 ^ 6
def cMISALIGN : Nat := 2 ^ 7
def cPAGEFAULT : Nat := 2 ^ 8
def cPROT : Nat := 2 ^ 9
def cPOISON : Nat := 2 ^ 10
def cNV : Nat := 2 ^ 11
def cIDIVZ : Nat := 2 ^ 16
def cSWTRAP : Nat := 2 ^ 17
def cBKPT : Nat := 2 ^ 18
def cQBIND : Nat := 2 ^ 19
def cENGFAULT : Nat := 2 ^ 20
def cHALTSIB : Nat := 2 ^ 21
def cCALLDEPTH : Nat := 2 ^ 22

/-- The causes whose handler is the supervisor's (09 Table 9.2). -/
def supCauses : Nat := cPRIV + cPAGEFAULT + cPROT + cPOISON + cENGFAULT

/-- What a raise records (09 Table 9.3). -/
structure TrapInfo where
  causes : Nat
  faddr : Nat := 0
  fsub : Nat := 0
  fmask : LaneMask := 0
  dmask : LaneMask := 0

/-- The kinds of Table 9.2, an EXIT bundle's trap-after apart (09 R249). -/
inductive RKind where
  | fault
  | seqFault
  | after
  | exitAfter
  | async
deriving DecidableEq, Repr

/-- A cause met after issue waits for its fragment (09 R250). -/
def State.addAsync (s : State) (ag : Agent) (c : Nat) : State :=
  match ag with
  | .gang gid fid => s.updGang gid fun g => { g with asyncs := if g.asyncs.contains (fid, c) then g.asyncs else g.asyncs ++ [(fid, c)] }
  | .ctx n => s.updCtx n fun x => { x with asyncs := if x.asyncs.contains c then x.asyncs else x.asyncs ++ [c] }

/-- A device-side access queued by a bundle: it is applied by a later HOME_APPLY (log entry 7). -/
def State.devFlight (s : State) (ag : Agent) (loc : Loc) (op : HomeOp) : State :=
  { s with
    nextId := s.nextId + 1,
    flights := s.flights.put s.nextId
      { id := s.nextId, ag := ag, core := s.unitOf ag, slot := s.slotOf ag, path := 8, cnt := false,
        instr := .inFlightCompletion 0, mask := 0, pc := 0, pasid := s.pasidOf ag, scope := 3,
        acq := false, rel := false, rd := false, wr := true, nt := false, handler := false, after := [],
        accs := [{ lane := 0, slot := 0, va := 0, loc := loc, op := op, res := 0, done := false, waitSince := 0,
                   poisoned := false }],
        dest := .none, fmt := 0, sw := [], lw := [], pages := [], cur := 0, born := s.cycle, grant := 0,
        withdrawn := false, invals := [], tafter := [], clash := [], joins := [], fenced := [], acks := [] } }

/-- The trap registers of a gang written (09 R251): SR_EPC from the fragment's pc and SEQONLY, its bits [63:57] zero (09 R249). SR_SKID keeps the count of a gang that
another gang's halt has reached (09 R253). -/
def Gang.recordTrap (g : Gang) (ti : TrapInfo) (epc : Nat) : Gang :=
  { g with
    cause := g.cause ||| BitVec.ofNat 64 ti.causes,
    epc := BitVec.ofNat 64 (epc % 2 ^ 57), faddr := BitVec.ofNat 64 ti.faddr, fsub := BitVec.ofNat 32 ti.fsub,
    fmask := ti.fmask, dmask := ti.dmask,
    skid := match g.halt with
      | .running => 0
      | .received n => BitVec.ofNat 32 n
      | .stopped => g.skid }

/-- The grants and requests of a context's operations at its cluster's kiln are given up (07 R217). -/
def State.quitKiln (s : State) (n : Nat) : State :=
  let k := Tab.get ([], []) s.kilns (ctxCluster n)
  let keep := fun (r : KilnReq) => !(decide (r.who % 4 < 2) && (s.flights.find? (r.who / 4)).any fun f => f.ag == .ctx n)
  { s with kilns := Tab.set ([], []) s.kilns (ctxCluster n) (k.1.filter keep, k.2.filter keep) }

/-- A Lauter context parks with a fault record to be written (07 R211, R480). -/
def State.parkCtx (s : State) (n causes pc addr elem : Nat) (seqOnly : Bool) : State :=
  let c := s.ctx n
  let rec_ : LfRec :=
    { part := partOfCluster (ctxCluster n), cause := causes, who := n / 64 + 32 * (n / 16 % 4) + 128 * (n % 16),
      pc := pc, addr := addr, elem := elem, pasid := c.pkt.pasid }
  { (s.updCtx n fun k => { k with stat := .parked (k.stat == .completing) none, seqOnly := seqOnly }).quitKiln n with
    lfHeld := s.lfHeld ++ [rec_] }

/-- Every fragment of the workgroup stops through the halt that a cause broadcasts (09 R252). -/
def State.haltWg (s : State) (wid : Nat) : State := s.updWg wid fun w =>
  { w with halted := true, haltAt := if w.halted then w.haltAt else s.cycle }

/-- A double fault (09 R256): the workgroup parks with the cause added, and a notice goes to the device error
ring. -/
def State.doubleFault (s : State) (gid fid causes : Nat) : State :=
  match s.gang? gid with
  | none => s
  | some g =>
    let tag := ((s.gridOf g).map fun r => r.lr.tag).getD 0
    let lin := ((s.wgOf g).map (·.linear)).getD 0
    let part := ((s.wgOf g).map (·.part)).getD 0
    let t := s.updGang gid fun x =>
      { x with cause := x.cause ||| BitVec.ofNat 64 causes,
               slot := x.slot.map fun (y : Slot) => { y with fid := fid },
               trap := x.trap.map fun (y : TrapSt) => { y with fid := fid } }
    let t := t.updFrag gid fid fun f => { f with stopped := true }
    let t := (t.haltWg g.wid).updWg g.wid fun w => { w with stat := .swapping 3, dblFault := true }
    t.devFlight (.gang gid fid) .dev (.devRec part 0 32 tag lin)

/-- A fragment of a gang that already has a trap raises a cause (09 R253): it records nothing and stops, marked
by the cause's kind. -/
def Frag.second (f : Frag) (k : RKind) (causes : Nat) : Frag :=
  match k with
  | .fault => { f with stopped := true }
  | .seqFault => { f with stopped := true, pendSeq := true }
  | .after => { f with stopped := true, pendTrap := f.pendTrap || causes.testBit 17,
                       pendBkpt := f.pendBkpt || causes.testBit 18 }
  | .exitAfter => { f with stopped := true, pendSeq := true, pendTrap := f.pendTrap || causes.testBit 17,
                           pendBkpt := f.pendBkpt || causes.testBit 18 }
  | .async => f

/-- SR_EPC's SEQONLY bit by kind (09 Table 9.2). -/
def RKind.seqOnly : RKind → Nat
  | .seqFault => 1
  | .exitAfter => 1
  | _ => 0

/-- Taking a cause: the one operation by which a fragment of a gang, or a Lauter context, takes any cause of a
bundle (09 R249-R256, 07 R480). The agent's pc is the address to record. The issue in progress ends. -/
def State.takeCause (s : State) (ag : Agent) (k : RKind) (ti : TrapInfo) : State :=
  let s0 := { s with issue := none }
  match ag with
  | .ctx n =>
    s0.parkCtx n ti.causes (s0.ctx n).pc ti.faddr 0xFFFFFFFF (k.seqOnly == 1)
  | .gang gid fid =>
    match s0.gang? gid with
    | none => s0
    | some g =>
      if g.slot.isSome then s0.doubleFault gid fid ti.causes
      else if g.trap.isSome then s0.updFrag gid fid fun f => f.second k ti.causes
      else
        let pc := ((g.frags.find? fid).map (·.pc)).getD 0
        let t := s0.updGang gid fun x =>
          { x.recordTrap ti (pc + k.seqOnly) with trap := some { fid := fid, entered := false } }
        (t.updFrag gid fid fun f => { f with stopped := true }).haltWg g.wid

/-- The handler's address and mode for the causes standing (09 R254). -/
def State.handlerFor (s : State) (g : Gang) : Nat × Mode :=
  let kh := s.khOf g
  let part := ((s.wgOf g).map (·.part)).getD 0
  if g.cause.toNat &&& supCauses ≠ 0 ∨ kh.trapoff = 0 then ((s.part part).supvec.toNat, .supHandler)
  else (kh.base + kh.trapoff, .userHandler)

/-- Entering a handler at an address in a mode (09 R254): the trapping fragment becomes the handler fragment; its FMT, loop
counters and call frames, and for the supervisor K0-K3, go to the slot. What the trapped bundle had left to do is no part of the handler's;
the stall of the fragment's last bundle stands (11 R300). -/
def State.enterAt (s : State) (gid fid : Nat) (h : Nat × Mode) : State :=
  match s.gang? gid, s.frag? gid fid with
  | some _, some f =>
    s.updGang gid fun x =>
      { x with
        slot := some { fid := fid, mode := h.2, fmt := f.fmt, lc := f.lc, frames := f.frames, k := x.k },
        trap := some { fid := fid, entered := true },
        k := if h.2 = .supHandler then 0 else x.k,
        frags := x.frags.upd (fun y =>
          { y with pc := h.1, lc := Vector.replicate 4 0, frames := [], stat := .ready, stopped := false, rgOk := true,
                   pendSeq := false, skip := 0, jt := none, readyAt := max y.readyAt (s.cycleOf (.gang gid fid)) }) fid }
  | _, _ => s

/-- Entering the handler that the causes standing choose (09 R254). -/
def State.enterHandler (s : State) (gid fid : Nat) : State :=
  match s.gang? gid with
  | some g => s.enterAt gid fid (s.handlerFor g)
  | none => s

/-- Entering the supervisor handler (09 R264, 13 R376). -/
def State.enterSup (s : State) (gid fid : Nat) : State :=
  match s.gang? gid with
  | some g =>
    let part := ((s.wgOf g).map (·.part)).getD 0
    s.enterAt gid fid ((s.part part).supvec.toNat, .supHandler)
  | none => s

/-- Leaving the handler's registers (09 R257 step 1): FMT, loop counters, call depth, and K0-K3 unless it was the user
handler. A slot in mode `user` holds values that PRIREQ left to be restored (Table 5.14, H_MODE). -/
def Gang.restoreSlot (g : Gang) : Gang :=
  match g.slot with
  | none => g
  | some sl =>
    { g with
      slot := none,
      k := if sl.mode = .userHandler then g.k else sl.k,
      frags := g.frags.upd (fun y => { y with fmt := sl.fmt, lc := sl.lc, frames := sl.frames }) sl.fid }

/-- The halt's release (09 R257): HALTSIB clears in every gang and every stopped fragment becomes ready. A pre-emption that
waits for it takes effect at once (09 R265). -/
def State.releaseHalt (s : State) (wid : Nat) : State :=
  let t := s.updWg wid fun w =>
    { w with halted := false, stat := if w.stat = .preempting then .swapping 1 else w.stat }
  { t with gangs := t.gangs.map fun e =>
      (e.1, if e.2.wid = wid then
        { e.2 with halt := .running, cause := e.2.cause &&& ~~~(BitVec.ofNat 64 cHALTSIB),
                   frags := e.2.frags.map fun p => (p.1, { p.2 with stopped := false }) } else e.2) }

/-- Is a gang of the workgroup still a trapping gang? -/
def State.anyTrap (s : State) (wid : Nat) : Bool :=
  s.gangs.any fun e => (s.gang? e.1).any fun g => g.wid == wid && g.trap.isSome

/-- The trapping fragment resumes at SR_EPC outside handler mode (09 R257 step 3, R264); with SEQONLY it performs
only the bundle's sequencing. -/
def State.resumeTrap (s : State) (gid : Nat) : State :=
  match s.gang? gid with
  | none => s
  | some g =>
    let fid := (g.trap.map (·.fid)).getD 0
    let pc := g.epc.toNat / 16 * 16 % 2 ^ 57
    let t := s.updGang gid fun x => { x.restoreSlot with trap := none }
    let t := t.updFrag gid fid fun f =>
      { f with pc := pc, pendSeq := g.epc.getLsbD 0, stat := .ready, rgOk := false, jt := none,
               readyAt := max f.readyAt (s.cycleOf (.gang gid fid)), stopped := true, skip := if g.epc.getLsbD 0 then 0 else g.dmask }
    if t.anyTrap g.wid then t else t.releaseHalt g.wid

/-- Returning from a handler: HRET's three steps (09 R257). -/
def State.handlerReturn (s : State) (gid : Nat) : State :=
  match s.gang? gid with
  | none => s
  | some g =>
    match g.slot with
    | none => s
    | some sl =>
      if g.cause.toNat &&& (2 ^ 64 - 1 - cHALTSIB) ≠ 0 then
        (s.updGang gid Gang.restoreSlot).enterHandler gid sl.fid
      else s.resumeTrap gid

end Sys2Proof.Machine
end

