-- ==== Sys2Proof/Machine/Flags.lean ====
section
/-!
DEFINITION. Recording floating-point flags and the traps they take (04 R110-R112).
-/
namespace Sys2Proof.Machine

/-- The causes of the flags whose enables are set: bits 11 to 15 (04 Table 4.4). -/
def trapsOf (fpctl : W32) (flags : Nat) : Nat := (flags &&& fpctl.toNat &&& 31) * cNV

/-- The enables of an agent; a context has none. -/
def State.fpctlOf (s : State) : Agent → W32
  | .gang gid _ => ((s.gang? gid).map (·.fpctl)).getD 0
  | .ctx _ => 0

/-- Flags ORed into SR_FPSTAT. -/
def State.orFlags (s : State) (ag : Agent) (flags : Nat) : State :=
  match ag with
  | .gang gid _ => s.updGang gid fun g => { g with fpstat := g.fpstat ||| BitVec.ofNat 32 flags }
  | .ctx _ => s

end Sys2Proof.Machine
end

