-- ==== Sys2Proof/Machine/Translate.lean ====
section
/-!
DEFINITION. Translation of virtual addresses (09 R258-R263, 10 R275): the five-level walk, the leaf's checks, the
TLBs' stale leaves, and the host's translations of tier 3.
-/
namespace Sys2Proof.Machine

/-- What an access asks of a page (09 Table 9.3, SR_FSUB [3:0]). -/
inductive Access where
  | read
  | write
  | rmw
  | exec
deriving DecidableEq, Repr

/-- The code of an access in SR_FSUB. -/
def Access.code : Access → Nat
  | .read => 0
  | .write => 1
  | .rmw => 2
  | .exec => 3

/-- A translated page: the key or register offset of the byte, the leaf, and what the TLB would hold. -/
structure TrOk where
  key : Nat
  isReg : Bool
  tier : Nat
  tso : Bool
  zb : Bool
  hold : Bool
  leafKey : Nat
  leaf : Nat
  orBits : Nat
  base : Nat
  size : Nat
deriving DecidableEq, Repr

/-- The outcome of a translation. -/
inductive TrRes where
  | ok (t : TrOk)
  | fault (cause reason : Nat)
  | ats (page : Nat)
deriving DecidableEq, Repr

/-- The size of a leaf by level and CONTIG; 0 for a malformed combination (09 Table 9.7). -/
def leafSize (level contig : Nat) : Nat :=
  match level, contig with
  | 0, 0 => 2 ^ 12
  | 0, 1 => 2 ^ 14
  | 0, 2 => 2 ^ 16
  | 0, 3 => 2 ^ 18
  | 0, 4 => 2 ^ 20
  | 1, 0 => 2 ^ 21
  | 1, 1 => 2 ^ 23
  | 1, 2 => 2 ^ 25
  | 1, 4 => 2 ^ 29
  | 2, 0 => 2 ^ 30
  | _, _ => 0

/-- The frame field of an entry. -/
def pteFrame (e : Nat) : Nat := natBits e 51 12 * 2 ^ 12

/-- The outcome of a walk: a leaf with its level and key, or the reason there is none. -/
inductive Walk where
  | leaf (level key e : Nat)
  | fault (cause reason : Nat)
  /-- A table lies on a chip that no route reaches (10 R284). -/
  | far (chip : Nat)
deriving DecidableEq, Repr

/-- The slice of a line in tiers 0 and 1 (05 R128). -/
def sliceOf (key : Nat) : Nat :=
  let pa := key % 2 ^ 52
  let s := (natBits pa 12 12 + natBits pa 18 18 + natBits pa 24 24 + natBits pa 30 30 + natBits pa 36 36) % 2
  let n := pa / 128
  160 * s + ((natBits n 15 0) ^^^ (natBits n 31 16) ^^^ (natBits n 44 32)) % 160

/-- Is the CXL port of a tier-1 byte down (05 Table 5.1, 10 R280)? -/
def State.cxlDown (s : State) (key : Nat) : Bool :=
  keyTier key == 1 && !(s.cxl.getD (sliceOf key / 160 * 2 + key / 256 % 2) true)

/-- Does a range of bytes touch a port that is down: a stack's ports interleave every 256 bytes (10 R280)? -/
def State.cxlDownIn (s : State) (key n : Nat) : Bool :=
  (List.range ((key + max n 1 - 1) / 256 + 1 - key / 256)).any fun i => s.cxlDown ((key / 256 + i) * 256)

/-- The mask of links that still reach a chip (10 R282, R284). -/
def State.routeMask (s : State) (c : Nat) : Nat :=
  let m := (s.routes.getD c 0).toNat % 2 ^ 18
  (List.range 18).foldl (fun a k => if m.testBit k && s.links.getD k 0 ≠ 2 then a + 2 ^ k else a) 0

/-- The chip's number. -/
def State.chip (s : State) : Nat := s.dev.chipid.toNat % 64

/-- The chip that homes a byte of tier 2. -/
def peerOf (key : Nat) : Nat := key / 2 ^ 52 % 2 ^ 8

/-- Does a byte lie on a chip that no route reaches (10 R284)? -/
def State.farKey (s : State) (key : Nat) : Bool := keyTier key == 2 && s.routeMask (peerOf key) == 0

/-- The name under which an access made by a unit itself is held while no route reaches a chip (10 R284, log entry 48): no page of a
host has it. -/
def farPage (unit chip : Nat) : Nat := 2 ^ 50 + 2 ^ 10 * unit + chip

/-- The token of the held requests of a PASID under a name. -/
def State.farToken (s : State) (pasid page : Nat) : Option Flight :=
  (List.find? (fun (e : Nat × Flight) => (match e.2.instr with | .fabricHoldTimeout _ => true | _ => false) && e.2.sw.take 2 == [pasid, page]) s.flights).map (·.2)

/-- Has a held request of a unit to a chip waited its time, so that it completes with POISON (10 R284)? -/
def State.farOver (s : State) (unit pasid chip : Nat) : Bool :=
  (s.farToken pasid (farPage unit chip)).any fun f => f.sw.getD 2 0 == 1

/-- What an access made by a unit itself meets at a byte (10 R284): nothing, POISON, or a hold under a name. -/
def State.farGate (s : State) (unit pasid key : Nat) : Option (Option Nat) :=
  if !(s.farKey key) then none
  else if s.farOver unit pasid (peerOf key) then some none else some (some (farPage unit (peerOf key)))

/-- The held requests of a PASID whose time is over have completed. -/
def State.dropFar (s : State) (pasid : Nat) : State :=
  { s with flights := s.flights.filter fun e =>
      !((match e.2.instr with | .fabricHoldTimeout _ => true | _ => false) && e.2.sw.head? == some pasid && e.2.sw.getD 2 0 == 1) }

/-- The walk from a level's table down (09 R258, R259). Of a table pointer whose TIER has no meaning the spec says nothing: the model gives
it a leaf's cause, PROT with reason 4 (log entry 94). -/
def State.walkFrom (s : State) (va : Nat) : Nat → Nat → Walk
  | 0, _ => .fault cPROT 3
  | level + 1, tbl =>
    let k := tbl + 8 * (va / 2 ^ (12 + 9 * level) % 512)
    if s.farKey k then .far (peerOf k)
    else if s.poisonIn k 8 || s.cxlDown k then .fault cPOISON 0
    else
      let e := s.peekN k 8
      if e % 2 = 0 then .fault cPAGEFAULT 0
      else if e.testBit 62 then .fault cPOISON 0
      else if level ≠ 0 ∧ natBits e 11 9 = 7 then
        if natBits e 55 52 ≥ 3 then .fault cPROT 4
        else s.walkFrom va level (memKey (natBits e 55 52) (if natBits e 55 52 = 2 then natBits e 61 56 else 0) (pteFrame e))
      else
        let sz := leafSize level (natBits e 11 9)
        if sz = 0 then .fault cPROT 3
        else if pteFrame e % sz ≠ 0 then .fault cPROT 3
        else .leaf level k e

/-- The root table of a PASID for a partition, or nothing (10 R275). -/
def State.rootOf (s : State) (pasid part : Nat) : Option Nat :=
  let e := s.peekN (s.dev.pasidtab.toNat + 8 * pasid) 8
  if e % 2 = 1 ∧ natBits e 63 61 = part then some (pteFrame e) else none

/-- Is a PASID's entry of the table poisoned (10 R290)? -/
def State.pasidPoison (s : State) (pasid : Nat) : Bool := s.poisonIn (s.dev.pasidtab.toNat + 8 * pasid) 8

/-- The walk of a virtual address under a PASID. -/
def State.walk (s : State) (pasid part va : Nat) : Walk :=
  if s.pasidPoison pasid then .fault cPOISON 0 else
  match s.rootOf pasid part with
  | none => .fault cPROT 3
  | some r => s.walkFrom va 5 r

/-- The base physical address of register space and its size (10 R273). -/
def regBase : Nat := 0x000FFC0000000000
def regSize : Nat := 2 ^ 26

/-- Is a tier-0 address inside some partition's image region (02 R51)? -/
def State.inImages (s : State) (pa : Nat) : Bool :=
  s.parts.any fun p => decide (p.imgbase.toNat ≤ pa ∧ pa < p.imgbase.toNat + p.imgsize.toNat)

/-- The checks of a leaf, and the access's place (09 R259, 05 R127, 10 R273). -/
def State.checkLeaf (s : State) (pasid va : Nat) (acc : Access) (sup : Bool) (k e size : Nat) : TrRes :=
  let tier := natBits e 55 52
  let pa := pteFrame e + va % size
  let isWr := acc == .write || acc == .rmw
  if e.testBit 62 then .fault cPOISON 0
  else if tier ≥ 4 then .fault cPROT 4
  else if !sup && !(e.testBit 3) then .fault cPROT 2
  else if isWr && !(e.testBit 1) then .fault cPROT 1
  else if acc == .exec && !(e.testBit 2) then .fault cPROT 1
  else
    let orBits := (if e.testBit 7 then 0 else 0x80) + (if isWr && !(e.testBit 8) then 0x100 else 0)
    let r : TrOk :=
      { key := 0, isReg := false, tier := tier, tso := e.testBit 4, zb := e.testBit 5 && decide (tier < 3),
        hold := e.testBit 6,
        leafKey := k, leaf := e, orBits := orBits, base := va / size * size, size := size }
    if tier = 3 then
      match s.atc.find? (fun t => t.1 = pasid ∧ t.2.1 = pa / 4096) with
      | none => .ats (pa / 4096)
      | some t => if t.2.2 = 0 then .fault cPAGEFAULT 6
                  else .ok { r with key := memKey 3 0 ((t.2.2 - 1) * 4096 + pa % 4096) }
    else if tier = 0 ∧ regBase ≤ pa ∧ pa < regBase + regSize then
      if e.testBit 3 || !sup then .fault cPROT 2 else .ok { r with key := pa - regBase, isReg := true }
    else if tier = 0 && !sup && s.inImages pa then .fault cPROT 2
    else .ok { r with key := memKey tier (if tier = 2 then natBits e 61 56 else 0) pa }

/-- The TLBs on the way of a unit's accesses (09 R260): a core's own and its cluster's, a cluster's for its engines, the device's own. -/
def tlbUnits (unit : Nat) : List Nat := if unit < 256 then [unit, 256 + clusterOf unit] else [unit]

/-- The entries of a TLB (01 R17); the spec bounds the device's own by no number. -/
def tlbCap (unit : Nat) : Option Nat := if unit < 256 then some 64 else if unit < 512 then some 4096 else none

/-- The leaves that the TLBs on a unit's way still hold for an address (09 R260). -/
def State.tlbLeaves (s : State) (unit pasid va : Nat) : List (Nat × Nat) :=
  ((s.tlb.filter fun t => t.pasid == pasid && decide (t.base ≤ va ∧ va < t.base + t.size) && (tlbUnits unit).contains t.unit).map fun t =>
      (t.leaf, t.size)).eraseDups

/-- The translation of a virtual address for a unit's access (05 R124, 09 R258-R263). A leaf still held by a
TLB on its way may be used in place of a changed one (09 R260). -/
def State.translate (s : State) (unit pasid part va : Nat) (acc : Access) (sup : Bool) : TrRes :=
  if va ≥ 2 ^ 57 then .fault cPROT 7
  else
    let fresh :=
      match s.walk pasid part va with
      | .fault c r => .fault c r
      | .far c => if s.farOver unit pasid c then .fault cPOISON 0 else .ats (farPage unit c)
      | .leaf level k e => s.checkLeaf pasid va acc sup k e (leafSize level (natBits e 11 9))
    let same := fun (leaf : Nat) =>
      match fresh with | .ok r => r.leaf / 2 ^ 9 == leaf / 2 ^ 9 && r.leaf % 2 ^ 7 == leaf % 2 ^ 7 | _ => false
    let old := (s.tlbLeaves unit pasid va).filter fun t => !(same t.1)
    match old.zipIdx.find? fun e => s.pick (2 ^ 60 + 64 * (va / 4096) + e.2) with
    | none => fresh
    | some e => s.checkLeaf pasid va acc sup 0 (e.1.1 ||| 0x180) e.1.2

/-- Translation for an agent. -/
def State.trAg (s : State) (ag : Agent) (va : Nat) (acc : Access) : TrRes :=
  s.translate (s.unitOf ag) (s.pasidOf ag) (s.partOf ag) va acc (s.isSup ag)

/-- A leaf put into a TLB; when that is full another of its leaves goes, whichever (log entry 70). -/
def State.tlbPut (s : State) (unit pasid : Nat) (t : TrOk) : State :=
  let e : TlbEnt := { unit := unit, pasid := pasid, base := t.base, size := t.size, leaf := t.leaf }
  if s.tlb.contains e then s else
  let mine := s.tlb.filter fun x => x.unit == unit
  let out := if (tlbCap unit).all fun n => decide (mine.length < n) then none
    else mine[Config.freeNat s.fresh (2 ^ 58 + 2 ^ 10 * (t.base / 4096) + unit) % mine.length]?
  { s with tlb := e :: s.tlb.filter fun x => !(x.unit == unit && x.pasid == pasid && x.base == t.base) && some x != out }

/-- A valid leaf put into the TLBs on a unit's way (01 R17, 09 R260). -/
def State.tlbAdd (s : State) (unit pasid : Nat) (t : TrOk) : State :=
  if t.leafKey = 0 then s else (tlbUnits unit).foldl (fun (u : State) k => u.tlbPut k pasid t) s

/-- ACCESSED and DIRTY are set by an atomic OR at the entry's home (09 R259), queued by a bundle. -/
def State.noteUse (s : State) (ag : Agent) (t : TrOk) : State :=
  let s1 := s.tlbAdd (s.unitOf ag) (s.pasidOf ag) t
  if t.orBits = 0 ∨ t.leafKey = 0 then s1
  else s1.devFlight ag (.mem t.leafKey false false) (.or64 t.orBits)

/-- The same, applied at once by an event. -/
def State.noteUseEv (s : State) (unit pasid : Nat) (t : TrOk) : State :=
  let s1 := s.tlbAdd unit pasid t
  if t.orBits = 0 ∨ t.leafKey = 0 then s1
  else s1.pokeN t.leafKey 8 (s1.peekN t.leafKey 8 ||| t.orBits)

end Sys2Proof.Machine
end

