-- ==== Sys2Proof/Machine/Issue.lean ====
section
/-!
DEFINITION. The issue of a bundle: the decode checks (11 R310), operands read at issue with the hazards of
11 R311-R313, queue pops (07 R188), and results written with their latency.
-/
namespace Sys2Proof.Machine

/-! ### Hazards -/

/-- The registers a destination of an operation in flight will write. -/
def Dest.regs : Dest → List RegId
  | .none => []
  | .v b w _ => (List.range w).map fun i => .v (b + i)
  | .elem b n _ _ => (List.range n).map fun i => .v (b + i)
  | .texel b n _ _ => (List.range n).map fun i => .v (b + i)
  | .s b w _ => (List.range w).map fun i => .s (b + i)
  | .k sel => [.k (sel % 8)]
  | .q _ _ => []

/-- The fragment or context of an agent is the same. -/
def sameAgent (a b : Agent) : Bool := a == b

/-- The unfinished operations of an agent: those in its program order (06 R166). -/
def State.flightsOf (s : State) (ag : Agent) : List Flight :=
  let po : List Nat := match ag with
    | .gang gid fid => ((s.frag? gid fid).map fun (f : Frag) => f.po).getD []
    | .ctx n => (s.ctx n).po
  po.reverse.filterMap fun i => s.flights.find? i

/-- The unfinished operations of a gang, in issue order. -/
def State.flightsOfGang (s : State) (gid : Nat) : List Flight :=
  (s.flights.filter fun e => match e.2.ag with | .gang g _ => g == gid | _ => false).map (·.2)

/-- The hazards of an agent. -/
def State.hazOf (s : State) : Agent → List Haz
  | .gang gid fid => ((s.frag? gid fid).map (·.haz)).getD []
  | .ctx n => (s.ctx n).haz

/-- Is a register one that the fragments of a gang share and write without order (02 R50)? -/
def RegId.shared : RegId → Bool
  | .s _ => true
  | .k _ => true
  | _ => false

/-- The hazards of an agent's siblings in the registers that they share with it: a write of a sibling is unordered with the agent's
reads, which may give the value before it while its latency runs (02 R50, log entry 95). -/
def State.sibHaz (s : State) : Agent → List Haz
  | .gang gid fid =>
    (((s.gang? gid).map (·.frags)).getD []).flatMap fun e => if e.1 = fid then [] else e.2.haz.filter fun h => h.reg.shared
  | .ctx _ => []

/-- The hazards that an agent's reads meet: its own, and its siblings' in shared registers. -/
def State.hazAll (s : State) (ag : Agent) : List Haz := s.hazOf ag ++ s.sibHaz ag

/-- The unfinished operations that may still change a register for an agent: its own, and in a shared register its gang's (05 R138, 02
R50). -/
def State.flightsFor (s : State) (ag : Agent) (r : RegId) : List Flight :=
  match ag with
  | .gang gid _ => if r.shared then s.flightsOfGang gid else s.flightsOf ag
  | .ctx _ => s.flightsOf ag

/-- A register value that a producer's latency still covers: the old or the new one, freely (11 R312). -/
def hazVal (s : State) (cyc : Nat) (haz : List Haz) (r : RegId) (key pos cur : Nat) : Nat :=
  haz.foldl (fun v h =>
    if h.reg = r ∧ cyc < h.till then
      match h.old.find? key with
      | some o => if s.pick (pos * 2 ^ 24 + h.till % 64 * 2 ^ 16 + key) then o else v
      | none => v
    else v) cur

/-- The value that a lane's accesses read, its parts placed by their byte offsets; 0 in a poisoned lane. -/
def Flight.laneVal (fl : Flight) (lane : Nat) : Nat :=
  let l := fl.accs.filter fun a => a.lane == lane
  if l.any (·.poisoned) then 0 else l.foldl (fun v a => v + a.res * 2 ^ (8 * a.slot)) 0

/-- A value extended as a load's size asks: `ext` is 0, or twice the bits plus 1 for a sign (13 Table 13.6). -/
def extend (ext x : Nat) : Nat :=
  if ext = 0 then x else if ext % 2 = 1 then wrapInt (sextNat x (ext / 2)) 32 else x % 2 ^ (ext / 2)

/-- The words that a lane's result gives its destination registers (13 R388, R389; 05 R153); a poisoned lane's are zero. -/
def Flight.resultWords (f : Flight) (fresh lane : Nat) : List Nat :=
  let words := fun (x n : Nat) => (List.range n).map fun i => x / 2 ^ (32 * i) % 2 ^ 32
  match f.dest with
  | .v _ n ext => words (extend ext (f.laneVal lane)) n
  | .s _ n ext => words (extend ext (f.laneVal 0)) n
  | .elem _ n fmt scale =>
    let as := f.accs.filter fun a => a.lane == lane
    if as.any (·.poisoned) then List.replicate n 0
    else
      let part := fun (p : Nat) =>
        let l := as.filter fun a => a.slot / 1024 == p
        if l.isEmpty then none else some (l.foldl (fun v a => v + a.res * 256 ^ (a.slot % 1024)) 0)
      (List.range n).map fun k =>
        match part (3 * k) with
        | none => 0
        | some x => deliver fmt scale (toBytes 512 ((part (3 * k + 2)).getD 0)) x (((f.lw.find? lane).getD []).getD k 0)
            ((part (3 * k + 1)).getD 0) (Config.freeWord fresh (2 ^ 47 + 4 * lane + k))
  | .texel _ n code chans =>
    let as := f.accs.filter fun a => a.lane == lane
    (if as.any (·.poisoned) then [0, 0, 0, 0] else if as.isEmpty then [0, 0, 0, texelOne code]
     else texelWords code chans (f.laneVal lane)).take n
  | _ => []

/-- The word that an applied but unretired operation would give a lane's register, 1 for a predicate that it sets (05 R138); none where
it writes no such register, or has not been applied. -/
def Flight.newWord (fl : Flight) (fresh : Nat) (r : RegId) (lane : Nat) : Option Nat :=
  let as := fl.accs.filter fun a => a.lane == lane
  let all := fl.accs.all (·.done) && fl.grant == 0
  let there := fl.mask.getLsbD lane && fl.grant == 0 && (if as.isEmpty then all else as.all (·.done))
  let word := fun (b n l : Nat) => if b ≤ n then (fl.resultWords fresh l)[n - b]? else none
  match fl.dest, r with
  | .v b _ _, .v n => if there then word b n lane else none
  | .elem b _ _ _, .v n => if there then word b n lane else none
  | .texel b _ _ _, .v n => if there then word b n lane else none
  | .s b _ _, .s n => if all && !fl.accs.isEmpty then word b n 0 else none
  | .k sel, .k n => if all && !fl.accs.isEmpty && sel % 8 == n then some (if fl.accs.any (fun a => a.res ≠ 0) then 1 else 0) else none
  | _, _ => none

/-- A register value that an unfinished operation will write: the old value or, once applied, the new one. -/
def flightVal (s : State) (ag : Agent) (r : RegId) (lane pos cur : Nat) : Nat :=
  (s.flightsFor ag r).foldl (fun v fl =>
    match fl.newWord s.fresh r lane with
    | some x => if s.pick (pos * 2 ^ 24 + 2 ^ 23 + fl.id % 64 * 2 ^ 12 + lane) then x else v
    | none => v) cur

/-- A register of an agent as a sequencing form reads it (11 R299): of one that an unfinished operation of the agent will write the old value;
one that a sibling's operation will write is read with no order (02 R50). -/
def State.seqRead (s : State) (ag : Agent) (cyc : Nat) (haz : List Haz) (r : RegId) (key pos cur : Nat) : Nat :=
  let own := (s.flightsOf ag).map (·.id)
  ((s.flightsFor ag r).filter fun f => !(own.contains f.id)).foldl (fun v fl =>
    match fl.newWord s.fresh r key with
    | some x => if s.pick (pos * 2 ^ 24 + 2 ^ 23 + fl.id % 64 * 2 ^ 12 + key) then x else v
    | none => v) (hazVal s cyc haz r key pos cur)

/-- Will an unfinished operation of the agent write a register, in one of the lanes? -/
def State.pendingWrite (s : State) (ag : Agent) (r : RegId) (lanes : List Nat) : Bool :=
  (s.flightsOf ag).any fun fl => fl.dest.regs.contains r &&
    match r with
    | .v _ => lanes.any fun l => fl.mask.getLsbD l
    | .p _ => lanes.any fun l => fl.mask.getLsbD l
    | _ => true

/-- A register covered by a latency or an unfinished operation of the agent, in one of the lanes. -/
def State.unsettled (s : State) (ag : Agent) (cyc : Nat) (r : RegId) (lanes : List Nat) : Bool :=
  (s.hazOf ag).any (fun h => h.reg == r && decide (cyc < h.till) &&
      lanes.any fun l => (h.old.find? l).isSome || (h.old.find? 0).isSome) || s.pendingWrite ag r lanes

/-! ### Register sets of a bundle -/

/-- The registers that an operand field names. -/
def Use.regsOf (u : Use) (sp : BitVec 10) : List RegId :=
  match u with
  | .reg _ n _ =>
    match opnd sp with
    | .v k => (List.range n).map fun i => .v (k + i)
    | .s k => (List.range n).map fun i => .s (k + i)
    | .h k => [.h k]
    | _ => []
  | .vOrQ n _ =>
    match opnd sp with
    | .v k => (List.range n).map fun i => .v (k + i)
    | _ => []
  | .pred _ _ => [if sp.getLsbD 3 then .k (sp.toNat % 8) else .p (sp.toNat % 8)]
  | .lcSel => [.lc (sp.toNat % 4)]
  | _ => []

/-- The registers a sequencing form reads (11 R299). -/
def ctlRegs (c : Ctl) : List RegId :=
  match c.nsel.toNat with
  | 2 => [.k (c.npred.toNat % 4)]
  | 3 => [.p c.npred.toNat]
  | 6 => [.lc (c.npred.toNat % 4)]
  | 7 => [.s (c.ntgt.toNat % 64), .s (c.ntgt.toNat % 64 + 1)]
  | _ => []

/-- The predicates that PMOV.UNPACK writes (14 Table 14.6): those its mask selects in the file it names. -/
def unpackRegs (i : Instr) (o : Opw) : List RegId :=
  match i with
  | .pmov _ =>
    if o.sub = 3 then
      ((List.range 8).filter fun j => o.imm.getLsbD j).map fun j => if o.imm.getLsbD 8 then .k (j % 4) else .p j
    else []
  | _ => []

/-- Is the field an operand specifier (11 Table 11.4)? -/
def Use.isSpec : Use → Bool
  | .reg _ _ _ => true
  | .vOrQ _ _ => true
  | .engQ => true
  | .qname => true
  | _ => false

/-- REGBOUND for a register beyond the declared count (02 R49). -/
def boundOf (kh : KHdr) : RegId → Bool
  | .v n => decide (n ≥ kh.vregs)
  | .s n => decide (n ≥ kh.sregs)
  | _ => false

/-- A field that a Lauter context may not use (07 R208). -/
def Use.badCtx (u : Use) (sp : BitVec 10) : Bool :=
  match u with
  | .reg _ n _ =>
    match opnd sp with
    | .v _ => true
    | .s k => decide (k + n > 32)
    | .q _ => true
    | .h _ => true
    | _ => false
  | .pred _ _ => !(sp.getLsbD 3)
  | .tile => true
  | .vOrQ _ _ => true
  | .qname => true
  | .engQ => true
  | .ctr => sp ≠ 5
  | _ => false

/-- Is a PORT one that programs pop (07 Table 7.1)? -/
def popPort (p : Nat) : Bool := p == 3 || p == 4 || p == 5

/-- Is a PORT one that programs push? -/
def pushPort (p : Nat) : Bool := p == 1 || p == 2 || p == 6

/-- The queue an operand field pops or pushes, if any. -/
def Use.queueOf (u : Use) (sp : BitVec 10) : Option Nat :=
  match u with
  | .reg _ _ _ => match opnd sp with | .q n => some n | _ => none
  | _ => none

/-- The port of a gang's queue. -/
def Gang.port (g : Gang) (n : Nat) : Nat := ((g.q.getD n { bind := 0, words := [] }).bind).toNat % 16

/-- The words of a gang's queue. -/
def Gang.qwords (g : Gang) (n : Nat) : List W32 := (g.q.getD n { bind := 0, words := [] }).words

/-- A gang's queue with other words; its binding stays. -/
def Gang.setWords (g : Gang) (n : Nat) (ws : List W32) : Gang :=
  let b := (g.q.getD n { bind := 0, words := [] }).bind
  { g with q := g.q.setIfInBounds n { bind := b, words := ws } }

/-- The queues a bundle pops, one entry per source position, in the order SRCA, SRCB, SRCC. -/
def Shape.pops (sh : Shape) (o : Opw) : List Nat :=
  [sh.a.queueOf o.a, sh.b.queueOf o.b, sh.c.queueOf o.c].filterMap id

/-- Words each pop takes: one in scalar form or a once-per-fragment entry, else one per active lane. -/
def popCount (sh : Shape) (o : Opw) (fw : Nat) : Nat :=
  let vec : Bool := match sh.dst with
    | .reg _ _ _ => isV o.dst
    | .pred _ _ => !(o.dst.getLsbD 3)
    | .lcSel => false
    | .zero => !(sh.imm == .low 16 || (sh.imm == .low 9 && o.imm.getLsbD 8))
    | _ => false
  if vec then fw else 1

/-- The guard of a bundle over the active lanes (11 R304); P0 is always true. -/
def guardMask (s : State) (is : Issue) (o : Opw) : LaneMask :=
  match is.ag with
  | .ctx _ => if o.gneg then 0 else is.mask
  | .gang gid fid =>
    match s.gang? gid with
    | none => 0
    | some g =>
      let n := o.gpred.toNat
      let base := g.rdP n
      let haz := s.hazOf (.gang gid fid)
      let p := if n = 0 ∨ haz.all (fun h => h.reg != .p n) then base
        else maskOf ((lanesOf g.width is.mask).filter fun l =>
          hazVal s is.cyc haz (.p n) l 9 (if base.getLsbD l then 1 else 0) = 1)
      is.mask &&& (if o.gneg then ~~~p else p)

/-- The decode stage's causes, all recorded together (11 R310). `extraBad`, `extraRd` and `extraCauses` are the
entry's own conditions: ILLOP, further registers read, and further causes. -/
def decodeCauses (i : Instr) (o : Opw) (is : Issue) (s : State) (extraBad : Bool) (extraRd : List RegId)
    (extraCauses : Nat) : Nat :=
  let rets := is.ctl.nsel.toNat
  match is.ag with
  | .ctx n =>
    let sh := shape true i
    let c := s.ctx n
    let ill := sh.illop o || !sh.lx || ctlIllop is.ctl true || extraBad || o.gpred ≠ 0 ||
      sh.dst.badCtx o.dst || sh.a.badCtx o.a || sh.b.badCtx o.b || sh.c.badCtx o.c ||
      (rets == 5 && c.frames.isEmpty) ||
      (rets == 7 && decide (is.ctl.ntgt.toNat % 64 + 2 > 32))
    (if ill then cILLOP else 0) ||| extraCauses
  | .gang gid _ =>
    match s.gang? gid with
    | none => cILLOP
    | some g =>
      let sh := shape false i
      let kh := s.khOf g
      let mode := g.mode
      let handler := mode != .user
      let tensor := match i with | .tmov _ => true | .tgath _ => true | .tscat _ => true | .tfill _ => true | _ => false
      let hretBad := match i with
        | .hret _ => !handler || ctlBits is.ctl ≠ 0
        | _ => false
      let depth := (((g.frags.find? (match is.ag with | .gang _ f => f | _ => 0)).map (·.frames.length))).getD 0
      let ill := sh.illop o || ctlIllop is.ctl false || extraBad || tensor || hretBad ||
        (rets == 5 && depth == 0) || (rets == 8 && handler)
      let hUse := fun (u : Use) (sp : BitVec 10) => u.isSpec && (match opnd sp with | .h _ => true | _ => false)
      let priv := (mode != .supHandler && (hUse sh.dst o.dst || hUse sh.a o.a || hUse sh.b o.b || hUse sh.c o.c)) ||
        (sh.mode == 1 && !handler) || (sh.mode == 2 && mode != .supHandler)
      let rd := (if aWrites i then [] else sh.a.regsOf o.a) ++ sh.b.regsOf o.b ++ sh.c.regsOf o.c
      let wr := sh.dst.regsOf o.dst ++ (if aWrites i then sh.a.regsOf o.a else []) ++ unpackRegs i o
      let bound := (rd ++ wr ++ extraRd ++ (if rets = 7 then (ctlRegs is.ctl) else [])).any (boundOf kh)
      let fw := popLanes g.width is.mask
      let pc := popCount sh o fw
      let qb := (sh.pops o).any (fun n => !popPort (g.port n) || decide (pc > 256)) ||
        (match sh.dst.queueOf o.dst with | some n => !pushPort (g.port n) | none => false)
      let lanes := lanesOf g.width is.mask
      let chk := g.chk.getLsbD 0 &&
        ((rd ++ extraRd ++ (ctlRegs is.ctl) ++ (if o.gpred = 0 then [] else [RegId.p o.gpred.toNat])).any
            (fun (r : RegId) => r != .p 0 && s.unsettled is.ag is.cyc r lanes) ||
          (wr.any fun r => s.pendingWrite is.ag r lanes) ||
          (rets == 2 && slowK i o == some (is.ctl.npred.toNat % 4)))
      (if ill then cILLOP else 0) ||| (if priv then cPRIV else 0) ||| (if bound then cREGBOUND else 0) |||
        (if qb then cQBIND else 0) ||| (if chk then cSTALLCHK else 0) ||| extraCauses

/-- What a decode-stage cause records: every active lane, no address, and an access code the spec leaves open
(09 Table 9.3). -/
def decodeTrap (s : State) (is : Issue) (causes : Nat) : TrapInfo :=
  { causes := causes, faddr := 0, fsub := Config.freeNat s.fresh 1 % 2 ^ 11, fmask := is.mask, dmask := 0 }

/-- A JIND whose target is out of range, misaligned, or both, found before the operation word takes effect (11 R302): the causes are
recorded together (09 R250). -/
def jindTrap (is : Issue) : Option TrapInfo :=
  let far := decide (is.jt ≥ 2 ^ 57)
  let odd := decide (is.jt % 16 ≠ 0)
  if is.ctl.nsel = 7 ∧ (far || odd) then
    some { causes := (if far then cPROT else 0) ||| (if odd then cMISALIGN else 0), faddr := is.jt,
           fsub := 3 + 7 * 16 + 7 * 256, fmask := is.mask }
  else none

/-- The fragment or context blocks at its bundle, which it issues again (02 R35): no effect. -/
def State.blockRetry (s : State) (ag : Agent) (b : Block) : State :=
  match ag with
  | .gang gid fid =>
    { s.updFrag gid fid (fun f => { f with stat := .blocked b, blockedAt := s.cycleOf ag }) with issue := none }
  | .ctx _ => { s with issue := none }

/-- The fragment blocks after its operation word took effect: only the sequencing remains. -/
def State.blockAfter (s : State) (ag : Agent) (b : Block) : State :=
  match ag with
  | .gang gid fid =>
    { s.updFrag gid fid (fun f => { f with stat := .blocked b, blockedAt := s.cycleOf ag, pendSeq := true }) with
      issue := none }
  | .ctx n =>
    let st : CtxStat := match b with
      | .mwait d k => .waiting d k none
      | .counter _ k => .waiting 0 0 (some k)
      | _ => .running
    { s.updCtx n (fun c => { c with stat := st, seqOnly := true }) with issue := none }

/-- The words popped, per source position, and the gang with them removed. -/
def popAll (g : Gang) (k : Nat) : List Nat → List (List W32) × Gang
  | [] => ([], g)
  | n :: rest =>
    let ws := (g.qwords n).take k
    let g' := g.setWords n ((g.qwords n).drop k)
    let r := popAll g' k rest
    (ws :: r.1, r.2)

/-- How a 32-bit constant becomes a wider or packed operand (11 R307). -/
inductive Widen where
  | raw
  | f64
  | half (bf : Bool)
  | dot (bf : Bool)
deriving DecidableEq, Repr

/-- The rule for one source: a dot product of halves adds a 32-bit addend, its third source (15 R471). -/
def Widen.at (w : Widen) (pos : Nat) : Widen :=
  match w with
  | .dot bf => if pos = 3 then .raw else .half bf
  | w => w

/-- A half-format pattern placed in both halves, for inline constants 6 to 11 (11 R307). -/
def halfConst (bf : Bool) (i : Nat) : Nat :=
  let h := match i with
    | 6 => if bf then 0x3F00 else 0x3800
    | 7 => if bf then 0x3F80 else 0x3C00
    | 8 => 0x4000
    | 9 => if bf then 0xBF80 else 0xBC00
    | 10 => if bf then 0x7F80 else 0x7C00
    | _ => if bf then 0x7FC0 else 0x7E00
  h + 65536 * h

/-- A constant as an operand of `n` words. -/
def widenConst (w : Widen) (n : Nat) (isInline : Bool) (idx pat : Nat) : Nat :=
  match w with
  | .half bf => if isInline && decide (6 ≤ idx) && decide (idx ≤ 11) then halfConst bf idx else pat
  | .f64 => if n = 2 then f32to64 pat else pat
  | _ => if n = 2 then wrapInt (sextNat pat 32) 64 else pat

/-- A source operand as a function of the lane: the little-endian number its registers hold. `pos` is the source
position and `popped` its popped words. -/
def srcVal (s : State) (is : Issue) (o : Opw) (u : Use) (sp : BitVec 10) (w : Widen) (pos : Nat)
    (popped : List W32) (lane : Nat) : Nat :=
  match u with
  | .reg _ n _ =>
    let haz := s.hazAll is.ag
    match opnd sp with
    | .v k =>
      match is.ag with
      | .gang gid _ =>
        match s.gang? gid with
        | some g =>
          (List.range n).foldr (fun i acc =>
            let cur := (g.rdV (k + i) lane).toNat
            flightVal s is.ag (.v (k + i)) lane (pos * 16 + i % 16)
              (hazVal s is.cyc haz (.v (k + i)) lane (pos * 16 + i % 16) cur) + 2 ^ 32 * acc) 0
        | none => 0
      | .ctx _ => 0
    | .s k =>
      (List.range n).foldr (fun i acc =>
        let cur := (s.rdS is.ag (k + i)).toNat
        flightVal s is.ag (.s (k + i)) 0 (pos * 16 + i % 16)
          (hazVal s is.cyc haz (.s (k + i)) 0 (pos * 16 + i % 16) cur) + 2 ^ 32 * acc) 0
    | .q _ => (popped.getD (if popped.length ≤ 1 then 0 else rankOf is.mask lane) 0).toNat
    | .h k =>
      match is.ag with
      | .gang gid _ => hazVal s is.cyc haz (.h k) 0 pos (((s.gang? gid).map fun g => (Tab.get 0 g.h k).toNat).getD 0)
      | .ctx _ => 0
    | .imm => widenConst (w.at pos) n false 0 o.imm.toNat
    | .cst i => widenConst (w.at pos) n true i (inlineConst i)
    | .bad => 0
  | _ => 0

/-- A predicate source in a lane. -/
def predVal (s : State) (is : Issue) (sp : BitVec 10) (pos lane : Nat) : Bool :=
  let haz := s.hazAll is.ag
  let n := sp.toNat % 8
  if sp.getLsbD 3 then
    flightVal s is.ag (.k n) 0 pos (hazVal s is.cyc haz (.k n) 0 pos (if s.rdK is.ag n then 1 else 0)) = 1
  else
    match is.ag with
    | .gang gid _ =>
      n = 0 ∨ flightVal s is.ag (.p n) lane pos (hazVal s is.cyc haz (.p n) lane pos
        (((s.gang? gid).map fun g => if (g.rdP n).getLsbD lane then 1 else 0).getD 0)) = 1
    | .ctx _ => false

/-! ### Results -/

/-- A register write of a bundle. -/
inductive Wr where
  | v (n : Nat) (vals : Tab W32)
  | s (n : Nat) (x : W32)
  | h (n : Nat) (x : W32)
  | q (n : Nat) (xs : List W32)
  | p (n : Nat) (m x : LaneMask)
  | k (n : Nat) (b : Bool)
  | lc (n : Nat) (x : W32)
deriving DecidableEq, Repr

/-- The register of a write, and the values it held, per lane. -/
def Wr.old (w : Wr) (s : State) (ag : Agent) : Option (RegId × Tab Nat) :=
  match w, ag with
  | .v n vals, .gang gid _ =>
    (s.gang? gid).map fun g => (.v n, vals.map fun e => (e.1, (g.rdV n e.1).toNat))
  | .s n _, _ => some (.s n, [(0, (s.rdS ag n).toNat)])
  | .h n _, .gang gid _ => (s.gang? gid).map fun g => (.h n, [(0, (Tab.get 0 g.h n).toNat)])
  | .p n m _, .gang gid _ =>
    (s.gang? gid).map fun g =>
      (.p n, (lanesOf g.width m).map fun l => (l, if (g.rdP n).getLsbD l then 1 else 0))
  | .k n _, _ => some (.k n, [(0, if s.rdK ag n then 1 else 0)])
  | .lc n _, _ => some (.lc n, [(0, (s.rdLc ag n).toNat)])
  | _, _ => none

/-- A write applied. -/
def State.applyWr (s : State) (ag : Agent) (w : Wr) : State :=
  match w, ag with
  | .v n vals, .gang gid _ => s.updGang gid fun g => vals.foldl (fun g e => g.wrV n e.1 e.2) g
  | .s n x, _ => s.wrS ag n x
  | .h n x, .gang gid _ => s.updGang gid fun g => { g with h := Tab.set 0 g.h n x }
  | .q n xs, .gang gid _ =>
    s.updGang gid fun g =>
      g.setWords n (g.qwords n ++ xs)
  | .p n m x, .gang gid _ => s.updGang gid fun g => g.wrP n m x
  | .k n b, _ => s.wrK ag n b
  | .lc n x, _ => s.wrLc ag n x
  | _, _ => s

/-- The hazards of an agent changed. -/
def State.updHaz (s : State) (ag : Agent) (f : List Haz → List Haz) : State :=
  match ag with
  | .gang gid fid => s.updFrag gid fid fun x => { x with haz := f x.haz }
  | .ctx n => s.updCtx n fun x => { x with haz := f x.haz }

/-- A register written while an unfinished operation of the agent will write it: either value may stay
(11 R313). -/
def State.markClash (s : State) (ag : Agent) (r : RegId) (m : LaneMask) : State :=
  let own := (s.flightsOf ag).map (·.id)
  if own.isEmpty then s else
  { s with flights := s.flights.map fun e =>
      (e.1, if own.contains e.1 && e.2.dest.regs.contains r then { e.2 with clash := (r, m) :: e.2.clash } else e.2) }

/-- The cycle of a bundle's last pass. -/
def Issue.lastPass (is : Issue) : Nat := is.cyc + is.passes - 1

/-- The siblings' hazards in a shared register become an agent's own, until its own write's latency has run at the latest: from then on
its reads give what it has written, or what was written later (02 R50, 11 R311). -/
def State.takeHaz (s : State) (ag : Agent) (r : RegId) (till : Nat) : State :=
  let l := (s.sibHaz ag).filter fun h => h.reg == r
  match ag, l with
  | .gang gid fid, _ :: _ =>
    s.updGang gid fun g => { g with frags := g.frags.map fun e =>
      (e.1, { e.2 with haz := if e.1 = fid then (l.map fun h => { h with till := min h.till till }) ++ e.2.haz
                              else e.2.haz.filter fun h => h.reg != r }) }
  | _, _ => s

/-- A register written by a bundle, covered by its producer's latency (11 R311), and marked for the unfinished operations that will write it. -/
def wrOwn (is : Issue) (lat : Nat) (t : State) (w : Wr) : State :=
  let o := w.old t is.ag
  let t1 := t.applyWr is.ag w
  match o with
  | none => t1
  | some (r, old) =>
    let t2 := if lat = 0 then t1 else
      t1.updHaz is.ag fun h => { reg := r, till := is.lastPass + lat, old := old } ::
        h.filter fun x => decide (is.cyc < x.till)
    t2.markClash is.ag r (maskOf (old.map (·.1)))

/-- A register written by a bundle; it comes after its siblings' unfinished writes of a shared one. -/
def wrStep (is : Issue) (lat : Nat) (t : State) (w : Wr) : State :=
  match w.old t is.ag with
  | none => wrOwn is lat t w
  | some (r, _) => (wrOwn is lat t w).takeHaz is.ag r (is.lastPass + lat)

/-- Results written, each covered by its producer's latency (11 R311). -/
def writeAll (s : State) (is : Issue) (lat : Nat) (ws : List Wr) : State := ws.foldl (wrStep is lat) s

/-- A result of `n` words as register writes from a destination specifier, for the lanes given. -/
def dstWrites (o : Opw) (n : Nat) (vals : Tab Nat) : List Wr :=
  let word := fun (x i : Nat) => BitVec.ofNat 32 (x / 2 ^ (32 * i))
  match opnd o.dst with
  | .v k => (List.range n).map fun i => .v (k + i) (vals.map fun e => (e.1, word e.2 i))
  | .s k => match vals.head? with
    | some e => (List.range n).map fun i => .s (k + i) (word e.2 i)
    | none => []
  | .h k => match vals.head? with | some e => [.h k (word e.2 0)] | none => []
  | .q k => match vals.head? with | some e => [.q k [word e.2 0]] | none => []
  | _ => []

/-- A truth per lane as writes of a predicate selector. -/
def predWrites (sp : BitVec 10) (vals : List (Nat × Bool)) : List Wr :=
  if sp.getLsbD 3 then match vals.head? with | some e => [.k (sp.toNat % 4) e.2] | none => []
  else [.p (sp.toNat % 8) (maskOf (vals.map (·.1))) (maskOf ((vals.filter (·.2)).map (·.1)))]

/-- The gang of an agent with some queue words taken. -/
def State.withPops (s : State) (ag : Agent) (k : Nat) (qs : List Nat) : List (List W32) × State :=
  match ag with
  | .gang gid _ =>
    match s.gang? gid with
    | some g => let r := popAll g k qs; (r.1, s.updGang gid fun _ => r.2)
    | none => ([], s)
  | .ctx _ => ([], s)

/-- Do the queues hold the words a bundle pops, and have they room for the word it pushes (07 R188)? -/
def queuesReady (s : State) (is : Issue) (sh : Shape) (o : Opw) : Bool :=
  match is.ag with
  | .gang gid _ =>
    match s.gang? gid with
    | some g =>
      let k := popCount sh o (popLanes g.width is.mask)
      let qs := sh.pops o
      (qs.all fun n => decide ((qs.filter (· == n)).length * k ≤ (g.qwords n).length)) &&
        (match sh.dst.queueOf o.dst with
          | some n => decide ((g.qwords n).length + 1 ≤ 256 + (qs.filter (· == n)).length * k)
          | none => true)
    | none => true
  | .ctx _ => true

/-- The popped words of each source position. -/
def popsAt (sh : Shape) (o : Opw) (popped : List (List W32)) : List W32 × List W32 × List W32 :=
  let na := (sh.a.queueOf o.a).isSome
  let nb := (sh.b.queueOf o.b).isSome
  let nc := (sh.c.queueOf o.c).isSome
  let a := if na then popped.getD 0 [] else []
  let b := if nb then popped.getD (if na then 1 else 0) [] else []
  let c := if nc then popped.getD ((if na then 1 else 0) + (if nb then 1 else 0)) [] else []
  (a, b, c)

/-! ### LAUTER packets -/

/-- The fields of a LAUTER packet's 64 bytes (07 Table 7.6). -/
def lauterFields (x pasid part : Nat) (cons : List Nat) (wid : Option Nat) : LPacket :=
  let f := fun (off n : Nat) => x / 256 ^ off % 256 ^ n
  { entry := f 8 8, arg := (List.range 8).map fun i => BitVec.ofNat 32 (f (16 + 4 * i) 4), cbAddr := f 48 8,
    cbBytes := f 56 4, dcId := f 60 2 % 4096, cfl := f 62 2, pasid := pasid, part := part, tag := f 4 4, cons := cons,
    wid := wid, lx := false }

/-- The reasons for code 1 (07 R207): TYPE, reserved fields, ENTRY, CB_ADDR, the release scope. -/
def lauterBad (x : Nat) : Bool :=
  let f := fun (off n : Nat) => x / 256 ^ off % 256 ^ n
  x % 256 ≠ 2 || natBits x 15 9 ≠ 0 || natBits x 31 24 ≠ 0 || f 8 8 % 16 ≠ 0 || decide (f 8 8 ≥ 2 ^ 57) ||
    f 48 8 % 32 ≠ 0 || (f 62 2 % 2 == 1 && f 48 8 == 0) || decide (f 62 2 / 4 % 8 < 2) ||
    decide (f 62 2 / 4 % 8 > 5) || decide (f 60 2 ≥ 4096) || decide (f 62 2 ≥ 64)

/-- Does a packet's counter, the one that DC_ID names, lie outside a set of partitions (07 R207)? -/
def lauterOutside (x mask : Nat) : Bool := !(mask.testBit (x / 256 ^ 60 % 4096 / 512))

/-- The free contexts of an engine. -/
def State.freeCtxs (s : State) (e : Nat) : Nat :=
  ((List.range 16).filter fun k => (s.ctx (16 * e + k)).stat == .free).length

/-- The engine of a cluster that TARGET selects (07 R206), numbered 4 · cluster + engine. -/
def State.engineFor (s : State) (cluster target : Nat) : Nat :=
  if target.testBit 7 then
    4 * cluster + (List.range 4).foldl (fun b e =>
      if s.freeCtxs (4 * cluster + e) > s.freeCtxs (4 * cluster + b) then e else b) 0
  else 4 * cluster + target / 32 % 4

/-- The packets waiting at an engine. -/
def State.cmdq (s : State) (e : Nat) : List LPacket := Tab.get [] s.cmdqs e

/-- Is an engine's command queue full (07 R206)? -/
def State.cmdFull (s : State) (e : Nat) : Bool := decide ((s.cmdq e).length ≥ 64)

/-- A packet accepted by an engine. -/
def State.accept (s : State) (e : Nat) (p : LPacket) : State := { s with cmdqs := Tab.set [] s.cmdqs e (s.cmdq e ++ [p]) }

/-- Words as one number, the first lowest. -/
def wordsNat (l : List W32) : Nat := l.foldr (fun w a => w.toNat + 2 ^ 32 * a) 0

/-- Whole packets of a LAU_CMD queue taken by its engine while it has room (07 R186, R189). -/
def State.takeLau (s : State) (gid n : Nat) : Nat → State
  | 0 => s
  | fuel + 1 =>
    match s.gang? gid with
    | none => s
    | some g =>
      let e := 4 * clusterOf g.core + (((g.q.getD n { bind := 0, words := [] }).bind).toNat / 256) % 4
      let ws := g.qwords n
      if g.port n = 6 ∧ ws.length ≥ 16 ∧ !(s.cmdFull e) then
        let p := lauterFields (wordsNat (ws.take 16)) (s.pasidOf (.gang gid 0)) (s.partOf (.gang gid 0)) [] (some g.wid)
        ((s.accept e p).updGang gid fun g =>
          g.setWords n (ws.drop 16)).takeLau
            gid n fuel
      else s

/-- What a bundle's push to a LAU_CMD queue completes: nothing when the packet is faulty (07 R207). -/
def lauPush (s : State) (is : Issue) (t : State) : Option State :=
  match is.ag with
  | .ctx _ => some t
  | .gang gid _ =>
    match s.gang? gid, t.gang? gid with
    | some g, some g' =>
      let ns := (List.range 16).filter fun n => g'.port n == 6 && decide ((g'.qwords n).length > (g.qwords n).length)
      let bad := ns.any fun n =>
        let ws := g'.qwords n
        let x := wordsNat (ws.drop (ws.length - 16))
        ws.length % 16 = 0 && (lauterBad x || lauterOutside x (2 ^ s.partOf is.ag))
      if bad then none else some (ns.foldl (fun u n => u.takeLau gid n 16) t)
    | _, _ => some t

/-- Is the guard true in at least one active lane? -/
def anyGuard (s : State) (is : Issue) (o : Opw) : Bool := guardMask s is o ≠ 0

/-- The lanes of an agent that a mask selects; a context has one. -/
def State.lanesAg (s : State) (ag : Agent) (m : LaneMask) : List Nat :=
  match ag with
  | .gang gid _ => lanesOf (((s.gang? gid).map (·.width)).getD 0) m
  | .ctx _ => if m = 0 then [] else [0]

/-- The words that a bundle pops at its source positions, whatever its guard (07 R188), and the state without them. -/
def takePops (s : State) (is : Issue) (sh : Shape) (o : Opw) : (List W32 × List W32 × List W32) × State :=
  let pk := s.withPops is.ag (popCount sh o (s.lanesAg is.ag is.mask).length) (sh.pops o)
  (popsAt sh o pk.1, pk.2)

/-- The state once a bundle's source words were taken. -/
def popped (i : Instr) (o : Opw) (s : State) (is : Issue) : State :=
  (takePops s is (shape (match is.ag with | .ctx _ => true | _ => false) i) o).2

/-! ### Scratchpad bounds -/

/-- The lanes whose scratchpad operand leaves the declared bytes (05 R125): of an offset known at decode, every active lane,
whatever the guard and the queues; else the lanes that act. A bundle whose queues do not yet hold its words then tests nothing. -/
def scrOut (i : Instr) (o : Opw) (s : State) (is : Issue) : LaneMask :=
  match scrUse i, is.ag with
  | some (n, acc), .gang gid _ =>
    match s.gang? gid with
    | none => 0
    | some g =>
      let sh := shape false i
      let known := isConst o.a && isConst o.b
      if !known && !queuesReady s is sh o then 0 else
      let gm := guardMask s is o
      let lanes := if known then s.lanesAg is.ag is.mask else
        s.lanesAg is.ag (if acc = 0 then gm else gm &&& ~~~g.helper)
      let pp := (takePops s is sh o).1
      let off := fun l => exactSum o (srcVal s is o sh.a o.a .raw 1 pp.1 l) (srcVal s is o sh.b o.b .raw 2 pp.2.1 l)
      let out := fun l => decide (off l < 0) || decide (off l + (n : Int) > ((s.khOf g).scratch : Int))
      if scrOnce i then (if lanes.any out then (if known then is.mask else gm) else 0)
      else maskOf (lanes.filter out)
  | _, _ => 0

/-- The trap of the decode stage: SCRBOUND, found with the operands, is recorded with the stage's other causes (09 R250). Alone it
marks its own lanes and its access. -/
def stageTrap (i : Instr) (s : State) (is : Issue) (causes : Nat) (out : LaneMask) : Option TrapInfo :=
  if causes ≠ 0 then some (decodeTrap s is (causes ||| if out ≠ 0 then cSCRBOUND else 0))
  else if out ≠ 0 then some { causes := cSCRBOUND, faddr := 0, fsub := ((scrUse i).map (·.2)).getD 0, fmask := out }
  else none

/-- The registers that an operation word reads, its operation's further ones included. -/
def readRegs (i : Instr) (sh : Shape) (o : Opw) (extra : List RegId) : List RegId :=
  (if aWrites i then [] else sh.a.regsOf o.a) ++ sh.b.regsOf o.b ++ sh.c.regsOf o.c ++ extra

/-- Does a bundle read a poisoned register line (10 R290, R292)? -/
def readsBad (i : Instr) (o : Opw) (s : State) (is : Issue) (rd : List RegId) : Bool :=
  match is.ag with
  | .ctx _ => false
  | .gang gid _ =>
    match s.gang? gid with
    | none => false
    | some g => !g.vbad.isEmpty && (readRegs i (shape false i) o rd).any fun r => match r with
        | .v n => (lanesOf g.width is.mask).any fun l => g.vbad.has (vKey n l)
        | _ => false

/-- The state after a bundle's effect: reading a poisoned line raises POISON, asynchronously (09 R250), if the bundle was performed. -/
def State.taint (t : State) (s : State) (is : Issue) (bad : Bool) : State :=
  if bad && t.issue.isSome then t.addAsync is.ag (cPOISON + if s.inHandler is.ag then 2 ^ 40 else 0) else t

/-- The causes of the decode stage (09 R250). -/
def decodeSet : Nat := cILLOP + cPRIV + cREGBOUND + cBARBOUND + cSCRBOUND + cSTALLCHK + cQBIND

/-- Did an operation, in going from one state to another, raise a cause of the decode stage that its operands' values show (09 R250)? -/
def decodeRaised (s t : State) : Agent → Bool
  | .gang gid _ =>
    match s.gang? gid, t.gang? gid with
    | some g, some g' =>
      if g.slot.isSome then decide ((g'.cause &&& ~~~g.cause).toNat &&& decodeSet ≠ 0)
      else g.trap.isNone && g'.trap.isSome && decide (g'.cause.toNat &&& decodeSet ≠ 0)
    | _, _ => false
  | .ctx _ => decide (s.lfHeld.length < t.lfHeld.length) && t.lfHeld.getLast?.any fun r => decide (r.cause &&& decodeSet ≠ 0)

/-- A bundle whose JIND has a bad target: the target's causes, unless the operation itself raises one of the decode stage: then that one
alone (09 R250). `t`: the state that the operation's own effect leaves. -/
def jindStop (s : State) (is : Issue) (ready : Bool) (t : State) (ti : TrapInfo) : State :=
  if ready && decodeRaised s t is.ag then t else s.takeCause is.ag .fault ti

/-- The frame of every operation's meaning: without an issuing agent the model's fault; otherwise the decode
checks and a JIND's target, then the queues, then the operation's own effect. -/
def issueOp (i : Instr) (o : Opw) (s : State) (bad : Issue → Bool) (rd : Issue → List RegId)
    (more : Issue → Nat) (body : Issue → State) : Host.Outcome State Fault Refusal :=
  match s.issue with
  | none => .fault .noAgent
  | some is =>
    let sh := shape (match is.ag with | .ctx _ => true | _ => false) i
    match stageTrap i s is (decodeCauses i o is s (bad is) (rd is) (more is)) (scrOut i o s is) with
    | some ti => runOp s (s.takeCause is.ag .fault ti)
    | none =>
      match jindTrap is with
      | some ti => runOp s (jindStop s is (queuesReady s is sh o) (body is) ti)
      | none =>
        if !queuesReady s is sh o then runOp s (s.blockRetry is.ag .queue)
        else if (sh.dst.queueOf o.dst).isNone then runOp s ((body is).taint s is (readsBad i o s is (rd is)))
        else
          match lauPush s is (body is) with
          | some t => runOp s (t.taint s is (readsBad i o s is (rd is)))
          | none => runOp s (s.takeCause is.ag .fault
              { causes := cENGFAULT, faddr := 0, fsub := Config.freeNat s.fresh 1 % 2 ^ 11, fmask := guardMask s is o })

/-- No further reason for ILLOP. -/
def noBad : Issue → Bool := fun _ => false
/-- No further register read. -/
def noRd : Issue → List RegId := fun _ => []
/-- No further cause. -/
def noMore : Issue → Nat := fun _ => 0

/-- The lanes that an operation writes: one for an executed scalar form, else the guarded active lanes. -/
def effLanes (s : State) (is : Issue) (sh : Shape) (o : Opw) : List Nat :=
  let gm := guardMask s is o
  if sh.scalarDst o then (if gm ≠ 0 then [0] else []) else s.lanesAg is.ag gm

/-- A uniform source's value. -/
def uniVal (s : State) (is : Issue) (o : Opw) (u : Use) (sp : BitVec 10) (pos : Nat) : Nat :=
  srcVal s is o u sp .raw pos [] 0

/-- Flags recorded, and a trap taken in place of the writes when one is enabled (04 R110-R112). -/
def flagged (s0 s : State) (is : Issue) (flags : Nat) (fmask : LaneMask) (writes : State → State) : State :=
  let traps := trapsOf (s.fpctlOf is.ag) flags
  if traps ≠ 0 then
    (s0.orFlags is.ag flags).takeCause is.ag .fault
      { causes := traps, faddr := 0, fsub := Config.freeNat s.fresh 1 % 2 ^ 11, fmask := fmask }
  else writes (if flags = 0 then s else s.orFlags is.ag flags)

/-! ### ALU operations -/

/-- The end of an operation with flags per lane (04 R110-R112): a flag whose trap is enabled raises it in place of every write;
otherwise the flags are recorded and the results written. `t`: the state without the queue words taken. -/
def commit (s t : State) (is : Issue) (scalar : Bool) (gm : LaneMask) (lat : Nat) (fls : List (Nat × Nat)) (ws : List Wr) :
    State :=
  let flags := fls.foldl (fun a e => a ||| e.2) 0
  let traps := trapsOf (s.fpctlOf is.ag) flags
  if traps ≠ 0 then
    (s.orFlags is.ag flags).takeCause is.ag .fault
      { causes := traps, faddr := 0, fsub := Config.freeNat s.fresh 1 % 2 ^ 11,
        fmask := if scalar then gm else
          maskOf ((fls.filter fun e => trapsOf (s.fpctlOf is.ag) e.2 ≠ 0).map (·.1)) }
  else writeAll (if flags = 0 then t else t.orFlags is.ag flags) is lat ws

/-- An ALU operation's effect (11 R309): `f` gives, from the sources of a lane, the result and its flags; `n` is
the destination's words. -/
def aluEffect (i : Instr) (o : Opw) (w : Widen) (n : Nat) (f : Nat → Nat → Nat → Nat × Nat) (s : State)
    (is : Issue) : State :=
  let sh := shape false i
  let pp := takePops s is sh o
  let rs := (effLanes s is sh o).map fun l =>
    (l, f (srcVal s is o sh.a o.a w 1 pp.1.1 l) (srcVal s is o sh.b o.b w 2 pp.1.2.1 l)
      (srcVal s is o sh.c o.c w 3 pp.1.2.2 l))
  commit s pp.2 is (sh.scalarDst o) (guardMask s is o) sh.lat (rs.map fun e => (e.1, e.2.2))
    (dstWrites o n (rs.map fun e => (e.1, e.2.1)))

/-- The meaning of an ALU operation with a register destination. -/
def aluOp (i : Instr) (o : Opw) (w : Widen) (n : Nat) (f : Nat → Nat → Nat → Nat × Nat) (s : State) :
    Host.Outcome State Fault Refusal :=
  issueOp i o s noBad noRd noMore (aluEffect i o w n f s)

/-- The effect of an ALU operation with a predicate destination. -/
def cmpEffect (i : Instr) (o : Opw) (w : Widen) (f : Nat → Nat → Bool × Nat) (s : State) (is : Issue) : State :=
  let sh := shape false i
  let pp := takePops s is sh o
  let rs := (effLanes s is sh o).map fun l =>
    (l, f (srcVal s is o sh.a o.a w 1 pp.1.1 l) (srcVal s is o sh.b o.b w 2 pp.1.2.1 l))
  commit s pp.2 is (sh.scalarDst o) (guardMask s is o) sh.lat (rs.map fun e => (e.1, e.2.2))
    (predWrites o.dst (rs.map fun e => (e.1, e.2.1)))

/-- The meaning of a compare. -/
def cmpOp (i : Instr) (o : Opw) (w : Widen) (f : Nat → Nat → Bool × Nat) (s : State) :
    Host.Outcome State Fault Refusal :=
  issueOp i o s noBad noRd noMore (cmpEffect i o w f s)

end Sys2Proof.Machine
end

