-- ==== Sys2Proof/Machine/Ordering.lean ====
section
/-!
DEFINITION. Operations in flight as bundles issue them (05 R136-R138) and the orders kept within an agent
(06 R166-R174, R181): which earlier operations a later one follows.
-/
namespace Sys2Proof.Machine

/-- The earlier operations of an agent in program order and what orders later ones after them. -/
def State.orderOf (s : State) : Agent → List Nat × List Con
  | .gang gid fid => ((s.frag? gid fid).map fun f => (f.po, f.con)).getD ([], [])
  | .ctx n => ((s.ctx n).po, (s.ctx n).con)

/-- The program order record of an agent replaced. -/
def State.setOrder (s : State) (ag : Agent) (po : List Nat) (con : List Con) : State :=
  match ag with
  | .gang gid fid => s.updFrag gid fid fun f => { f with po := po, con := con }
  | .ctx n => s.updCtx n fun c => { c with po := po, con := con }

/-- Are all accesses of a flight applied? A flight that is gone has completed. -/
def State.applied (s : State) (id : Nat) : Bool :=
  match s.flights.find? id with
  | none => true
  | some f => f.accs.all (·.done) && f.grant == 0

/-- Every path (06 Table 6.5), as a mask. -/
def allPaths : Nat := 127

/-- A constraint that every later access comes after an operation. -/
def Con.every (fl : Nat) : Con := { fl := fl, paths := allPaths, rd := true, wr := true, ack := false }

/-- Is an operation applied, and every request that it made of a peer chip acknowledged (06 R183)? -/
def State.acknowledged (s : State) (id : Nat) : Bool :=
  s.applied id && !(s.streams.any fun x => x.unacked.any fun u => u.2 == id)

/-- The program order record without operations that have completed. -/
def State.livePo (s : State) (ag : Agent) : List Nat × List Con :=
  let o := s.orderOf ag
  (o.1.filter fun i => (s.flights.find? i).isSome, o.2.filter fun c => (s.flights.find? c.fl).isSome)

/-- Does a constraint cover an operation? -/
def Con.covers (c : Con) (path : Nat) (rd wr : Bool) : Bool := c.paths.testBit path && ((c.rd && rd) || (c.wr && wr))

/-- Is an access one to a TSO page (06 R181)? -/
def Acc.tso (a : Acc) : Bool := match a.loc with | .mem _ t _ => t | _ => false

/-- Does an operation read only, or write only, where it acts? -/
def HomeOp.readOnly : HomeOp → Bool
  | .rd _ => true
  | .gath _ => true
  | .cbRead => true
  | .monArm _ _ => true
  | _ => false

/-- Is an operation a plain write? -/
def HomeOp.writeOnly : HomeOp → Bool
  | .wr _ _ _ => true
  | .wbits _ _ _ _ => true
  | .welem _ _ _ _ _ _ _ _ => true
  | .leafZero _ => true
  | _ => false

/-- The bytes that an operation covers from its location on. -/
def HomeOp.size : HomeOp → Nat
  | .rd n => n
  | .wr n _ _ => n
  | .wbits off len _ _ => ceilDiv (off + len) 8
  | .welem _ off _ _ _ _ _ len => ceilDiv (off + len) 8
  | .rmw _ _ _ n => n
  | .gath _ => 128
  | .cbInit _ _ => 32
  | .cbArrive _ _ => 32
  | .cbRead => 32
  | .or64 _ => 8
  | .monArm n _ => n
  | .leafZero n => n
  | .wback n _ => n
  | .merge _ _ _ _ _ _ => 16
  | .refsDec _ _ _ => 8
  | _ => 1

/-- The lines of some bytes at a location: of memory (0), or of a workgroup's scratchpad. -/
def Loc.lines (l : Loc) (n : Nat) : List (Nat × Nat) :=
  let go := fun (w k : Nat) => (List.range ((k + max n 1 - 1) / 128 + 1 - k / 128)).map fun i => (w, k / 128 + i)
  match l with
  | .mem k _ _ => go 0 k
  | .scr w o => go (w + 1) o
  | _ => []

/-- The lines that an access covers. -/
def Acc.lines (a : Acc) : List (Nat × Nat) := a.loc.lines a.op.size

/-- Do two agents share a memory agent's order on lines (06 R162, R180)? -/
def sameMemAgent (a b : Agent) : Bool :=
  match a, b with
  | .gang g _, .gang h _ => g == h
  | .ctx n, .ctx m => n == m
  | _, _ => false

/-- Has an operation on a path of an agent an access to one of some lines that is not yet applied (06 R180)? -/
def Flight.onLines (f : Flight) (ag : Agent) (path : Nat) (lines : List (Nat × Nat)) : Bool :=
  f.path == path && sameMemAgent f.ag ag && f.accs.any fun b => !b.done && b.lines.any lines.contains

/-- The earlier operations that a new one follows: constraints, and its own release (06 Table 6.3). -/
def State.followed (s : State) (ag : Agent) (f : Flight) : List Nat :=
  let o := s.livePo ag
  let cs := (o.2.filter fun c => c.covers f.path f.rd f.wr).map (·.fl)
  let rel := if f.rel then o.1.filter fun i => match s.flights.find? i with
      | some e => e.path == f.path
      | none => false
    else []
  (cs ++ rel).eraseDups

/-- A new operation of an issuing bundle on a path, with no accesses yet. -/
def newFlight (s : State) (is : Issue) (i : Instr) (path : Nat) : Flight :=
  { id := s.nextId, ag := is.ag, core := s.unitOf is.ag, slot := s.slotOf is.ag, path := path, cnt := decide (path ≤ 6), instr := i,
    mask := is.mask, pc := is.pc, pasid := s.pasidOf is.ag, scope := 3, acq := false, rel := false,
    rd := false, wr := false, nt := false, handler := s.inHandler is.ag, after := [], accs := [], dest := .none,
    fmt := s.fmtOf is.ag, sw := [], lw := [], pages := [], cur := 0, born := s.cycle, grant := 0,
    withdrawn := false, invals := [], tafter := [], clash := [], joins := [], fenced := [], acks := [] }

/-- An operation as its agent's program order places it: after what it follows (06 R170), a release at fabric scope also after the
acknowledgements (06 R183); all earlier operations are those that its TSO accesses may have to follow (06 R181). -/
def State.inOrder (s : State) (f : Flight) : Flight :=
  let after := s.followed f.ag f
  let acks := if f.rel && decide (f.scope ≥ 4) then after
    else ((s.livePo f.ag).2.filter fun c => c.ack && c.covers f.path false f.wr).map (·.fl)
  { f with after := after, acks := acks, tafter := (s.livePo f.ag).1 }

/-- An operation issued: it takes its place in its fragment's program order; an acquire orders every later access after it (06 Table 6.3). -/
def State.issueFlight (s : State) (f : Flight) : State :=
  let o := s.livePo f.ag
  let con := if f.acq then Con.every f.id :: o.2 else o.2
  ({ s with flights := s.flights.put f.id (s.inOrder f), nextId := s.nextId + 1 }).setOrder f.ag (f.id :: o.1) con

/-- The earlier operations that a read or write made at issue has to wait for (06 R170, R172, R173): those that a constraint puts before
it and that are not yet applied. -/
def State.ordWait (s : State) (ag : Agent) (path : Nat) (rd wr : Bool) : List Nat :=
  (((s.livePo ag).2.filter fun c => c.covers path rd wr).map (·.fl)).filter fun i => !s.applied i

/-- The operations of an agent's path with an access to some lines still to be applied, for which a read made at issue has to wait
(06 R170, R180). -/
def State.lineWait (s : State) (ag : Agent) (path : Nat) (lines : List (Nat × Nat)) : List Nat :=
  (s.flights.filter fun e => e.2.onLines ag path lines).map (·.1)

/-- Is an operation tensor movement? -/
def isTensor (i : Instr) : Bool :=
  match i with
  | .tmov _ => true
  | .tgath _ => true
  | .tscat _ => true
  | .tfill _ => true
  | _ => false

/-- Has an earlier operation a TSO access to be applied before a TSO access of a later one: all, but a write before a read (06 R181)?
`rd`: the later access reads only. -/
def Flight.tsoBefore (e : Flight) (rd : Bool) : Bool :=
  (e.accs.any fun b => !b.done && b.tso && !(rd && b.op.writeOnly)) ||
    ((e.accs.any fun b => !b.done) && e.pages.any (·.tso) && !(rd && e.wr && !e.rd))

/-- Must a TSO access of an operation wait for an earlier one (06 R181)? -/
def State.tsoWait (s : State) (f : Flight) (rd : Bool) : Bool :=
  f.tafter.any fun i => match s.flights.find? i with | some e => e.tsoBefore rd | none => false

/-- Must an access wait for an earlier one of its agent's path to one of its lines (06 R180), or for an earlier TSO access (06 R181)? -/
def State.lineBusy (s : State) (f : Flight) (a : Acc) : Bool :=
  (s.flights.any fun e => decide (e.1 < f.id) && e.2.onLines f.ag f.path a.lines) || (a.tso && s.tsoWait f a.op.readOnly)

/-- Have the operations that an operation follows been applied (06 R170)? One whose pages are known at issue follows the TSO accesses
of earlier ones as a whole (06 R181); the elements of tensor movement follow them one by one. -/
def State.mayApply (s : State) (f : Flight) : Bool :=
  f.after.all s.applied && f.acks.all s.acknowledged && !(!(isTensor f.instr) && f.pages.any (·.tso) && s.tsoWait f (f.rd && !f.wr))

/-- The earlier operations with TSO accesses that a read made at issue comes after, whichever page it turns out to read (log entry 8). -/
def State.tsoReads (s : State) (ag : Agent) : List Nat :=
  (s.livePo ag).1.filter fun i => match s.flights.find? i with | some e => e.tsoBefore true | none => false

/-- The in-flight counter of an agent's gang or context on a path (05 R136). -/
def State.counter (s : State) (ag : Agent) (path : Nat) : Nat :=
  (s.flights.filter fun e => e.2.cnt && e.2.path == path && !e.2.withdrawn &&
    match ag, e.2.ag with
    | .gang g _, .gang h _ => g == h
    | .ctx n, .ctx m => n == m
    | _, _ => false).length

/-- Would an operation raise its counter above 1,023 (05 R136)? -/
def State.counterFull (s : State) (ag : Agent) (path : Nat) : Bool := decide (s.counter ag path ≥ 1023)

/-- The data lines of the L1 that serves an agent are dropped (05 R132, R135). -/
def State.dropL1 (s : State) (ag : Agent) : State :=
  let core := s.unitOf ag
  let fused : Bool := match ag with
    | .gang gid _ => ((s.gang? gid).bind fun g => s.wgOf g).any (·.fused)
    | .ctx _ => false
  { s with l1 := s.l1.filter fun l => if fused then clusterOf l.core != clusterOf core else l.core != core }

/-- The constraints a FENCE of an order leaves on a path (06 R172): order 1 acquire, 2 release, 3 both. -/
def fenceCons (s : State) (order scope paths : Nat) (po : List Nat) : List Con :=
  po.filterMap fun i =>
    match s.flights.find? i with
    | none => none
    | some e =>
      if !(paths.testBit e.path) then none
      else match order with
        | 1 => if e.rd then some { fl := i, paths := 2 ^ e.path, rd := true, wr := true, ack := false } else none
        | 2 => some { fl := i, paths := 2 ^ e.path, rd := false, wr := true, ack := decide (scope ≥ 4) }
        | _ => some { fl := i, paths := 2 ^ e.path, rd := true, wr := true, ack := decide (scope ≥ 4) }

/-- An operation whose accesses, as they are applied, drop the L1 of a further agent. -/
def Flight.dropsL1 (f : Flight) (ag : Agent) : Flight := { f with invals := if f.invals.contains ag then f.invals else ag :: f.invals }

/-- Operations in flight that order later accesses of an agent: its L1 is dropped again as each of their accesses is applied, so that no
line brought in before serves a later read. -/
def State.dropLater (s : State) (ag : Agent) (p : Flight → Bool) (fls : List Nat) : State :=
  { s with flights := s.flights.map fun e => if fls.contains e.1 && p e.2 then (e.1, e.2.dropsL1 ag) else e }

/-- Does the scope of an operation of one agent include another (06 Table 6.1)? -/
def State.includes (s : State) (scope : Nat) (x y : Agent) : Bool :=
  let wg := fun (a : Agent) => match a with | .gang g _ => (s.gang? g).map (fun (x : Gang) => x.wid) | .ctx _ => none
  match scope with
  | 0 => sameMemAgent x y
  | 1 => sameMemAgent x y || ((wg x).isSome && wg x == wg y)
  | 2 => s.clusterOfAg x == s.clusterOfAg y
  | _ => true

/-- The operations in flight that an acq-rel FENCE by an agent comes after in the total order of such FENCEs: those before an earlier
one that is scope-matched with it, when one of the two has device scope or wider (06 R172). -/
def State.fencedBefore (s : State) (ag : Agent) (scope : Nat) : List Flight :=
  (s.flights.filter fun e => e.2.fenced.any fun x =>
      !(sameMemAgent x.1 ag) && decide (max x.2 scope ≥ 3) && s.includes x.2 x.1 ag && s.includes scope ag x.1).map (·.2)

/-- A FENCE by an agent over a set of paths (06 R172, 05 R132): at cluster scope or wider the L1 is invalidated, and
again as the earlier accesses that it orders before later reads are applied. An acq-rel FENCE takes its place in the total order: what
happens before an earlier one comes before its agent's later accesses of the same path, and what happens before it is marked for those
to come. -/
def State.fence (s : State) (ag : Agent) (order scope paths : Nat) : State :=
  let o := s.livePo ag
  let before := if order = 3 then (s.fencedBefore ag scope).filter fun f => paths.testBit f.path else []
  let past := before.map fun f => ({ fl := f.id, paths := 2 ^ f.path, rd := true, wr := true, ack := false } : Con)
  let s1 := s.setOrder ag o.1 (fenceCons s order scope paths o.1 ++ past ++ o.2)
  let s2 := if order ≠ 3 then s1 else
    let mine := o.1 ++ o.2.map (·.fl) ++ before.map (·.id)
    { s1 with flights := s1.flights.map fun e =>
        (e.1, if mine.contains e.1 && paths.testBit e.2.path then { e.2 with fenced := (ag, scope) :: e.2.fenced } else e.2) }
  if scope < 2 then s2.dropLater ag (fun _ => true) (before.map (·.id))
  else (s2.dropL1 ag).dropLater ag (fun f => order ≠ 2 && (f.rd || (order == 3 && f.wr))) (o.1 ++ before.map (·.id))

/-- Every earlier operation of an agent, on every path, and all that already comes before its accesses by an acquire: what a release
without a path covers (06 R177). -/
def State.allEarlier (s : State) (ag : Agent) : List Nat :=
  let o := s.livePo ag
  (o.1 ++ o.2.map (·.fl)).eraseDups

/-- Later accesses of an agent on every path follow the operations given: the acquire side of an implicit pair
(06 R177). -/
def State.acquireFrom (s : State) (ag : Agent) (fls : List Nat) : State :=
  let o := s.livePo ag
  let cs := (fls.filter fun i => (s.flights.find? i).isSome).map Con.every
  (s.setOrder ag o.1 (cs ++ o.2)).dropLater ag (fun _ => true) fls

/-- A dynamic cause of a bundle that acts: the guarded lanes raise it, with no address (09 Table 9.3). -/
def State.causeAt (s : State) (is : Issue) (o : Opw) (causes : Nat) : State :=
  s.takeCause is.ag .fault
    { causes := causes, faddr := 0, fsub := Config.freeNat s.fresh 1 % 2 ^ 11, fmask := guardMask s is o }

/-- An operation's asynchronous cause, marked when the operation was issued in handler mode: a double fault (09 R250); a context's with
the address of the bundle that raised it (07 R480). -/
def Flight.asyncBits (f : Flight) (c : Nat) : Nat :=
  match f.ag with
  | .gang _ _ => c + (if f.handler then 2 ^ 40 else 0)
  | .ctx _ => c + 2 ^ 64 * f.pc

/-- A once-per-fragment operation: its effect when the guard holds in an active lane (12 R324). -/
def onceOp (i : Instr) (o : Opw) (s : State) (f : State → Issue → State) : Host.Outcome State Fault Refusal :=
  issueOp i o s noBad noRd noMore fun is => if anyGuard s is o then f s is else s

end Sys2Proof.Machine
end

