-- ==== Sys2Proof/Machine/Access.lean ====
section
/-!
DEFINITION. The accesses of a bundle: address formation (11 R316), the checks and translation of every lane at issue
(09 R250, R258-R263), page chunks, and buffer records (05 R149-R154).
-/
namespace Sys2Proof.Machine

/-- An access to be checked: lane, address, bytes, alignment, kind; the part of its lane's operation it is; and a
fault known before translation. -/
structure AReq where
  lane : Nat
  va : Nat
  size : Nat
  align : Nat := 1
  acc : Access
  slot : Nat := 0
  pre : Option (Nat × Nat) := none
deriving DecidableEq, Repr

/-- A fault of one lane: cause, address, access code and reason. -/
structure LaneFault where
  lane : Nat
  cause : Nat
  va : Nat
  acc : Nat
  reason : Nat
deriving DecidableEq, Repr

/-- The outcome of one lane's check. -/
inductive LaneRes where
  | ok (r : AReq) (t : TrOk)
  | fault (f : LaneFault)
  | ats (page : Nat)
  | hold (va : Nat)
deriving DecidableEq, Repr

/-- A further check of a translated access: a cause and its reason. -/
abbrev PageCheck := AReq → TrOk → Option (Nat × Nat)

/-- The place of an access whose translation met poison: POISON is asynchronous, so the access is made (09 R250). -/
def TrOk.poisoned (va : Nat) : TrOk :=
  { key := memKey poisonTier 0 (va % 4096), isReg := false, tier := poisonTier, tso := false, zb := false, hold := false,
    leafKey := 0, leaf := 0, orBits := 0, base := 0, size := 0 }

/-- The check on register space (10 R273): only naturally aligned loads and stores of 4 and 8 bytes reach it. -/
def regAccess (n : Nat) : PageCheck := fun r t =>
  if t.isReg && !(decide (n = 4 ∨ n = 8) && r.size == n && decide (r.va % n = 0)) then some (cPROT, 1) else none

/-- The check of an access that register space does not take (10 R273). -/
def noReg : PageCheck := fun _ t => if t.isReg then some (cPROT, 1) else none

/-- One lane's checks (05 R124, 09 R258-R263): the address's form, alignment, translation, the operation's own check,
and a migration hold (09 R270). Table 9.3 has no reason for a misaligned access: reason 0, the model's choice (log entry 19). -/
def State.checkLane (s : State) (ag : Agent) (chk : PageCheck) (r : AReq) : LaneRes :=
  match r.pre with
  | some (c, reason) => .fault { lane := r.lane, cause := c, va := r.va, acc := r.acc.code, reason := reason }
  | none =>
  if r.va ≥ 2 ^ 57 then .fault { lane := r.lane, cause := cPROT, va := r.va, acc := r.acc.code, reason := 7 }
  else if r.va % r.align ≠ 0 then
    .fault { lane := r.lane, cause := cMISALIGN, va := r.va, acc := r.acc.code, reason := 0 }
  else
    match s.trAg ag r.va r.acc with
    | .fault c reason =>
      if c = cPOISON then .ok r (.poisoned r.va)
      else .fault { lane := r.lane, cause := c, va := r.va, acc := r.acc.code, reason := reason }
    | .ats p => .ats p
    | .ok t =>
      match chk r t with
      | some (c, reason) => .fault { lane := r.lane, cause := c, va := r.va, acc := r.acc.code, reason := reason }
      | none => if t.hold && (r.acc == .write || r.acc == .rmw) then .hold r.va else .ok r t

/-- What the checks of all lanes give: the first in this order, causes being recorded together (09 R250). -/
inductive AOut where
  | ok (l : List (AReq × TrOk))
  | trap (ti : TrapInfo)
  | ats (pages : List Nat)
  | hold (va : Nat) (lanes : LaneMask)

/-- The fault of the lowest lane of a list, its first. -/
def lowFault (f : LaneFault) : List LaneFault → LaneFault
  | [] => f
  | g :: t => lowFault (if g.lane < f.lane then g else f) t

/-- The trap that the faults of lanes raise together (09 R250, Table 9.3): the address and its sub-code are the lowest lane's. -/
def trapOfLanes (fs : List LaneFault) (path : Nat) (extra : LaneMask) : TrapInfo :=
  match fs with
  | [] => { causes := 0 }
  | f :: rest =>
    let f := lowFault f rest
    { causes := fs.foldl (fun a e => a ||| e.cause) 0, faddr := f.va, fsub := f.acc + 16 * f.reason + 256 * path,
      fmask := maskOf (fs.map (·.lane)) ||| extra }

/-- The checks of a list of accesses in ascending lane order. `scalarMask`: lanes marked when a scalar-form access
faults. -/
def State.checkAll (s : State) (ag : Agent) (path : Nat) (scalarMask : LaneMask) (chk : PageCheck)
    (l : List AReq) : AOut :=
  let rs := l.map (s.checkLane ag chk)
  let fs := rs.filterMap fun r => match r with | .fault f => some f | _ => none
  let ats := rs.filterMap fun r => match r with | .ats p => some p | _ => none
  let hs := rs.filterMap fun r => match r with | .hold v => some v | _ => none
  if !fs.isEmpty then
    let ti := trapOfLanes fs path scalarMask
    .trap (if scalarMask ≠ 0 then { ti with fmask := scalarMask } else ti)
  else if !ats.isEmpty then .ats ats.eraseDups
  else match hs with
    | v :: _ => .hold v (if scalarMask ≠ 0 then scalarMask else
        maskOf ((l.filter fun r => match s.checkLane ag chk r with | .hold _ => true | _ => false).map (·.lane)))
    | [] => .ok (rs.filterMap fun r => match r with | .ok q t => some (q, t) | _ => none)

/-- A refusal by the host is forgotten when its fault is raised (09 R263): the next use asks again. -/
def State.dropRefusals (s : State) (ti : TrapInfo) : State :=
  if ti.fsub / 16 % 16 = 6 then { s with atc := s.atc.filter fun t => t.2.2 ≠ 0 } else s

/-- The agent under which the device's own held requests stand: a context that no engine has. -/
def farAgent : Agent := .ctx 2048

/-- A page is asked of the host (09 R263), or a request to a chip that no route reaches begins its hold (10 R284): once. -/
def State.askPage (s : State) (pasid page : Nat) : State :=
  if page < 2 ^ 50 then
    if s.hostOut.any fun m => m.kind == 1 && m.args == [pasid, page] then s
    else { s with hostOut := s.hostOut ++ [{ kind := 1, args := [pasid, page] }] }
  else if (s.farToken pasid page).isSome then s
  else
    let f : Flight :=
      { id := s.nextId, ag := farAgent, core := devUnit, slot := 0, path := 8, cnt := false, instr := .fabricHoldTimeout s.nextId,
        mask := 0, pc := 0, pasid := pasid, scope := 3, acq := false, rel := false, rd := false, wr := false, nt := false,
        handler := false, after := [], accs := [], dest := .none, fmt := 0, sw := [pasid, page, 0], lw := [], pages := [], cur := 0,
        born := s.cycle, grant := 0, withdrawn := false, invals := [], tafter := [], clash := [], joins := [], fenced := [], acks := [] }
    { s with nextId := s.nextId + 1, flights := s.flights.put s.nextId f }

/-- The fragment waits for the host's translations, or for chips to be reached: a request goes out for each page (09 R263, 10 R284). -/
def State.waitAts (s : State) (ag : Agent) (pages : List Nat) : State :=
  (pages.foldl (fun (t : State) p => t.askPage (s.pasidOf ag) p) s).blockRetry ag .ats

/-- The token of an agent's migration hold, whose age is the hold's (09 R270). -/
def State.holdToken (s : State) (ag : Agent) : Option Nat :=
  (s.flights.filter fun e => e.2.ag == ag && (match e.2.instr with | .migrationHoldExpire _ => true | _ => false)).head?.map (·.1)

/-- The hold is over. -/
def State.dropHold (s : State) (ag : Agent) : State :=
  match s.holdToken ag with
  | some i => { s with flights := s.flights.del i }
  | none => s

/-- Is a hold the one that a bundle meets again: the same bundle, on the same page? -/
def Flight.sameHold (f : Flight) (is : Issue) (va : Nat) : Bool := f.pc == is.pc && f.sw.head?.any fun w => w / 4096 == va / 4096

/-- The agent is held on a migrating page (09 R270): it waits at its bundle, which its held lanes would fault. A hold of another bundle
or on another page begins now. -/
def State.waitHold (s : State) (is : Issue) (va path : Nat) (acc : Access) (lanes : LaneMask) : State :=
  match (s.holdToken is.ag).filter fun i => (s.flights.find? i).any fun f => f.sameHold is va with
  | some i =>
    ({ s with flights := s.flights.upd (fun (f : Flight) => { f with sw := [va, acc.code, path], mask := lanes }) i }).blockRetry
      is.ag (.hold i)
  | none =>
    let t := s.dropHold is.ag
    let f := { newFlight t is (.migrationHoldExpire t.nextId) path with
               cnt := false, sw := [va, acc.code, path], mask := lanes }
    ({ t with flights := t.flights.put t.nextId f, nextId := t.nextId + 1 }).blockRetry is.ag (.hold f.id)

/-- What accesses made at issue meet at chips that no route reaches (10 R284): POISON, or holds; neither when all are reached. -/
def State.farAll (s : State) (ag : Agent) (l : List TrOk) : Bool × List Nat :=
  let gs := (l.filter fun t => !t.isReg).filterMap fun t => s.farGate (s.unitOf ag) (s.pasidOf ag) t.key
  (gs.any (·.isNone), (gs.filterMap id).eraseDups)

/-- The leaf uses of a list of translations noted, one notice for each leaf (09 R259). -/
def State.noteAll (s : State) (ag : Agent) (l : List (AReq × TrOk)) : State :=
  (l.map fun e => ({ e.2 with key := 0 } : TrOk)).eraseDups.foldl (fun t r => t.noteUse ag r) s

/-- Where a translated access acts. -/
def TrOk.loc (t : TrOk) (part : Nat) : Loc := if t.isReg then .reg t.key part else .mem t.key t.tso t.zb

/-- A plain access of a lane. -/
def acc1 (lane va : Nat) (loc : Loc) (op : HomeOp) : Acc :=
  { lane := lane, slot := 0, va := va, loc := loc, op := op, res := 0, done := false, waitSince := 0,
    poisoned := false }

/-- The lanes already performed before a return (09 R250). -/
def State.skipOf (s : State) : Agent → LaneMask
  | .gang gid fid => ((s.frag? gid fid).map (·.skip)).getD 0
  | .ctx _ => 0

/-- The pages that accesses touch, of 4 KiB whatever the leaf: R250 does not say which size counts (log entry 30). -/
def pagesOf (l : List AReq) : List Nat := ((l.filter fun r => r.pre.isNone).map fun r => r.va / 4096).eraseDups

/-- Chunks filled lane by lane (09 R250): a lane joins the open chunk `cur` when the chunk's pages and its own are at most 64. -/
def chunkGo (l : List AReq) : List Nat → List AReq → List (List AReq)
  | [], cur => if cur.isEmpty then [] else [cur]
  | k :: rest, cur =>
    let both := cur ++ l.filter fun r => r.lane == k
    if (pagesOf both).length ≤ 64 then chunkGo l rest both
    else cur :: chunkGo l rest (l.filter fun r => r.lane == k)

/-- The accesses by chunk: at most 64 pages each, in ascending lane order, and a lane's accesses stay together (09 R250). -/
def chunkOf (l : List AReq) : List (List AReq) :=
  if (pagesOf l).length ≤ 64 then [l]
  else chunkGo l ((List.range 1024).filter fun k => l.any fun r => r.lane == k) []

/-- The chunks performed before the first that cannot be: their translations, and what stopped the next. -/
def State.runChunks (s : State) (ag : Agent) (path : Nat) (scalarMask : LaneMask) (chk : PageCheck) :
    List (List AReq) → List (AReq × TrOk) × Option AOut
  | [] => ([], none)
  | c :: rest =>
    match s.checkAll ag path scalarMask chk c with
    | .ok l =>
      let r := s.runChunks ag path scalarMask chk rest
      (l ++ r.1, r.2)
    | x => ([], some x)

/-- The chunks up to the first that cannot be performed. -/
def State.triedChunks (s : State) (ag : Agent) (path : Nat) (scalarMask : LaneMask) (chk : PageCheck) :
    List (List AReq) → List AReq
  | [] => []
  | c :: rest =>
    match s.checkAll ag path scalarMask chk c with
    | .ok _ => c ++ s.triedChunks ag path scalarMask chk rest
    | _ => c

/-- Translations made for aligned accesses that are not performed: the leaf is ACCESSED, and nothing has been written through it
(09 R258, R259). -/
def State.noteTried (s : State) (ag : Agent) (l : List AReq) : State :=
  ((l.filter fun r => r.va % r.align = 0).filterMap fun r => match r.pre, s.trAg ag r.va r.acc with
    | none, .ok t => some ({ t with key := 0, orBits := t.orBits &&& 0x80 } : TrOk)
    | _, _ => none).eraseDups.foldl (fun t r => t.noteUse ag r) s

/-- Has the agent's gang a trap already, outside its handler? A further fragment that faults stops before any effect of its
bundle (09 R253). -/
def State.secondFault (s : State) : Agent → Bool
  | .gang gid _ => (s.gang? gid).any fun g => g.trap.isSome && g.slot.isNone
  | .ctx _ => false

/-- The general form of a memory bundle: the accesses of its lanes are checked chunk by chunk; those performed make
one operation in flight built by `mk`; then the first fault is taken, or the fragment waits. `pop` takes the bundle's queue words,
which a bundle that is not performed in every lane leaves in place (09 R249). -/
def memAccess (s : State) (is : Issue) (path : Nat) (scalarMask : LaneMask) (chk : PageCheck) (reqs : List AReq)
    (mk : State → List (AReq × TrOk) → State) (pop : State → State := id) : State :=
  let skip := s.skipOf is.ag
  let todo := reqs.filter fun r => scalarMask ≠ 0 ∨ !(skip.getLsbD r.lane)
  let r := s.runChunks is.ag path scalarMask chk (chunkOf todo)
  match r.2 with
  | none => mk (pop (((s.noteAll is.ag r.1).dropHold is.ag).dropFar (s.pasidOf is.ag))) r.1
  | some out =>
    let none' : Bool := s.secondFault is.ag && (match out with | .trap _ => true | _ => false)
    let part := if none' then [] else r.1
    let done := maskOf (part.map (·.1.lane)) ||| skip
    let chunked := scalarMask = 0 && !part.isEmpty
    let s0 := s.noteTried is.ag (s.triedChunks is.ag path scalarMask chk (chunkOf todo))
    let s1 := if chunked then mk (s0.noteAll is.ag part) part else s0
    match out with
    | .trap ti => ((s1.dropRefusals ti).dropHold is.ag).takeCause is.ag .fault { ti with dmask := if scalarMask = 0 then done else 0 }
    | .ats ps =>
      let s2 := s1.waitAts is.ag ps
      match is.ag with
      | .gang gid fid => s2.updFrag gid fid fun f => { f with skip := if scalarMask = 0 then done else 0 }
      | .ctx _ => s2
    | .hold va m =>
      let acc := ((todo.find? fun q => q.va = va).map (·.acc)).getD .read
      let s2 := s1.waitHold is va path acc m
      match is.ag with
      | .gang gid fid => s2.updFrag gid fid fun f => { f with skip := if scalarMask = 0 then done else 0 }
      | .ctx _ => s2
    | .ok _ => s1

/-! ### Scratchpad -/

/-- The workgroup of an agent, with the declared scratchpad bytes. -/
def State.scrOf (s : State) : Agent → Option (Nat × Nat)
  | .gang gid _ => (s.gang? gid).map fun g => (g.wid, (s.khOf g).scratch)
  | .ctx _ => none

/-- The alignment of scratchpad accesses, whose bounds the decode stage has tested (05 R125): MISALIGN in the misaligned lanes; none
when all pass. -/
def scrCheck (path : Nat) (accCode : Nat) (l : List (Nat × Int × Nat)) : Option TrapInfo :=
  let mis := l.filter fun e => decide (e.2.1 % (e.2.2 : Int) ≠ 0)
  if mis.isEmpty then none
  else some (trapOfLanes (mis.map fun e => { lane := e.1, cause := cMISALIGN, va := 0, acc := accCode, reason := 0 }) path 0)

end Sys2Proof.Machine
end

