-- ==== Sys2Proof/Machine/Integer.lean ====
section
/-!
DEFINITION. The integer arithmetic family: IADD to IDIV (13 R380-R382, R392; 14 R414; 15 R450).
-/
namespace Sys2Proof.Machine

/-- What a bundle's meaning answers. -/
abbrev Out := Host.Outcome State Fault Refusal

/-- The width in bits of a type code (13 R380). -/
def tyW (t : Nat) : Nat := 32 * typeWords t

/-- Is a type code signed: S32, S64? -/
def tySigned (t : Nat) : Bool := t % 2 == 0

/-- An operand in its type's interpretation (13 R380). -/
def tyVal (t w x : Nat) : Int := if tySigned t then sextNat x w else ((x % 2 ^ w : Nat) : Int)

/-- An exact result wrapped, or clamped under SAT with its flag (04 R98, 13 R380). -/
def intResult (t w : Nat) (sat : Bool) (r : Int) : Nat × Nat :=
  if sat then
    let c := clampInt (tySigned t) w r
    (wrapInt c.1 w, if c.2 then fSAT else 0)
  else (wrapInt r w, 0)

/-- SAT of an operation word's AUX. -/
def satBit (o : Opw) : Bool := o.aux.getLsbD 3

/-- The rounding mode of an operation word's AUX. -/
def rndOf (o : Opw) : Nat := o.aux.toNat / 16

/-- IADD (13 Table 13.2). -/
def execIadd (o : Opw) (s : State) : Out :=
  let t := o.sub.toNat
  aluOp (.iadd o) o .raw (typeWords t)
    (fun a b _ => intResult t (tyW t) (satBit o) (tyVal t (tyW t) a + tyVal t (tyW t) b)) s

/-- ISUB (13 Table 13.2). -/
def execIsub (o : Opw) (s : State) : Out :=
  let t := o.sub.toNat
  aluOp (.isub o) o .raw (typeWords t)
    (fun a b _ => intResult t (tyW t) (satBit o) (tyVal t (tyW t) a - tyVal t (tyW t) b)) s

/-- Is SUB one of the wide forms WS32 and WZ32 (13 R380)? -/
def isWide (t : Nat) : Bool := t == 4 || t == 5

/-- Words of the result of IMUL and IMAD. -/
def mulWords (t : Nat) : Nat := if isWide t then 2 else typeWords t

/-- Width of the factors of IMUL and IMAD. -/
def mulW (t : Nat) : Nat := if isWide t then 32 else tyW t

/-- IMUL (13 Table 13.2). -/
def execImul (o : Opw) (s : State) : Out :=
  let t := o.sub.toNat
  aluOp (.imul o) o .raw (mulWords t)
    (fun a b _ => intResult t (32 * mulWords t) (satBit o) (tyVal t (mulW t) a * tyVal t (mulW t) b)) s

/-- IMULH: the product's high half, rounded down (13 Table 13.2). -/
def execImulh (o : Opw) (s : State) : Out :=
  let t := o.sub.toNat
  aluOp (.imulh o) o .raw (typeWords t)
    (fun a b _ => (wrapInt ((tyVal t (tyW t) a * tyVal t (tyW t) b) / ((2 ^ tyW t : Nat) : Int)) (tyW t), 0)) s

/-- IMAD (13 Table 13.2). -/
def execImad (o : Opw) (s : State) : Out :=
  let t := o.sub.toNat
  aluOp (.imad o) o .raw (mulWords t)
    (fun a b c => intResult t (32 * mulWords t) (satBit o)
      (tyVal t (mulW t) a * tyVal t (mulW t) b + tyVal t (32 * mulWords t) c)) s

/-- IMIN (13 Table 13.2). -/
def execImin (o : Opw) (s : State) : Out :=
  let t := o.sub.toNat
  aluOp (.imin o) o .raw (typeWords t)
    (fun a b _ => ((if tyVal t (tyW t) a ≤ tyVal t (tyW t) b then a else b), 0)) s

/-- IMAX (13 Table 13.2). -/
def execImax (o : Opw) (s : State) : Out :=
  let t := o.sub.toNat
  aluOp (.imax o) o .raw (typeWords t)
    (fun a b _ => ((if tyVal t (tyW t) b ≤ tyVal t (tyW t) a then a else b), 0)) s

/-- IABS (13 R380). -/
def execIabs (o : Opw) (s : State) : Out :=
  let t := o.sub.toNat
  aluOp (.iabs o) o .raw (typeWords t)
    (fun a _ _ => intResult t (tyW t) (satBit o) (sextNat a (tyW t)).natAbs) s

/-- LEA (13 R392). -/
def execLea (o : Opw) (s : State) : Out :=
  let k := o.sub.toNat
  let w := if k = 0 then 32 else 64
  aluOp (.lea o) o .raw (w / 32)
    (fun a b c =>
      let bv : Int := if k = 2 then sextNat b 32 else (b : Int)
      (wrapInt ((a : Int) + bv * ((2 ^ (c % w) : Nat) : Int)) w, 0)) s

/-- The truth of an integer condition (13 R381). -/
def icond (c : Nat) (a b : Int) : Bool :=
  match c with
  | 0 => decide (a = b)
  | 1 => decide (a ≠ b)
  | 2 => decide (a < b)
  | 3 => decide (a ≤ b)
  | 4 => decide (a > b)
  | _ => decide (a ≥ b)

/-- ICMP (13 R381). -/
def execIcmp (o : Opw) (s : State) : Out :=
  let t := o.sub.toNat / 8
  cmpOp (.icmp o) o .raw
    (fun a b => (icond (o.sub.toNat % 8) (tyVal t (tyW t) a) (tyVal t (tyW t) b), 0)) s

/-- The effect of SEL: SRCA where the predicate is true, else SRCB (15 R450). -/
def selEffect (o : Opw) (s : State) (is : Issue) : State :=
  let sh := shape false (.sel o)
  let pp := takePops s is sh o
  writeAll pp.2 is sh.lat (dstWrites o (if o.sub = 0 then 1 else 2) ((effLanes s is sh o).map fun l =>
    (l, if predVal s is o.c 3 l then srcVal s is o sh.a o.a .raw 1 pp.1.1 l
        else srcVal s is o sh.b o.b .raw 2 pp.1.2.1 l)))

/-- SEL (15 R450). -/
def execSel (o : Opw) (s : State) : Out := issueOp (.sel o) o s noBad noRd noMore (selEffect o s)

/-- The effect of MOV to and from a loop counter (14 R414). -/
def movLcEffect (o : Opw) (s : State) (is : Issue) : State :=
  let sh := shape false (.mov o)
  let gm := guardMask s is o
  if o.sub = 2 then
    if gm = 0 then s else
    writeAll s is sh.lat [.lc (o.dst.toNat % 4) (BitVec.ofNat 32 (srcVal s is o sh.a o.a .raw 1 [] 0))]
  else
    let n := o.a.toNat % 4
    let x := hazVal s is.cyc (s.hazOf is.ag) (.lc n) 0 1 (s.rdLc is.ag n).toNat
    writeAll s is sh.lat (dstWrites o 1 ((effLanes s is sh o).map fun l => (l, x)))

/-- MOV (14 R414). -/
def execMov (o : Opw) (s : State) : Out :=
  if o.sub = 2 ∨ o.sub = 3 then issueOp (.mov o) o s noBad noRd noMore (movLcEffect o s)
  else aluOp (.mov o) o .raw (if o.sub = 0 then 1 else 2) (fun a _ _ => (a, 0)) s

/-- Quotient or remainder of IDIV for a non-zero divisor (13 R382). -/
def idivResult (k : Nat) (sat : Bool) (a b : Nat) : Nat × Nat :=
  let t := k % 4
  let w := tyW t
  let x := tyVal t w a
  let y := tyVal t w b
  if k < 4 then
    let q := x.tdiv y
    if tySigned t && decide (q > (intRange true w).2) then
      if sat then (wrapInt (intRange true w).2 w, fSAT) else (wrapInt q w, 0)
    else (wrapInt q w, 0)
  else (wrapInt (x.tmod y) w, 0)

/-- The effect of IDIV: a zero divisor in an active lane raises IDIVZ with no lane written (13 R382). -/
def idivEffect (o : Opw) (s : State) (is : Issue) : State :=
  let k := o.sub.toNat
  let n := typeWords k
  let sh := shape false (.idiv o)
  let pp := takePops s is sh o
  let zeros := (effLanes s is sh o).filter fun l => srcVal s is o sh.b o.b .raw 2 pp.1.2.1 l = 0
  if zeros.isEmpty then aluEffect (.idiv o) o .raw n (fun a b _ => idivResult k (satBit o) a b) s is
  else s.takeCause is.ag .fault
    { causes := cIDIVZ, faddr := 0, fsub := Config.freeNat s.fresh 1 % 2 ^ 11,
      fmask := if sh.scalarDst o then guardMask s is o else maskOf zeros }

/-- IDIV (13 R382). -/
def execIdiv (o : Opw) (s : State) : Out := issueOp (.idiv o) o s noBad noRd noMore (idivEffect o s)

end Sys2Proof.Machine
end

