-- ==== Sys2Proof/Machine/Float.lean ====
section
/-!
DEFINITION. The floating-point family: FADD to VDOT, the special functions, and the FP64 operations (12 R353-R356;
13 R365-R369, R372, R373, R378; 15 R471).
-/
namespace Sys2Proof.Machine

/-- The rounded sum of two patterns, with its flags. -/
def fpAdd (f : FFmt) (mode a b : Nat) : Nat × Nat := f.finish mode ((f.decode a).add mode (f.decode b))

/-- The rounded product of two patterns, with its flags. -/
def fpMul (f : FFmt) (mode a b : Nat) : Nat × Nat := f.finish mode ((f.decode a).mul (f.decode b))

/-- The fused product and sum of patterns, with its flags (04 R120). -/
def fpFma (f : FFmt) (mode a b c : Nat) : Nat × Nat :=
  f.finish mode ((f.decode a).fma mode (f.decode b) (f.decode c))

/-- FADD (13 R365). -/
def execFadd (o : Opw) (s : State) : Out := aluOp (.fadd o) o .raw 1 (fun a b _ => fpAdd fp32 (rndOf o) a b) s

/-- FMUL (13 R365). -/
def execFmul (o : Opw) (s : State) : Out := aluOp (.fmul o) o .raw 1 (fun a b _ => fpMul fp32 (rndOf o) a b) s

/-- FMAC (13 R365). -/
def execFmac (o : Opw) (s : State) : Out := aluOp (.fmac o) o .raw 1 (fun a b c => fpFma fp32 (rndOf o) a b c) s

/-- FMIN (13 R372). -/
def execFmin (o : Opw) (s : State) : Out := aluOp (.fmin o) o .raw 1 (fun a b _ => fpMinMax fp32 false a b) s

/-- FMAX (13 R372). -/
def execFmax (o : Opw) (s : State) : Out := aluOp (.fmax o) o .raw 1 (fun a b _ => fpMinMax fp32 true a b) s

/-- FCMP (13 R367). -/
def execFcmp (o : Opw) (s : State) : Out :=
  cmpOp (.fcmp o) o .raw (fun a b => fpCompare o.sub.toNat (fp32.decode a) (fp32.decode b)) s

/-- The class bit of an FP32 pattern (13 R366). -/
def fclassBit (x : Nat) : Nat :=
  match fp32.decode x with
  | .nan sig _ => if sig then 0 else 1
  | .inf neg => if neg then 2 else 9
  | .fin neg n _ =>
    let sub := x / 2 ^ 23 % 256 = 0
    if n = 0 then (if neg then 5 else 6)
    else if sub then (if neg then 4 else 7)
    else if neg then 3 else 8

/-- FCLASS (13 R366). -/
def execFclass (o : Opw) (s : State) : Out := cmpOp (.fclass o) o .raw (fun a b => (b.testBit (fclassBit a), 0)) s

/-- An FP32 pattern rounded to an integral value (13 R373). -/
def frndBits (mode x : Nat) : Nat × Nat :=
  match fp32.decode x with
  | .nan sig _ => (fp32.cnan, if sig then fNV else 0)
  | .inf _ => (x, 0)
  | .fin neg n d =>
    let r := roundUnits mode neg n d 0
    ((fp32.convert 0 false (.fin neg r.1 1)).1, if r.2 then 0 else fNX)

/-- FRND (13 R373). -/
def execFrnd (o : Opw) (s : State) : Out := aluOp (.frnd o) o .raw 1 (fun a _ _ => frndBits (rndOf o) a) s

/-- The floating-point format of a CVT code (12 Table 12.6). -/
def cvtFmt (code : Nat) : FFmt :=
  match code with
  | 0 => fp32
  | 1 => fp19
  | 2 => bf16
  | 3 => fp16
  | 4 => e5m2
  | 5 => e4m3
  | 6 => e3m2
  | 7 => e2m3
  | 8 => e2m1
  | _ => fp64

/-- Bits and signedness of a CVT integer code (12 Table 12.6). -/
def cvtIntFmt (code : Nat) : Nat × Bool :=
  match code with
  | 9 => (8, true)
  | 10 => (8, false)
  | 11 => (4, true)
  | 12 => (4, false)
  | 13 => (16, true)
  | 14 => (16, false)
  | 15 => (32, true)
  | 16 => (32, false)
  | 17 => (64, true)
  | _ => (64, false)

/-- The integer a CVT source register holds. -/
def cvtSrcInt (code x : Nat) : Int :=
  let f := cvtIntFmt code
  if f.2 then sextNat x f.1 else ((x % 2 ^ f.1 : Nat) : Int)

/-- The exact value of a CVT source (12 R354). -/
def cvtSrc (code x : Nat) : RVal :=
  if cvtInt code then ofInt false (cvtSrcInt code x) 1
  else if code = 20 then scaleVal 1 (x % 256)
  else if code = 1 then fp19.decode (x / 2 ^ 13)
  else (cvtFmt code).decode (x % 2 ^ (cvtFmt code).width)

/-- Conversion to E8M0 (12 R354). -/
def toE8m0 (satb : Bool) (v : RVal) : Nat × Nat :=
  match v with
  | .nan _ _ => (0xFF, fNV)
  | .inf neg => (if satb then (if neg then 0x00 else 0xFE) else 0xFF, fNV)
  | .fin neg n d =>
    if neg || n = 0 then (if satb then 0x00 else 0xFF, fNV)
    else
      let k := log2Q n d
      let p := scale2 1 k
      let up := decide (2 * n * p.2 ≥ 3 * p.1 * d)
      let q := if up then k + 1 else k
      let exact := decide (n * p.2 = p.1 * d)
      if q < -127 then (0x00, fUF ||| fNX)
      else if q > 127 then (if satb then 0xFE else 0xFF, fOF ||| fNX)
      else ((q + 127).toNat, if exact then 0 else fNX)

/-- The result of CVT as it is placed in DST (12 R354). -/
def cvtBits (dst src mode : Nat) (satb : Bool) (x : Nat) : Nat × Nat :=
  if cvtInt dst then
    let f := cvtIntFmt dst
    let r : Nat × Nat :=
      if cvtInt src then
        let v := cvtSrcInt src x
        if satb then let c := clampInt f.2 f.1 v; (wrapInt c.1 f.1, if c.2 then fSAT else 0)
        else (wrapInt v f.1, 0)
      else toIntFmt f.2 f.1 mode satb (cvtSrc src x)
    (if f.2 && decide (f.1 < 32) then wrapInt (sextNat r.1 f.1) 32 else r.1, r.2)
  else if dst = 20 then toE8m0 satb (cvtSrc src x)
  else
    let r := (cvtFmt dst).convert mode satb (cvtSrc src x)
    (if dst = 1 then r.1 * 2 ^ 13 else r.1, r.2)

/-- CVT (12 R353, R354). -/
def execCvt (o : Opw) (s : State) : Out :=
  let d := o.sub.toNat
  let sc := o.b.toNat
  aluOp (.cvt o) o (if sc = 19 then .f64 else .raw) (if cvtWide d then 2 else 1)
    (fun a _ _ => cvtBits d sc (rndOf o) (satBit o) a) s

/-- The half format of a packed operation. -/
def halfFmt (o : Opw) : FFmt := if o.sub = 0 then fp16 else bf16

/-- A function of halves applied to both halves, flags ORed (13 R378). -/
def halves (f : Nat → Nat → Nat → Nat × Nat) (a b c : Nat) : Nat × Nat :=
  let lo := f (a % 65536) (b % 65536) (c % 65536)
  let hi := f (a / 65536) (b / 65536) (c / 65536)
  (lo.1 + 65536 * hi.1, lo.2 ||| hi.2)

/-- HADD2 (13 R378). -/
def execHadd2 (o : Opw) (s : State) : Out :=
  aluOp (.hadd2 o) o (.half (o.sub != 0)) 1 (halves fun a b _ => fpAdd (halfFmt o) (rndOf o) a b) s

/-- HMUL2 (13 R378). -/
def execHmul2 (o : Opw) (s : State) : Out :=
  aluOp (.hmul2 o) o (.half (o.sub != 0)) 1 (halves fun a b _ => fpMul (halfFmt o) (rndOf o) a b) s

/-- HMAC2 (13 R378). -/
def execHmac2 (o : Opw) (s : State) : Out :=
  aluOp (.hmac2 o) o (.half (o.sub != 0)) 1 (halves fun a b c => fpFma (halfFmt o) (rndOf o) a b c) s

/-- Elements, their bits and the decoders of a VDOT form (15 Table 15.4). -/
def vdotFmt (k : Nat) : Nat × Nat × FFmt :=
  match k with
  | 0 => (2, 16, fp16)
  | 1 => (2, 16, bf16)
  | 2 => (4, 8, e4m3)
  | _ => (4, 8, e5m2)

/-- The result of VDOT (15 R471, 04 R120). -/
def vdotBits (k mode : Nat) (satb : Bool) (a b c : Nat) : Nat × Nat :=
  if k < 4 then
    let f := vdotFmt k
    let el := fun (x i : Nat) => f.2.2.decode (x / 2 ^ (f.2.1 * i) % 2 ^ f.2.1)
    let ops := (List.range f.1).map fun i => (el a i, el b i)
    let prods := ops.map fun p => p.1.mul p.2
    let terms := prods.map (·.1) ++ [fp32.decode c]
    let allNeg := terms.all fun v => v.neg
    let allPos := terms.all fun v => !v.neg
    let sum := sumX (if allNeg then true else if allPos then false else mode == 3) terms
    let fl := prods.foldl (fun x p => x ||| p.2) (sum.2 ||| sigFlags [fp32.decode c])
    fp32.finish mode (sum.1, fl)
  else
    let sa := k == 4 || k == 6
    let sb := k == 4
    let el := fun (sg : Bool) (x i : Nat) =>
      let y := x / 2 ^ (8 * i) % 256
      if sg then sextNat y 8 else (y : Int)
    let t := if k = 5 then 1 else 0
    let sum := (List.range 4).foldl (fun (acc : Int) i => acc + el sa a i * el sb b i) (tyVal t 32 c)
    intResult t 32 satb sum

/-- The constants of VDOT's elements (11 R307): a packed pair of halves in its first two forms. -/
def vdotWiden (o : Opw) : Widen := if o.sub = 0 then .dot false else if o.sub = 1 then .dot true else .raw

/-- VDOT (15 R471). -/
def execVdot (o : Opw) (s : State) : Out :=
  aluOp (.vdot o) o (vdotWiden o) 1 (fun a b c => vdotBits o.sub.toNat (rndOf o) (satBit o) a b c) s

/-- FRCP (13 Table 13.1). -/
def execFrcp (o : Opw) (s : State) : Out :=
  aluOp (.frcp o) o .raw 1 (fun a _ _ => fp32.finish (rndOf o) ((RVal.fin false 1 1).div (fp32.decode a))) s

/-- FRSQ (13 Table 13.1). -/
def execFrsq (o : Opw) (s : State) : Out := aluOp (.frsq o) o .raw 1 (fun a _ _ => frsq a) s

/-- FSQRT (13 Table 13.1). -/
def execFsqrt (o : Opw) (s : State) : Out :=
  aluOp (.fsqrt o) o .raw 1 (fun a _ _ => fp32.finish (rndOf o) (fp32.decode a).sqrt) s

/-- FEX2 (13 Table 13.1). -/
def execFex2 (o : Opw) (s : State) : Out := aluOp (.fex2 o) o .raw 1 (fun a _ _ => fex2 a) s

/-- FLG2 (13 Table 13.1). -/
def execFlg2 (o : Opw) (s : State) : Out := aluOp (.flg2 o) o .raw 1 (fun a _ _ => flg2 a) s

/-- FSIN (13 Table 13.1). -/
def execFsin (o : Opw) (s : State) : Out := aluOp (.fsin o) o .raw 1 (fun a _ _ => fsincos false a) s

/-- FCOS (13 Table 13.1). -/
def execFcos (o : Opw) (s : State) : Out := aluOp (.fcos o) o .raw 1 (fun a _ _ => fsincos true a) s

/-- FDIV (13 Table 13.1). -/
def execFdiv (o : Opw) (s : State) : Out :=
  aluOp (.fdiv o) o .raw 1 (fun a b _ => fp32.finish (rndOf o) ((fp32.decode a).div (fp32.decode b))) s

/-- DADD (12 R355). -/
def execDadd (o : Opw) (s : State) : Out := aluOp (.dadd o) o .f64 2 (fun a b _ => fpAdd fp64 (rndOf o) a b) s

/-- DMUL (12 R355). -/
def execDmul (o : Opw) (s : State) : Out := aluOp (.dmul o) o .f64 2 (fun a b _ => fpMul fp64 (rndOf o) a b) s

/-- DMAC (12 R355). -/
def execDmac (o : Opw) (s : State) : Out := aluOp (.dmac o) o .f64 2 (fun a b c => fpFma fp64 (rndOf o) a b c) s

/-- DCMP (12 R356). -/
def execDcmp (o : Opw) (s : State) : Out :=
  cmpOp (.dcmp o) o .f64 (fun a b => fpCompare o.sub.toNat (fp64.decode a) (fp64.decode b)) s

end Sys2Proof.Machine
end

