-- ==== Sys2Proof/Machine/CrossLane.lean ====
section
/-!
DEFINITION. The predicate and cross-lane family: PLOP to MATCH (14 R400, R401, R424, R425, R435, R436; 15 R448-R452,
R472), and the reductions that CORED shares.
-/
namespace Sys2Proof.Machine

/-- PLOP's effect (14 R424). -/
def plopEffect (o : Opw) (s : State) (is : Issue) : State :=
  let sh := shape false (.plop o)
  let b := fun (x : Bool) => if x then 1 else 0
  writeAll s is sh.lat (predWrites o.dst ((effLanes s is sh o).map fun l =>
    (l, (o.imm.toNat % 256).testBit
      (b (predVal s is o.a 1 l) + 2 * b (predVal s is o.b 2 l) + 4 * b (predVal s is o.c 3 l)))))

/-- PLOP (14 R424). -/
def execPlop (o : Opw) (s : State) : Out := issueOp (.plop o) o s noBad noRd noMore (plopEffect o s)

/-- The predicates of a PACK in a lane (14 Table 14.6). -/
def packBits (s : State) (is : Issue) (kf : Bool) (m lane : Nat) : Nat :=
  (List.range (if kf then 4 else 8)).foldl (fun acc n =>
    if m.testBit n ∧ predVal s is (BitVec.ofNat 10 (n + if kf then 8 else 0)) (n + 1) lane then acc + 2 ^ n else acc) 0

/-- PMOV's effect (14 R425). -/
def pmovEffect (o : Opw) (s : State) (is : Issue) : State :=
  let sh := shape false (.pmov o)
  let kf := o.imm.getLsbD 8
  let m := o.imm.toNat % 256
  let gm := guardMask s is o
  match o.sub.toNat with
  | 0 =>
    let pp := takePops s is sh o
    writeAll pp.2 is sh.lat (predWrites o.dst ((effLanes s is sh o).map fun l =>
      (l, decide (srcVal s is o sh.a o.a .raw 1 pp.1.1 l ≠ 0))))
  | 1 =>
    writeAll s is sh.lat (dstWrites o 1 ((effLanes s is sh o).map fun l =>
      (l, if predVal s is o.a 1 l then 1 else 0)))
  | 2 =>
    writeAll s is sh.lat (dstWrites o 1 ((effLanes s is sh o).map fun l => (l, packBits s is kf m l)))
  | _ =>
    let pp := takePops s is sh o
    let lanes := if kf then (if gm ≠ 0 then [0] else []) else s.lanesAg is.ag gm
    writeAll pp.2 is sh.lat (((List.range (if kf then 4 else 8)).filter fun n => m.testBit n).flatMap fun n =>
      predWrites (BitVec.ofNat 10 (n + if kf then 8 else 0)) (lanes.map fun l =>
        (l, (srcVal s is o sh.a o.a .raw 1 pp.1.1 l).testBit n)))

/-- PMOV (14 R425). The P registers that PACK reads are reads for the checks of 11 R312. -/
def execPmov (o : Opw) (s : State) : Out :=
  let names := ((List.range 8).filter fun n => o.imm.getLsbD n).map fun n => if o.imm.getLsbD 8 then RegId.k n else .p n
  issueOp (.pmov o) o s noBad (fun _ => if o.sub = 2 then names else []) noMore (pmovEffect o s)

/-- The active lanes of the issuing fragment in rank order. -/
def activeLanes (s : State) (is : Issue) : List Nat := s.lanesAg is.ag is.mask

/-- VOTE's effect (15 R472). -/
def voteEffect (o : Opw) (s : State) (is : Issue) : State :=
  let sh := shape false (.vote o)
  let act := activeLanes s is
  let set := act.filter fun l => predVal s is o.a 1 l
  let out := effLanes s is sh o
  match o.sub.toNat with
  | 0 => writeAll s is sh.lat (predWrites o.dst (out.map fun l => (l, !set.isEmpty)))
  | 1 => writeAll s is sh.lat (predWrites o.dst (out.map fun l => (l, set.length == act.length)))
  | 2 =>
    let w := uniVal s is o sh.b o.b 2
    let x := (List.range 32).foldl (fun acc i =>
      match act[32 * w + i]? with
      | some l => if set.contains l then acc + 2 ^ i else acc
      | none => acc) 0
    writeAll s is sh.lat (dstWrites o 1 (out.map fun l => (l, x)))
  | _ => writeAll s is sh.lat (dstWrites o 1 (out.map fun l => (l, set.length)))

/-- VOTE (15 R472). -/
def execVote (o : Opw) (s : State) : Out := issueOp (.vote o) o s noBad noRd noMore (voteEffect o s)

/-- Is a segment width one that SHFL allows (15 R451)? -/
def segOk (c : Nat) : Bool := (List.range 11).any fun i => c == 2 ^ i

/-- The source rank of a lane of rank `k`, if valid (15 R452). -/
def shflRank (mode c n k b : Nat) : Option Nat :=
  let st := c * (k / c)
  match mode with
  | 0 => let q := st + b % c; if q < n then some q else none
  | 1 => if b ≤ k ∧ st ≤ k - b then some (k - b) else none
  | 2 => let q := k + b; if q < st + c ∧ q < n then some q else none
  | _ => let q := k ^^^ (b % c); if q < n then some q else none

/-- SHFL's effect (15 R452). -/
def shflEffect (o : Opw) (s : State) (is : Issue) : State :=
  let sh := shape false (.shfl o)
  let pp := takePops s is sh o
  let c := uniVal s is o sh.c o.c 3
  let act := activeLanes s is
  let n := act.length
  let val := fun l => srcVal s is o sh.a o.a .raw 1 pp.1.1 l
  let res := (s.lanesAg is.ag (guardMask s is o)).map fun l =>
    let k := rankOf is.mask l
    let b := srcVal s is o sh.b o.b .raw 2 pp.1.2.1 l
    (l, match (shflRank (o.sub.toNat % 4) c n k b).bind (fun q => act[q]?) with
        | some l' => val l'
        | none => val l)
  writeAll pp.2 is sh.lat (dstWrites o (if o.sub.getLsbD 2 then 2 else 1) res)

/-- SHFL (15 R451, R452). -/
def execShfl (o : Opw) (s : State) : Out :=
  issueOp (.shfl o) o s
    (fun is => !segOk (uniVal s is o (shape false (.shfl o)).c o.c 3)) noRd noMore (shflEffect o s)

/-! ### Reductions -/

/-- Width of a reduction type: 0 S32, 1 Z32, 2 F32, 3 S64, 4 Z64, 5 F64 (14 R435). -/
def redW (t : Nat) : Nat := if t < 3 then 32 else 64

/-- The floating-point format of types 2 and 5. -/
def redFmt (t : Nat) : FFmt := if t = 2 then fp32 else fp64

/-- Is the type floating-point? -/
def redFp (t : Nat) : Bool := t == 2 || t == 5

/-- A value of the type for an order. -/
def redInt (t x : Nat) : Int := if t = 0 ∨ t = 3 then sextNat x (redW t) else (x : Int)

/-- The combination of two values: 0 ADD, 1 MIN, 2 MAX, 3 AND, 4 OR, 5 XOR (14 R435, R436). -/
def redOp (op t mode x y : Nat) : Nat × Nat :=
  match op with
  | 0 => if redFp t then fpAdd (redFmt t) mode x y else ((x + y) % 2 ^ redW t, 0)
  | 1 => if redFp t then fpMinMax (redFmt t) false x y else (if redInt t x ≤ redInt t y then x else y, 0)
  | 2 => if redFp t then fpMinMax (redFmt t) true x y else (if redInt t y ≤ redInt t x then x else y, 0)
  | 3 => (x &&& y, 0)
  | 4 => (x ||| y, 0)
  | _ => (x ^^^ y, 0)

/-- A lone floating-point operand: a NaN becomes canonical and a signalling one flags (04 R96, R111). -/
def redOne (t x : Nat) : Nat × Nat :=
  if redFp t then
    match (redFmt t).decode x with
    | .nan sig _ => ((redFmt t).cnan, if sig then fNV else 0)
    | _ => (x, 0)
  else (x, 0)

/-- One level of the tree of 04 R121: pairs combined, an odd last value kept. -/
def redPairs (op t mode : Nat) : List Nat → List Nat × Nat
  | x :: y :: rest =>
    let r := redOp op t mode x y
    let q := redPairs op t mode rest
    (r.1 :: q.1, r.2 ||| q.2)
  | l => (l, 0)

/-- The tree, at most `fuel` levels. -/
def redTree (op t mode : Nat) : Nat → List Nat → Nat × Nat
  | 0, l => (l.headD 0, 0)
  | fuel + 1, l =>
    match l with
    | [] => (0, 0)
    | [x] => (x, 0)
    | _ =>
      let q := redPairs op t mode l
      let r := redTree op t mode fuel q.1
      (r.1, q.2 ||| r.2)

/-- The reduction of a list of values (14 R436, 04 R121). -/
def redAll (op t mode : Nat) (l : List Nat) : Nat × Nat :=
  match l with
  | [x] => redOne t x
  | _ => redTree op t mode 11 l

/-- The identity of an operation and type (15 R449); floating-point ADD's exclusive rank 0 is +0. -/
def redIdentity (op t : Nat) : Nat :=
  let w := redW t
  match op with
  | 1 => if redFp t then (redFmt t).infBits false else if t = 0 ∨ t = 3 then 2 ^ (w - 1) - 1 else 2 ^ w - 1
  | 2 => if redFp t then (redFmt t).infBits true else if t = 0 ∨ t = 3 then 2 ^ (w - 1) else 0
  | 3 => 2 ^ w - 1
  | _ => 0

/-- The inclusive results after a value, and the flags (15 R449, 04 R122). -/
def scanFrom (op t mode : Nat) : Nat → List Nat → List Nat × Nat
  | _, [] => ([], 0)
  | acc, x :: rest =>
    let r := redOp op t mode acc x
    let q := scanFrom op t mode r.1 rest
    (r.1 :: q.1, r.2 ||| q.2)

/-- The inclusive scan. -/
def scanAll (op t mode : Nat) : List Nat → List Nat × Nat
  | [] => ([], 0)
  | x :: rest =>
    let r := redOne t x
    let q := scanFrom op t mode r.1 rest
    (r.1 :: q.1, r.2 ||| q.2)

/-- How a constant widens for a reduction type. -/
def redWiden (t : Nat) : Widen := if t = 5 then .f64 else .raw

/-- REDF's effect (14 R435, R436). -/
def redfEffect (o : Opw) (s : State) (is : Issue) : State :=
  let sh := shape false (.redf o)
  let op := o.sub.toNat / 8
  let t := o.sub.toNat % 8
  let gm := guardMask s is o
  let pp := takePops s is sh o
  let r := redAll op t (rndOf o) ((activeLanes s is).map fun l => srcVal s is o sh.a o.a (redWiden t) 1 pp.1.1 l)
  if gm = 0 then pp.2 else
  flagged s pp.2 is r.2 gm fun s1 =>
    writeAll s1 is sh.lat (dstWrites o (redW t / 32) ((effLanes s is sh o).map fun l => (l, r.1)))

/-- REDF (14 R435, R436). -/
def execRedf (o : Opw) (s : State) : Out := issueOp (.redf o) o s noBad noRd noMore (redfEffect o s)

/-- SCANF's effect (15 R448, R449). -/
def scanfEffect (o : Opw) (s : State) (is : Issue) : State :=
  let sh := shape false (.scanf o)
  let op := o.sub.toNat / 8
  let t := o.sub.toNat % 8
  let gm := guardMask s is o
  let pp := takePops s is sh o
  let r := scanAll op t (rndOf o) ((activeLanes s is).map fun l => srcVal s is o sh.a o.a (redWiden t) 1 pp.1.1 l)
  let at_ := fun (l : Nat) =>
    let k := rankOf is.mask l
    if o.imm.getLsbD 0 then (if k = 0 then redIdentity op t else r.1.getD (k - 1) 0) else r.1.getD k 0
  let total := r.1.getLastD 0
  if gm = 0 then pp.2 else
  flagged s pp.2 is r.2 gm fun s1 =>
    writeAll s1 is sh.lat (dstWrites o (redW t / 32) ((effLanes s is sh o).map fun l =>
      (l, if sh.scalarDst o then total else at_ l)))

/-- SCANF (15 R448, R449). -/
def execScanf (o : Opw) (s : State) : Out := issueOp (.scanf o) o s noBad noRd noMore (scanfEffect o s)

/-- MATCH's effect (14 R401). -/
def matchEffect (o : Opw) (s : State) (is : Issue) : State :=
  let sh := shape false (.matchV o)
  let kind := o.sub.toNat / 2
  let pp := takePops s is sh o
  let act := activeLanes s is
  let vals := act.map fun l => (rankOf is.mask l, srcVal s is o sh.a o.a .raw 1 pp.1.1 l)
  let out := effLanes s is sh o
  let same := fun (l : Nat) =>
    let v := srcVal s is o sh.a o.a .raw 1 pp.1.1 l
    vals.filter fun p => p.2 == v
  if kind = 2 then
    let all := match vals with
      | [] => true
      | p :: rest => rest.all fun q => q.2 == p.2
    writeAll pp.2 is sh.lat (predWrites o.dst (out.map fun l => (l, all)))
  else
    writeAll pp.2 is sh.lat (dstWrites o 1 (out.map fun l =>
      (l, if kind = 0 then ((same l).head?.map (·.1)).getD 0 else (same l).length)))

/-- MATCH (14 R400, R401). -/
def execMatchV (o : Opw) (s : State) : Out := issueOp (.matchV o) o s noBad noRd noMore (matchEffect o s)

end Sys2Proof.Machine
end

