-- ==== Sys2Proof/Machine/Zb.lean ====
section
/-!
DEFINITION. ZB blocks (05 R155-R161): the expanded bytes of a block, and how the home stores a block it writes.
-/
namespace Sys2Proof.Machine

/-- A canonical code: symbol, code, length. -/
structure ZbCode where
  sym : Nat
  code : Nat
  len : Nat
deriving DecidableEq, Repr

/-- The codes of one length, from a code value on; the symbols left and the next code value. -/
def zbLevel (len : Nat) : Nat → Nat → List Nat → List ZbCode × Nat × List Nat
  | 0, code, syms => ([], code, syms)
  | n + 1, code, syms =>
    let r := zbLevel len n (code + 1) syms.tail
    ({ sym := syms.headD 0, code := code, len := len } :: r.1, r.2)

/-- The codes of all lengths from `len` on (05 R157). -/
def zbCodesFrom : Nat → Nat → List Nat → Nat → List Nat → List ZbCode
  | 0, _, _, _, _ => []
  | fuel + 1, len, counts, code, syms =>
    let r := zbLevel len (counts.headD 0) code syms
    r.1 ++ zbCodesFrom fuel (len + 1) counts.tail (2 * r.2.1) r.2.2

/-- The codes of a tensor header's bytes, if it is valid (05 R157). -/
def zbTable (b : List Byte) : Option (List ZbCode) :=
  let w := fun (i : Nat) => (b.getD i 0).toNat + 256 * (b.getD (i + 1) 0).toNat
  let counts := (List.range 12).map fun i => w (2 * i)
  let nsym := w 24
  let syms := (List.range nsym).map fun i => (b.getD (32 + i) 0).toNat
  let sum : Nat := counts.foldl (fun a c => a + c) 0
  let kraft : Nat := counts.zipIdx.foldl (fun a e => a + e.1 * 2 ^ (11 - e.2)) 0
  if sum = nsym ∧ 1 ≤ nsym ∧ nsym ≤ 255 ∧ syms.all (fun x => x != 0) ∧ syms.eraseDups.length = nsym ∧ kraft ≤ 4096 then
    some (zbCodesFrom 12 1 counts 0 syms)
  else none

/-- The tensor header at a key, if it is valid. -/
def State.zbTableAt (s : State) (key : Nat) : Option (List ZbCode) := zbTable (s.peekBytes key 287)

/-- A tensor header as the writes of a home operation name it: 0 for none, else its key plus 1. -/
def tableOf (key : Nat) : Nat := key + 1

/-- Bit `b` of a code area. -/
def zbBit (area : List Byte) (b : Nat) : Nat := ((area.getD (b / 8) 0).toNat / 2 ^ (b % 8)) % 2

/-- The next symbol from bit `b`, and the bit after it (05 R158): at most 12 bits. -/
def zbNext (area : List Byte) (codes : List ZbCode) : Nat → Nat → Nat → Nat → Option (Nat × Nat)
  | 0, _, _, _ => none
  | fuel + 1, b, acc, len =>
    let acc' := 2 * acc + zbBit area b
    match codes.find? (fun c => c.len == len + 1 && c.code == acc') with
    | some c => some (c.sym, b + 1)
    | none => zbNext area codes fuel (b + 1) acc' (len + 1)

/-- The bytes of positions from `i` on, and the bit reached. -/
def zbBytes (bitmap area : List Byte) (codes : List ZbCode) : Nat → Nat → Nat → Option (List Byte × Nat)
  | 0, _, b => some ([], b)
  | n + 1, i, b =>
    if ((bitmap.getD (i / 8) 0).toNat / 2 ^ (i % 8)) % 2 = 1 then
      match zbNext area codes 12 b 0 0 with
      | none => none
      | some (x, b') => (zbBytes bitmap area codes n (i + 1) b').map fun r => (BitVec.ofNat 8 x :: r.1, r.2)
    else (zbBytes bitmap area codes n (i + 1) b).map fun r => (0 :: r.1, r.2)

/-- The key of a block's header (05 R155): `key` is the block's first byte, in tier 0 or 1. -/
def State.zbHdrKey (s : State) (key : Nat) : Nat :=
  let base := if keyTier key = 1 then s.dev.zbh1.toNat else s.dev.zbh0.toNat
  memKey (keyTier key) 0 (base + 8 * (key % 2 ^ 52 / 512))

/-- Do bytes that an expansion needs lie in a poisoned sector, or behind a port that is down (05 R131, 10 R280)? -/
def State.unreadable (s : State) (key n : Nat) : Bool := s.poisonIn key n || s.cxlDownIn key n

/-- The expanded bytes of a block, or nothing when it is malformed or a sector it needs is poisoned (05 R158, R159). The sectors that a
block needs are all that it is expanded from: of a raw block all sixteen, whichever of its bytes are read (log entry 80). The address in
PAYLOAD_INFO names no tier: the model takes the block's own (log entry 11). -/
def State.zbExpand (s : State) (key : Nat) : Option (List Byte) :=
  let hk := s.zbHdrKey key
  if s.unreadable hk 8 then none else
  let h := s.peekN hk 8
  let len := natBits h 11 2
  match h % 4 with
  | 0 => if len ≠ 512 || s.unreadable key 512 then none else some (s.peekBytes key 512)
  | 2 => if len ≠ 0 then none else some ((List.range 512).map fun i => BitVec.ofNat 8 (natBits h 47 16 / 256 ^ (i % 4)))
  | 1 =>
    let tb := memKey (keyTier key) 0 (natBits h 58 16 * 512)
    if len < 64 || len > 512 || s.unreadable key len || s.unreadable tb 287 then none else
    match s.zbTableAt tb with
    | none => none
    | some codes =>
      let pay := s.peekBytes key len
      match zbBytes (pay.take 64) (pay.drop 64) codes 512 0 0 with
      | some (out, b) => if 64 + ceilDiv b 8 = len then some out else none
      | none => none
  | _ => none

/-- The tensor header of a block's present header (`tableOf`); 0 when it is not bitmap-Huffman (05 R160). -/
def State.zbOldTable (s : State) (key : Nat) : Nat :=
  let h := s.peekN (s.zbHdrKey key) 8
  if h % 4 = 1 then tableOf (memKey (keyTier key) 0 (natBits h 58 16 * 512)) else 0

/-- The stream bits of a block's non-zero bytes; none when one has no code. -/
def zbStream (codes : List ZbCode) : List Byte → Option (List Nat)
  | [] => some []
  | x :: t =>
    if x = 0 then zbStream codes t
    else
      match codes.find? (fun c => c.sym == x.toNat), zbStream codes t with
      | some c, some r => some ((List.range c.len).map (fun i => c.code / 2 ^ (c.len - 1 - i) % 2) ++ r)
      | _, _ => none

/-- Bits as bytes, bit 0 first. -/
def packBits8 (n : Nat) (bits : List Nat) : List Byte :=
  (List.range n).map fun i =>
    BitVec.ofNat 8 ((List.range 8).foldl (fun a j => a + bits.getD (8 * i + j) 0 * 2 ^ j) 0)

/-- A block noted as one that is stored through the ZB format. -/
def State.markBlock (s : State) (b : Nat) : State := { s with zbBlocks := s.zbBlocks.ins b, journal := .block b :: s.journal }

/-- A block written at its home in the form 05 R160 gives: constant, bitmap-Huffman, or raw. -/
def State.zbStore (s : State) (key table : Nat) (out : List Byte) : State :=
  let hk := s.zbHdrKey key
  let s0 := s.markBlock (key / 512)
  let w0 := out.take 4
  let const := (List.range 128).all fun i => (out.drop (4 * i)).take 4 == w0
  if const then s0.pokeN hk 8 (2 + 2 ^ 16 * leBytes w0)
  else
    let huff := match if table = 0 then none else s.zbTableAt (table - 1) with
      | none => none
      | some codes =>
        match zbStream codes out with
        | none => none
        | some bits =>
          let n := ceilDiv bits.length 8
          if 64 + n ≤ 512 then
            some (packBits8 64 (out.map fun x => if x = 0 then 0 else 1) ++ packBits8 n bits)
          else none
    match huff with
    | some pay => (s0.pokeN hk 8 (1 + 4 * pay.length + 2 ^ 16 * ((table - 1) % 2 ^ 52 / 512))).pokeBytes key pay
    | none => (s0.pokeN hk 8 (4 * 512)).pokeBytes key out

/-- The slice that stands for a slice: itself, or when it is retired the next one of its die in service (10 R291). -/
def State.homeSlice (s : State) (k : Nat) : Nat :=
  ((List.range 160).map fun i => k / 160 * 160 + (k % 160 + i) % 160).find? (fun j => !(s.retiredSlices.has j)) |>.getD k

/-- The slice at which a line is homed in a device with every slice in service: a shadow region's lines lie over 20 slices (10 R279), others
where 05 R128 puts them. -/
def State.sliceAt (s : State) (key : Nat) : Nat :=
  match (List.range 8).find? fun n =>
      let b := (s.part n).shadow.toNat
      b ≠ 0 && decide (b ≤ key ∧ key < b + 2 ^ 25) with
  | some n => 160 * (n / 4) + 40 * (n % 4) + (key - (s.part n).shadow.toNat) / 128 % 20
  | none => sliceOf key

/-- The slice that homes a line (05 R128; 10 R279, R291). -/
def State.homeOf (s : State) (key : Nat) : Nat := s.homeSlice (s.sliceAt key)

/-- A bond region. -/
def State.region (s : State) (r : Nat) : Region := Tab.get Region.reset s.regions r

/-- Must a transfer to a byte, of an operation born in a cycle, wait for a region of its slice port that retrains or is about to (10 R287)? -/
def State.portHeld (s : State) (key born : Nat) : Bool :=
  !s.regions.isEmpty && decide (keyTier key < 2) &&
    (let k := s.homeOf (key)
     (List.range 10).any fun i => (let x := s.region (10 * k + i)
                                   x.retraining || x.pause.any fun c => decide (c ≤ born)))

/-- A transfer to a byte counted at its slice port (10 R287). -/
def State.countXfer (s : State) (key : Nat) : State :=
  if keyTier key < 2 then
    let k := s.homeOf (key)
    { s with xfers := Tab.set 0 s.xfers k (Tab.get 0 s.xfers k + 1) }
  else s

/-- Does an access of a page go through the block format? 05 R155 gives headers for tiers 0 and 1 alone: the bytes of a leaf of tier 2 or
3 with ZB set are plain bytes, the model's choice (log entry 11). -/
def zbHere (key : Nat) (zb : Bool) : Bool := zb && decide (keyTier key < 2)

/-- `n` bytes as a program reads them, with their poison (05 R131, R155). -/
def State.memRead (s : State) (key n : Nat) (zb : Bool) : Nat × Bool :=
  if keyTier key == poisonTier then (0, true) else
  if zbHere key zb then
    let b := key / 512 * 512
    match s.zbExpand b, (if (key + n - 1) / 512 = key / 512 then some [] else s.zbExpand (b + 512)) with
    | some x, some y => (leBytes (((x ++ y).drop (key - b)).take n), false)
    | _, _ => (0, true)
  else if s.unreadable key n then (0, true) else (s.peekN key n, false)

/-- `n` bytes written as a program writes them, unless a sector is poisoned (05 R131, R160): the state, and
whether it was poisoned. `table`: the tensor header of the writing record; `home`: a home operation keeps the block's
own. -/
def State.memWrite (s : State) (key n v : Nat) (zb : Bool) (table : Nat) (home : Bool) : State × Bool :=
  if keyTier key == poisonTier then (s, true) else
  if zbHere key zb then
    let b := key / 512 * 512
    match s.zbExpand b with
    | none => (s, true)
    | some x =>
      let x' := x.take (key - b) ++ toBytes n v ++ x.drop (key - b + n)
      let tb := if home then s.zbOldTable b else table
      if x'.length = 512 then (s.zbStore b tb x', false)
      else
        match s.zbExpand (b + 512) with
        | none => (s, true)
        | some y =>
          let y' := x'.drop 512 ++ y.drop (x'.length - 512)
          ((s.zbStore b tb (x'.take 512)).zbStore (b + 512) (if home then s.zbOldTable (b + 512) else table) y', false)
  else if s.unreadable key n then (s, true)
  else (s.pokeN key n v, false)

/-- A plain store to a count barrier in use leaves all its fields unspecified (05 R142); it is no barrier after that. In use is a barrier from
its CBINIT, or the first arrival of a phase, until the phase completes (log entry 81). -/
def State.spoilBarriers (s : State) (key n : Nat) (zb : Bool) : State :=
  let hit := s.cbUse.filter fun b => decide (key / 32 ≤ b ∧ b * 32 < key + n)
  if hit.isEmpty then s else
  hit.foldl (fun (t : State) b =>
      (t.memWrite (b * 32) 32 (leBytes ((List.range 32).map fun i => Config.freeByte s.fresh (2 ^ 50 + (b * 32 + i) % 2 ^ 20))) zb
        (t.zbOldTable (b / 16 * 512)) false).1)
    { s with cbUse := s.cbUse.filter fun b => !(hit.contains b) }

/-- `n` bytes stored as a program or a unit of the device stores them: a count barrier in use among them is spoilt. -/
def State.memStore (s : State) (key n v : Nat) (zb : Bool) (table : Nat) : State × Bool :=
  let r := s.memWrite key n v zb table false
  (if r.2 then r.1 else r.1.spoilBarriers key n zb, r.2)

end Sys2Proof.Machine
end

