-- ==== Sys2Proof/Machine/Visible.lean ====
section
/-!
DEFINITION. Bytes of scratchpad, and what a read through one path may find of a write through another (06 R173, R176, R178): a byte that a
write replaced stays to be found until a FENCEX joins the paths, or a read of the path has found the write.
-/
namespace Sys2Proof.Machine

/-! ### Scratchpad bytes -/

/-- The key under which the poison of a workgroup's scratchpad is kept (10 R290, log entry 10). -/
def scrSector (wid off : Nat) : Nat := 14 * 2 ^ 60 + wid * 2 ^ 20 + off

/-- Is a byte of a workgroup's scratchpad in a poisoned sector (10 R290)? -/
def State.scrPoison (s : State) (wid off n : Nat) : Bool := s.poisonIn (scrSector wid off) n

/-- Bytes of a workgroup's scratchpad as a number. -/
def State.scrRead (s : State) (wid off n : Nat) : Nat :=
  match s.wgs.find? wid with
  | none => 0
  | some w => (List.range n).foldr (fun i a => (Tab.get 0 w.scr (off + i)).toNat + 256 * a) 0

/-! ### What a path may still find -/

/-- An agent as all its fragments: a FENCEX joins paths for the reads of its gang (13 R371). -/
def wholeOf : Agent → Agent
  | .gang g _ => .gang g 0
  | .ctx n => .ctx n

/-- Has a write become visible to an agent's reads through a path (06 R176)? -/
def Stale.shut (r : Stale) (ag : Agent) (path : Nat) : Bool :=
  r.path == path || r.closed.any fun c => c.2 == path && (c.1.isNone || c.1 == some (wholeOf ag))

/-- The writes of a byte that a read through a path may find not yet made, the newest first: the number of each and the byte before it. -/
def undoable (ag : Agent) (path : Nat) (place : Nat × Nat) : List Stale → Byte → List (Nat × Byte)
  | [], _ => []
  | r :: t, cur =>
    if r.place ≠ place then undoable ag path place t cur
    else if r.new ≠ cur ∨ r.shut ag path then []
    else (r.num, r.old) :: undoable ag path place t r.old

/-- The newest write of a byte that every read through a path has to find made; 0 for none. -/
def madeLast (ag : Agent) (path : Nat) (place : Nat × Nat) : List Stale → Byte → Nat
  | [], _ => 0
  | r :: t, cur =>
    if r.place ≠ place then madeLast ag path place t cur
    else if r.new ≠ cur ∨ r.shut ag path then r.num
    else madeLast ag path place t r.old

/-- The bytes that a read finds together, as the bytes of one write (06 R164): all of a naturally aligned access of up to 16 bytes, the
naturally aligned 8 bytes of a longer one, whose elements have up to 8 bytes; a misaligned access finds each byte by itself. -/
def atomUnit (base n : Nat) : Nat :=
  if n > 16 then 8
  else if (n == 1 || n == 2 || n == 4 || n == 8 || n == 16) && base % n == 0 then n
  else if n > 8 && base % 4 == 0 then 4 else 1

/-- Where a read through a path finds a unit of bytes, each with its place and the byte there now: the number of the oldest write that it finds not made, a free choice
among those that the visible ones allow; one more than the newest number when it finds all. -/
def State.cutOf (s : State) (ag : Agent) (path : Nat) (unit : List ((Nat × Nat) × Byte)) : Nat :=
  let all := (s.older.head?.map (·.num)).getD 0 + 1
  let least := unit.foldl (fun (m : Nat) e => max m (madeLast ag path e.1 s.older e.2)) 0
  let cuts := (all :: ((unit.flatMap fun e => (undoable ag path e.1 s.older e.2).map (·.1)).eraseDups)).filter fun c => decide (least < c)
  match unit with
  | [] => all
  | e :: _ => cuts.getD (Config.freeNat s.fresh (2 ^ 90 + 8 * (e.1.1 * 2 ^ 70 + e.1.2) + path) % max cuts.length 1) all

/-- A byte as a read finds it that finds the writes from a number on not made. -/
def foundByte (ag : Agent) (path : Nat) (older : List Stale) (cut : Nat) (e : (Nat × Nat) × Byte) : Byte :=
  ((undoable ag path e.1 older e.2).takeWhile fun x => decide (cut ≤ x.1)).getLast?.map (·.2) |>.getD e.2

/-- The units of `n` bytes from a place on, which hold `v`. -/
def unitsOf (w base n v : Nat) : List (List ((Nat × Nat) × Byte)) :=
  let u := atomUnit base n
  (List.range ((base + n + u - 1) / u - base / u)).map fun k =>
    ((List.range u).map fun i => (base / u + k) * u + i).filter (fun a => decide (base ≤ a ∧ a < base + n)) |>.map fun a =>
      ((w, a), BitVec.ofNat 8 (v / 256 ^ (a - base)))

/-- `n` bytes from a place on, which hold `v`, as a read through a path finds them. -/
def State.foundBy (s : State) (ag : Agent) (path w base n v : Nat) : Nat :=
  if s.older.isEmpty then v else
  leBytes ((unitsOf w base n v).flatMap fun u => u.map (foundByte ag path s.older (s.cutOf ag path u)))

/-- The newest write of a place among those numbered below a cut is visible to every read of a path: it has been found (06 R176 rule 3). -/
def shutBelow (place : Nat × Nat) (path cut : Nat) : List Stale → List Stale
  | [] => []
  | r :: t =>
    if r.place = place ∧ r.num < cut then { r with closed := (none, path) :: r.closed } :: t else r :: shutBelow place path cut t

/-- The state after a read that found `n` bytes, the ones there with `home`: no later read of the path finds older ones (06 R176 rule 3). -/
def State.afterFound (s : State) (ag : Agent) (path w base n v : Nat) (home : Bool) : State :=
  if s.older.isEmpty then s else
  let all := (s.older.head?.map (·.num)).getD 0 + 1
  (unitsOf w base n v).foldl (fun (t : State) u =>
    let cut := if home then all else s.cutOf ag path u
    u.foldl (fun (t : State) e =>
      if (undoable ag path e.1 s.older e.2).any fun x => decide (x.1 < cut) then { t with older := shutBelow e.1 path cut t.older } else t) t) s

/-- A write through a path of `n` bytes from a place on, over `old`: other paths may still find the bytes before (06 R178). -/
def State.replaced (s : State) (path w base n old new : Nat) : State :=
  let num := (s.older.head?.map (·.num)).getD 0 + 1
  { s with older := (List.range n).foldl (fun l i =>
      let r : Stale := { place := (w, base + i), num := num, old := BitVec.ofNat 8 (old / 256 ^ i), new := BitVec.ofNat 8 (new / 256 ^ i), path := path,
                         closed := [] }
      if r.old = r.new ∧ !(l.any fun x => x.place == r.place) then l else r :: l) s.older }

/-- What was written to some bytes is visible to every read on every path from now on. -/
def State.shown (s : State) (w base n : Nat) : State :=
  { s with older := s.older.filter fun r => !(r.place.1 == w && decide (base ≤ r.place.2 ∧ r.place.2 < base + n)) }

/-- A FENCEX's join for the writes made so far (06 R173). -/
def State.joined (s : State) (j : Join) : State :=
  { s with older := s.older.map fun r =>
      if j.writers.testBit r.path then
        { r with closed := ((List.range 7).filter fun q => j.readers.testBit q).map (fun q => (some (wholeOf j.ag), q)) ++ r.closed }
      else r }

/-! ### Reads through a path -/

/-- `n` bytes of memory as a read by an agent through a path finds them, with their poison: a read of a TSO page is a home read (06 R181),
and tier 3 is read at its home with what the host has written (06 R185). -/
def State.pathRead (s : State) (ag : Agent) (path : Nat) (tso zb : Bool) (key n : Nat) : Nat × Bool :=
  let r := (s.seeHost key).memRead key n zb
  if r.2 || tso || keyTier key = 3 then r else (s.foundBy ag path 0 key n r.1, false)

/-- The state after that read, made as a bundle issues. -/
def State.afterPath (s : State) (ag : Agent) (path : Nat) (tso zb : Bool) (key n : Nat) : State :=
  let r := (s.seeHost key).memRead key n zb
  let t := s.sawHost key
  if r.2 then t else t.afterFound ag path 0 key n r.1 (tso || keyTier key == 3)

/-- `n` bytes of a workgroup's scratchpad as a read by an agent through a path finds them, with their poison. -/
def State.pathScr (s : State) (ag : Agent) (path wid off n : Nat) : Nat × Bool :=
  if s.scrPoison wid off n then (0, true) else (s.foundBy ag path (wid + 1) off n (s.scrRead wid off n), false)

/-- The state after that read. -/
def State.afterScr (s : State) (ag : Agent) (path wid off n : Nat) : State :=
  if s.scrPoison wid off n then s else s.afterFound ag path (wid + 1) off n (s.scrRead wid off n) false

/-! ### Memory at a location -/

/-- A location that holds bytes: memory, or a workgroup's scratchpad. -/
inductive Spot where
  | mem (key : Nat) (zb : Bool)
  | scr (wid off : Nat)
deriving DecidableEq, Repr

/-- The place of an access that has bytes. -/
def Loc.spot? : Loc → Option Spot
  | .mem k _ z => some (.mem k z)
  | .scr w o => some (.scr w o)
  | _ => none

/-- A spot moved by some bytes. -/
def Spot.at (p : Spot) (n : Nat) : Spot :=
  match p with
  | .mem k z => .mem (k + n) z
  | .scr w o => .scr w (o + n)

/-- The host's writes that an access of a spot may see (06 R185). -/
def State.seeSpot (s : State) (p : Spot) : State :=
  match p with
  | .mem k _ => s.seeHost k
  | .scr _ _ => s

/-- The key of a byte of a saved scratchpad. -/
def State.scrKey (s : State) (w : Wg) (off : Nat) : Nat := w.image + w.imageLen - alignUp (s.khWg w).scratch 4096 + off

/-- Bytes of a workgroup's scratchpad written, in the save area too while it is away. -/
def State.scrWrite (s : State) (wid off n v : Nat) : State :=
  match s.wgs.find? wid with
  | none => s
  | some w =>
    let t := s.updWg wid fun w =>
      { w with scr := (toBytes n v).zipIdx.foldl (fun t e => Tab.set 0 t (off + e.2) e.1) w.scr }
    if !w.onChip then t.pokeN (s.scrKey w off) n v else t

/-- Bytes read at a spot's home, with their poison. -/
def State.spotRead (s : State) (p : Spot) (n : Nat) : Nat × Bool :=
  match p with
  | .mem k z => s.memRead k n z
  | .scr w o => if s.scrPoison w o n then (0, true) else (s.scrRead w o n, false)

/-- Bytes written at a spot's home, unless poisoned. -/
def State.spotWrite (s : State) (p : Spot) (n v table : Nat) (home : Bool) : State × Bool :=
  match p with
  | .mem k z =>
    if home then s.memWrite k n v z table true else s.memStore k n v z table
  | .scr w o => if s.scrPoison w o n then (s, true) else (s.scrWrite w o n v, false)

/-- Where a spot stands, as the records of replaced bytes name it. -/
def Spot.place : Spot → Nat × Nat
  | .mem k _ => (0, k)
  | .scr w o => (w + 1, o)

/-- A transfer of a spot's bytes counted at its slice port (10 R287). -/
def State.countSpot (s : State) (p : Spot) : State := match p with | .mem k _ => s.countXfer k | .scr _ _ => s

/-- A read of a spot through an operation's path: the value it finds, whether it met poison, and the state after it; `home`: it is a home
read (06 R176, R185). -/
def State.spotFind (s : State) (f : Flight) (p : Spot) (n : Nat) (home : Bool) : Nat × Bool × State :=
  let t := s.seeSpot p
  let r := t.spotRead p n
  let w := p.place
  let home := home || (match p with | .mem k _ => keyTier k == 3 | .scr _ _ => false)
  if r.2 then (0, true, t)
  else (if home then r.1 else t.foundBy f.ag f.path w.1 w.2 n r.1, false, (t.countSpot p).afterFound f.ag f.path w.1 w.2 n r.1 home)

/-- A write of a spot through an operation's path, and whether it met poison: other paths may still find the bytes before (06 R178). -/
def State.spotPut (s : State) (f : Flight) (p : Spot) (n v table : Nat) : State × Bool :=
  let old := (s.spotRead p n).1
  let r := s.spotWrite p n v table false
  if r.2 then r else ((r.1.countSpot p).replaced f.path p.place.1 p.place.2 n old (r.1.spotRead p n).1, false)

end Sys2Proof.Machine
end

