-- ==== Sys2Proof/Machine/Buffer.lean ====
section
/-!
DEFINITION. Buffer records (05 R149-R154): their fields and validity, the place of an element, EXTENT and OOB, and the
read of a record when a bundle first uses it.
-/
namespace Sys2Proof.Machine

/-- A buffer record (05 Table 5.10). -/
structure BufRec where
  base : Nat
  extent : Nat
  valid : Bool
  write : Bool
  atomic : Bool
  nt : Bool
  stride : Nat
  fmt : Nat
  enc : Nat
  inter : Nat
  scale : Nat
  oob : Nat
  scaleBase : Nat
  table : Nat
  resv : Nat
deriving DecidableEq, Repr

/-- The record of 40 bytes read as one number. -/
def BufRec.ofBits (x : Nat) : BufRec :=
  { base := natBits x 63 0, extent := natBits x 111 64, valid := x.testBit 112, write := x.testBit 114,
    atomic := x.testBit 115, nt := x.testBit 116, stride := natBits x 159 128, fmt := natBits x 167 160,
    enc := natBits x 169 168, inter := natBits x 174 171, scale := natBits x 176 175, oob := natBits x 178 177,
    scaleBase := natBits x 255 192, table := natBits x 319 256,
    resv := natBits x 113 113 + natBits x 127 117 + natBits x 170 170 + natBits x 191 179 }

/-- FORMAT 0x3F: raw bytes. -/
def BufRec.raw (r : BufRec) : Bool := r.fmt == 0x3F

/-- The record is one that raises PROT in the lanes that use it (05 R150). -/
def BufRec.bad (r : BufRec) : Bool :=
  !r.valid || r.resv ≠ 0 || r.oob == 3 || r.scale == 3 || decide (r.inter > 4) || decide (r.enc > 1) ||
    !(decide (r.fmt ≤ 23) || r.raw) || (r.enc == 1 && (r.fmt == 22 || r.fmt == 23)) ||
    (r.inter ≠ 0 && (r.stride == 0 || r.raw)) ||
    (r.table ≠ 0 && !(r.fmt == 22 || r.fmt == 23) && r.enc == 0)

/-- The elements of a packed row; 0 for one unbounded row. -/
def BufRec.rowLen (r : BufRec) : Nat := r.stride * 2 ^ r.inter

/-- Packed row, position in it, and scale position of element `x` (05 R151). -/
def BufRec.place (r : BufRec) (x : Nat) : Nat × Nat :=
  if r.stride = 0 then (0, x)
  else
    let u := x / r.stride
    let q := x % r.stride
    (u / 2 ^ r.inter, 2 ^ r.inter * q + u % 2 ^ r.inter)

/-- The scale position of a placed element (05 R151). -/
def BufRec.scaleAt (r : BufRec) (p : Nat × Nat) : Nat :=
  let u := if r.stride = 0 then 0 else p.1 * 2 ^ r.inter + p.2 % 2 ^ r.inter
  let q := if r.stride = 0 then p.2 else p.2 / 2 ^ r.inter
  if fmtBlock r.fmt = 0 then u
  else (if r.stride = 0 then 0 else u * ceilDiv r.stride (fmtBlock r.fmt)) + q / fmtBlock r.fmt

/-- Bytes of a packed row. -/
def BufRec.rowSize (r : BufRec) : Nat := if r.stride = 0 then 0 else rowBytes r.fmt r.rowLen

/-- The byte range of a placed element from BASE: first byte, bytes, and the bit offset in them; for CB2 the index
word and the weight's number in it. -/
def BufRec.span (r : BufRec) (p : Nat × Nat) : Nat × Nat × Nat :=
  let row := p.1 * r.rowSize
  if isCb2 r.fmt then (row + 2 * (p.2 / 8), 2, p.2 % 8)
  else
    let bit := p.2 * fmtBits r.fmt
    (row + bit / 8, (bit % 8 + fmtBits r.fmt + 7) / 8, bit % 8)

/-- Does a placed element lie wholly inside EXTENT? -/
def BufRec.inside (r : BufRec) (p : Nat × Nat) : Bool :=
  let s := r.span p
  decide (s.1 + s.2.1 ≤ r.extent)

/-- Whole elements in a number of bytes of one row. -/
def BufRec.fit (r : BufRec) (bytes : Nat) : Nat :=
  if isCb2 r.fmt then 8 * (bytes / 2) else 8 * bytes / fmtBits r.fmt

/-- The last element wholly inside EXTENT, by its place (05 R152). -/
def BufRec.last (r : BufRec) : Option (Nat × Nat) :=
  if r.stride = 0 then (if r.fit r.extent = 0 then none else some (0, r.fit r.extent - 1))
  else
    let rows := r.extent / r.rowSize
    let k := min (r.fit (r.extent % r.rowSize)) r.rowLen
    if k ≠ 0 then some (rows, k - 1) else if rows = 0 then none else some (rows - 1, r.rowLen - 1)

/-- Where element `x` of an access goes: its place, nothing (a zero read, a dropped store), or PROT (05 R152). -/
inductive ElemAt where
  | at (p : Nat × Nat)
  | drop
  | prot
deriving DecidableEq, Repr

/-- The place of an element under OOB. -/
def BufRec.elem (r : BufRec) (x : Int) : ElemAt :=
  let p := r.place x.toNat
  if x ≥ 0 ∧ r.inside p then .at p
  else match r.oob with
    | 2 => .prot
    | 1 => match r.last with
      | some p => .at p
      | none => .drop
    | _ => .drop

/-- The byte offset of a raw access of `n` bytes under OOB (05 R152). -/
def BufRec.rawAt (r : BufRec) (x : Int) (n : Nat) : ElemAt :=
  if x ≥ 0 ∧ x.toNat + n ≤ r.extent then .at (x.toNat, 0)
  else match r.oob with
    | 2 => .prot
    | 1 => if r.extent < n then .drop else .at ((r.extent - n) / n * n, 0)
    | _ => .drop

/-- Bytes read at issue by translation, page by page: the pieces' keys, or what stops them. -/
def piecesOf (va n : Nat) : List (Nat × Nat) :=
  let first := min n (4096 - va % 4096)
  if first = n then [(va, n)] else [(va, first), (va + first, n - first)]

/-- The outcome of a read of a record, with the state after it: translations that were made are noted whatever came of them (09 R258). -/
inductive RecGot (α : Type) where
  | ok (r : α) (s : State)
  | trap (ti : TrapInfo) (s : State)
  | ats (pages : List Nat) (s : State)
  | drain (fls : List Nat) (s : State)
  | poison (s : State)

/-- The outcome of a bundle's use of a record. -/
abbrev RecRes := RecGot BufRec

/-- The state after it. -/
def RecGot.after {α : Type} (r : RecGot α) : State :=
  match r with
  | .ok _ s => s
  | .trap _ s => s
  | .ats _ s => s
  | .drain _ s => s
  | .poison s => s

/-- The 40 bytes of a record read on a path for a bundle, in the fragment's program order (05 R149). Register space takes no such read
(10 R273). -/
def State.recNow (s : State) (is : Issue) (va path : Nat) (lanes : LaneMask) : RecGot Nat :=
  let reqs := (piecesOf va 40).map fun p => ({ lane := 0, va := p.1, size := p.2, acc := .read } : AReq)
  let wait := s.ordWait is.ag path true false
  if !wait.isEmpty then .drain wait s else
  let tried := s.noteTried is.ag reqs
  match s.checkAll is.ag path lanes noReg reqs with
  | .trap ti => .trap { ti with faddr := va, fmask := lanes } tried
  | .ats ps => .ats ps tried
  | .hold _ _ => .ats [] tried
  | .ok l =>
    let busy := (s.lineWait is.ag path (l.flatMap fun e => (e.2.loc 0).lines e.1.size) ++
      (if l.any fun e => e.2.tso then s.tsoReads is.ag else [])).eraseDups
    let far := s.farAll is.ag (l.map (·.2))
    let noted := s.noteAll is.ag l
    let held := l.any fun e => s.portHeld e.2.key s.cycle
    if !busy.isEmpty || held then .drain busy noted else if far.1 then .poison noted else if !far.2.isEmpty then .ats far.2 noted else
    let vs := l.map fun e => (s.pathRead is.ag path e.2.tso e.2.zb e.2.key e.1.size, e.1.size)
    let t := (l.foldl (fun (t : State) e => (t.afterPath is.ag path e.2.tso e.2.zb e.2.key e.1.size).countXfer e.2.key) s).noteAll is.ag l
    if vs.any (fun e => e.1.2) then .poison t else .ok (vs.foldr (fun e acc => e.1.1 + 256 ^ e.2 * acc) 0) t

/-- The record that a bundle of a gang names (05 R149). The gang's workgroup reads it when it first uses it, which may fault. Later uses see
what some read of it has given, or read it anew, freely; such a read raises nothing. -/
def State.bufRec (s : State) (is : Issue) (b path : Nat) (lanes : LaneMask) : RecRes :=
  match is.ag with
  | .ctx _ => .trap { causes := cILLOP } s
  | .gang gid _ =>
    match s.gang? gid with
    | none => .trap { causes := cILLOP } s
    | some g =>
      let kh := s.khOf g
      let seen := ((s.wgOf g).bind fun w => w.bufs.find? b).getD []
      match seen[Config.freeNat s.fresh (2 ^ 41 + b) % (seen.length + 1)]? with
      | some x => .ok (BufRec.ofBits x) s
      | none =>
        match s.recNow is ((kh.base : Int) + kh.bufoff + 40 * b).toNat path lanes, seen with
        | .ok x t, _ => .ok (BufRec.ofBits x) (t.updWg g.wid fun w => { w with bufs := w.bufs.put b (x :: seen).eraseDups })
        | r, x :: _ => .ok (BufRec.ofBits x) r.after
        | .trap ti t, [] => .trap ti t
        | .ats ps t, [] => .ats ps t
        | .drain fls t, [] => .drain fls t
        | .poison t, [] => .poison t

/-- ILLOP for a record at or above the table's count (05 R149). -/
def recBound (o : Opw) (s : State) (is : Issue) : Bool :=
  match is.ag with
  | .gang gid _ => (s.gang? gid).any fun g => decide (o.imm.toNat / 2 ^ 24 ≥ (s.khOf g).bufcnt)
  | .ctx _ => true

end Sys2Proof.Machine
end

