-- ==== Sys2Proof/Machine/Control.lean ====
section
/-!
DEFINITION. The control and synchronisation family: NOP to BKPT (12 R331-R336, R345; 13 R370, R371, R379; 14 R410-R412,
R418; 15 R453-R455, R468, R473).
-/
namespace Sys2Proof.Machine

abbrev OutC := Host.Outcome State Fault Refusal

/-- NOP (14 R418). -/
def execNop (o : Opw) (s : State) : OutC := issueOp (.nop o) o s noBad noRd noMore fun _ => s

/-! ### Special registers -/

/-- The cycles that a gang's heavy operations have waited in requests not yet granted (07 R218): SR_DRAWWAIT counts them as they pass. -/
def State.drawPending (s : State) (gid : Nat) : Nat :=
  s.kilns.foldl (fun a e => e.2.2.foldl (fun a r =>
    if r.who % 4 < 2 ∧ (s.flights.find? (r.who / 4)).any (fun f => match f.ag with | .gang g _ => g == gid | .ctx _ => false) then
      a + (s.cycle - r.since)
    else a) a) 0

/-- A special register's value in a lane (11 Table 11.9). -/
def srValue (s : State) (gid fid n lane : Nat) : Nat :=
  match s.gang? gid, s.frag? gid fid with
  | some g, some f =>
    let bit := fun (m : LaneMask) => if m.getLsbD lane then 1 else 0
    match n with
    | 0x000 => lane
    | 0x001 => rankOf f.mask lane
    | 0x002 => popLanes g.width f.mask
    | 0x003 => g.width
    | 0x004 => ((slicesOf g.width f.mask).filter fun k => k < 32).foldl (fun a k => a + 2 ^ k) 0
    | 0x005 => ((slicesOf g.width f.mask).filter fun k => 32 ≤ k ∧ k < 64).foldl (fun a k => a + 2 ^ (k - 32)) 0
    | 0x006 => ((slicesOf g.width f.mask).filter fun k => 64 ≤ k ∧ k < 96).foldl (fun a k => a + 2 ^ (k - 64)) 0
    | 0x007 => ((slicesOf g.width f.mask).filter fun k => 96 ≤ k).foldl (fun a k => a + 2 ^ (k - 96)) 0
    | 0x008 => f.sdepth
    | 0x009 => bit g.helper
    | 0x00A => bit g.ray
    | 0x010 => f.fmt.toNat
    | 0x011 => g.chk.toNat
    | 0x012 => g.fpctl.toNat
    | 0x013 => g.fpstat.toNat
    | 0x014 => g.mset.toNat
    | 0x015 => g.vplo.toNat
    | 0x016 => g.vphi.toNat
    | 0x017 => (g.drawwait.toNat + s.drawPending gid) % 2 ^ 32
    | 0x020 => s.coreCycle g.core % 2 ^ 64
    | 0x021 => s.cores
    | 0x022 => s.slices
    | 0x030 => g.cause.toNat
    | 0x031 => g.epc.toNat
    | 0x032 => g.skid.toNat
    | 0x033 => g.faddr.toNat
    | 0x034 => g.fsub.toNat
    | 0x035 => bit g.fmask
    | 0x036 => bit g.dmask
    | 0x037 => g.pristat.toNat
    | _ => 0
  | _, _ => 0

/-- SRD's effect (15 R454, R455). -/
def srdEffect (o : Opw) (s : State) (is : Issue) : State :=
  let sh := shape false (.srd o)
  let n := o.imm.toNat % 65536
  let w := match srInfo n with | some (w, _, _, _) => w | none => 1
  match is.ag with
  | .gang gid fid => writeAll s is sh.lat (dstWrites o w ((effLanes s is sh o).map fun l => (l, srValue s gid fid n l)))
  | .ctx _ => s

/-- SRD (15 R454, R455). -/
def execSrd (o : Opw) (s : State) : OutC := issueOp (.srd o) o s noBad noRd noMore (srdEffect o s)

/-- Is a value one that FMT may hold (04 R115)? -/
def fmtOk (x : Nat) : Bool :=
  x % 32 ≤ 21 && x / 32 % 32 ≤ 23 && x / 2 ^ 11 % 4 ≤ 1 && x / 2 ^ 13 % 4 ≤ 1 && x < 65536

/-- Is a value one that a gang may write to SR_MSET (07 R201)? -/
def msetOk (num gangs x : Nat) : Bool :=
  let own := (List.range 16).filter fun j => x.testBit j
  let par := (List.range 16).filter fun j => x.testBit (16 + j)
  let n := own.length + par.length
  decide (2 ≤ n) && decide (n ≤ 16) && own.contains num && own.all (fun j => decide (j < gangs)) &&
    par.all (fun j => decide (j < gangs))

/-- A special register written by a gang (15 R455). -/
def Gang.writeSr (g : Gang) (n x : Nat) : Gang :=
  match n with
  | 0x011 => { g with chk := BitVec.ofNat 32 (x % 2) }
  | 0x012 => { g with fpctl := BitVec.ofNat 32 (x % 32) }
  | 0x013 => { g with fpstat := BitVec.ofNat 32 (x % 64) }
  | 0x014 => { g with mset := BitVec.ofNat 32 x }
  | 0x015 => { g with vplo := BitVec.ofNat 32 x }
  | 0x016 => { g with vphi := BitVec.ofNat 32 x }
  | 0x017 => { g with drawwait := BitVec.ofNat 32 x }
  | 0x031 => { g with epc := BitVec.ofNat 64 (x % 2 ^ 57 / 16 * 16 + x % 2) }
  | _ => g

/-- SWR's effect (15 R454, R455). -/
def swrEffect (o : Opw) (s : State) (is : Issue) : State :=
  let sh := shape false (.swr o)
  let n := o.imm.toNat % 65536
  let ex := anyGuard s is o
  let pp := takePops s is sh o
  let x := srcVal s is o sh.a o.a .raw 1 pp.1.1 0
  match is.ag with
  | .ctx _ => s
  | .gang gid fid =>
    if !ex then pp.2
    else if n = 0x010 then
      if fmtOk x then pp.2.updFrag gid fid fun f => { f with fmt := BitVec.ofNat 32 x } else s.causeAt is o cILLOP
    else if n = 0x014 then
      match s.gang? gid with
      | some g =>
        let gangs := ((s.gridOf g).map fun r => r.lr.gangs).getD 0
        if msetOk g.num gangs x then pp.2.updGang gid fun y => y.writeSr n x else s.causeAt is o cILLOP
      | none => s
    else if n = 0x017 then pp.2.updGang gid fun y => y.writeSr n (x % 2 ^ 32 + 2 ^ 32 - s.drawPending gid % 2 ^ 32)
    else pp.2.updGang gid fun y => y.writeSr n x

/-- SWR (15 R454, R455). -/
def execSwr (o : Opw) (s : State) : OutC := issueOp (.swr o) o s noBad noRd noMore (swrEffect o s)

/-! ### Traps and handlers -/

/-- A trap-after cause, raised once the bundle's sequencing is done (09 R249). -/
def trapAfter (o : Opw) (cause : Nat) (s : State) (is : Issue) : State :=
  if anyGuard s is o then { s with issue := some { is with after := is.after ||| cause } } else s

/-- TRAP (15 R468). -/
def execTrap (o : Opw) (s : State) : OutC := issueOp (.trap o) o s noBad noRd noMore (trapAfter o cSWTRAP s)

/-- BKPT (12 R336). -/
def execBkpt (o : Opw) (s : State) : OutC := issueOp (.bkpt o) o s noBad noRd noMore (trapAfter o cBKPT s)

/-- HRET's effect (13 R379, 09 R257); its stall stands (11 R300). -/
def hretEffect (s : State) (is : Issue) : State :=
  match is.ag with
  | .gang gid fid =>
    let t := ({ s with issue := none } : State).updGang gid fun g =>
      { g with slot := g.slot.map fun (x : Slot) => { x with fid := fid },
               trap := g.trap.map fun (x : TrapSt) => { x with fid := fid } }
    (t.updFrag gid fid fun f => { f with readyAt := is.lastPass + 1 + is.ctl.stall.toNat }).handlerReturn gid
  | .ctx _ => s

/-- HRET (13 R379). -/
def execHret (o : Opw) (s : State) : OutC := issueOp (.hret o) o s noBad noRd noMore (hretEffect s)

/-- The causes that CCLR may not clear in user handler mode (12 R345). -/
def cclrKept : Nat := supCauses

/-- CCLR's effect (12 R345). -/
def cclrEffect (o : Opw) (s : State) (is : Issue) : State :=
  let sh := shape false (.cclr o)
  let m := BitVec.ofNat 64 (srcVal s is o sh.a o.a .raw 1 [] 0)
  match is.ag with
  | .gang gid _ =>
    s.updGang gid fun g =>
      let m' := if g.mode = .supHandler then m else m &&& ~~~(BitVec.ofNat 64 cclrKept)
      { g with cause := g.cause &&& ~~~m' }
  | .ctx _ => s

/-- CCLR (12 R345). -/
def execCclr (o : Opw) (s : State) : OutC := onceOp (.cclr o) o s (cclrEffect o)

/-! ### Named barriers -/

/-- The lanes of a workgroup that have not exited. -/
def State.lanesLeft (s : State) (wid : Nat) : Nat :=
  s.gangs.foldl (fun n e =>
    if e.2.wid = wid then e.2.frags.foldl (fun m f => m + popLanes e.2.width f.2.mask) n else n) 0

/-- A barrier never used. -/
def Barrier.zero : Barrier := { phase := 0, arrived := 0, expect := 0, cons := [], done := [] }

/-- The fragments of a workgroup waiting past a phase of a barrier depart: an acquire on every path (12 R333). -/
def State.departBar (s : State) (wid b p : Nat) (fls : List Nat) : State :=
  let cs := fls.map Con.every
  { s with gangs := s.gangs.map fun e =>
      (e.1, if e.2.wid = wid then
        { e.2 with frags := e.2.frags.map fun q =>
            (q.1, if q.2.stat = .blocked (.bar b p) then
                { q.2 with stat := .ready, con := cs ++ q.2.con, readyAt := max q.2.readyAt (s.coreCycle e.2.core) } else q.2) }
        else e.2) }

/-- The check of a barrier, run at every arrival and lane exit (12 R332). -/
def State.checkBar (s : State) (wid b : Nat) : State :=
  match s.wgs.find? wid with
  | none => s
  | some w =>
    let x := w.bars.getD b Barrier.zero
    let target := if x.expect = 0 then s.lanesLeft wid else x.expect
    if x.arrived ≥ target then
      let fls := x.done ++ x.cons
      let y : Barrier := { phase := (x.phase + 1) % 2 ^ 32, arrived := 0, expect := x.expect, cons := [], done := fls }
      (s.updWg wid fun w => { w with bars := w.bars.set b y }).departBar wid b x.phase fls
    else s

/-- The checks that lane exits run (12 R332): every barrier with arrivals. -/
def State.checkBars (s : State) (wid : Nat) : State :=
  match s.wgs.find? wid with
  | none => s
  | some w => (List.range w.bars.length).foldl (fun t b =>
      if (((t.wgs.find? wid).map fun w => (w.bars.getD b Barrier.zero).arrived).getD 0) > 0 then t.checkBar wid b else t) s

/-- The arrival of `n` lanes with a count (12 R332, R333): a release on every path. -/
def State.arriveBar (s : State) (is : Issue) (gid wid b e n : Nat) : State :=
  let fls := s.allEarlier is.ag
  match s.wgs.find? wid with
  | none => s
  | some w =>
    let x := w.bars.getD b Barrier.zero
    let live := fun (l : List Nat) => l.filter fun i => (s.flights.find? i).isSome
    let y : Barrier := { x with arrived := x.arrived + n, expect := if x.arrived = 0 then e else x.expect,
                                cons := (live x.cons ++ fls).eraseDups, done := live x.done }
    (s.updWg wid fun w => { w with bars := w.bars.set b y }).updGang gid fun g =>
      { g with lastArr := g.lastArr.put b x.phase }

/-- The number of a barrier operand known at decode and out of range (12 R331); a count above the limit that stands beside it is recorded
with it (09 R250). -/
def barDecode (i : Instr) (o : Opw) (s : State) (is : Issue) : Nat :=
  let known := match opnd o.a with
    | .imm => some (o.imm.toNat % 256)
    | .cst i => some (inlineConst i % 256)
    | _ => none
  match known, is.ag with
  | some b, .gang gid _ =>
    if (s.gang? gid).any fun g => decide (b ≥ (s.khOf g).barriers) then
      cBARBOUND ||| if anyGuard s is o ∧ uniVal s is o (shape false i).b o.b 2 > 32768 then cILLOP else 0
    else 0
  | _, _ => 0

/-- BAR, BARA and BARW (12 R331-R333). -/
def barOp (i : Instr) (o : Opw) (s : State) (f : Gang → Nat → Nat → State → Issue → State) : OutC :=
  issueOp i o s noBad noRd (barDecode i o s) fun is =>
    let sh := shape false i
    if !anyGuard s is o then s else
    match is.ag with
    | .ctx _ => s
    | .gang gid _ =>
      match s.gang? gid with
      | none => s
      | some g =>
        let b := uniVal s is o sh.a o.a 1 % 256
        let e := uniVal s is o sh.b o.b 2
        let c := (if b ≥ (s.khOf g).barriers then cBARBOUND else 0) ||| if e > 32768 then cILLOP else 0
        if c ≠ 0 then s.causeAt is o c else f g b e s is

/-- Waiting past a phase: at once when it is over, else held (12 R332). -/
def waitBar (wid b p : Nat) (s : State) (is : Issue) : State :=
  match s.wgs.find? wid with
  | none => s
  | some w =>
    let x := w.bars.getD b Barrier.zero
    if x.phase ≠ p then s.acquireFrom is.ag x.done else s.blockAfter is.ag (.bar b p)

/-- BAR (12 R332). -/
def execBar (o : Opw) (s : State) : OutC :=
  barOp (.bar o) o s fun g b e s is =>
    match is.ag, s.wgs.find? g.wid with
    | .gang gid _, some w =>
      let p := (w.bars.getD b Barrier.zero).phase
      let s1 := (s.arriveBar is gid g.wid b e (popLanes g.width (guardMask s is o))).checkBar g.wid b
      waitBar g.wid b p s1 is
    | _, _ => s

/-- BARA (12 R332). -/
def execBara (o : Opw) (s : State) : OutC :=
  barOp (.bara o) o s fun g b e s is =>
    match is.ag with
    | .gang gid _ => (s.arriveBar is gid g.wid b e (popLanes g.width (guardMask s is o))).checkBar g.wid b
    | .ctx _ => s

/-- BARW (12 R332). -/
def execBarw (o : Opw) (s : State) : OutC :=
  barOp (.barw o) o s fun g b _ s is =>
    match g.lastArr.find? b with
    | some p => waitBar g.wid b p s is
    | none => s

/-! ### Counters, fences, monitors, sleep -/

/-- WAITC's effect (15 R473). -/
def waitcEffect (o : Opw) (s : State) (is : Issue) : State :=
  let sh := shape false (.waitc o)
  let c := o.a.toNat % 8
  let k := uniVal s is o sh.b o.b 2
  if s.counter is.ag c ≤ k then s else s.blockAfter is.ag (.counter c k)

/-- WAITC (15 R473). -/
def execWaitc (o : Opw) (s : State) : OutC := onceOp (.waitc o) o s (waitcEffect o)

/-- The order of an operation word's AUX: 0 relaxed, 1 acquire, 2 release, 3 both (06 R169). -/
def orderOfAux (o : Opw) : Nat := o.aux.toNat / 2 % 4

/-- The scope of an operation word's AUX (06 Table 6.1). -/
def scopeOfAux (o : Opw) : Nat := o.aux.toNat / 8

/-- FENCE (13 R370). -/
def execFence (o : Opw) (s : State) : OutC :=
  onceOp (.fence o) o s fun s is => s.fence is.ag (orderOfAux o) (scopeOfAux o) allPaths

/-- Operations in flight that happen before a FENCEX join its paths as they are applied, for their own writes and for those that they
have read (06 R173). -/
def State.joinLater (s : State) (j : Join) (fls : List Nat) : State :=
  { s with flights := s.flights.map fun e => (e.1, if fls.contains e.1 then { e.2 with joins := j :: e.2.joins } else e.2) }

/-- FENCEX's effect (13 R371, 06 R173): a later access on a path of Q waits for every earlier access of the gang on the paths of P. The
paths are joined for the writes made so far, and again as the operations before it are applied; for its later LSU reads the L1 is dropped
likewise, at any scope. -/
def fencexEffect (o : Opw) (s : State) (is : Issue) : State :=
  let p := o.imm.toNat % 256
  let q := o.imm.toNat / 256 % 256
  let j : Join := { ag := is.ag, writers := p, readers := q }
  let ord := s.livePo is.ag
  let gang := match is.ag with | .gang gid _ => (s.flightsOfGang gid).map (·.id) | .ctx _ => []
  let all := (ord.1 ++ gang).eraseDups
  let cs := (all.filter fun i => match s.flights.find? i with | some f => p.testBit f.path | none => false).map
    fun i => ({ fl := i, paths := q, rd := true, wr := true, ack := false } : Con)
  let before := (s.allEarlier is.ag ++ gang).eraseDups
  let t := (((s.setOrder is.ag ord.1 (cs ++ ord.2)).fence is.ag (orderOfAux o) (scopeOfAux o) (p ||| q)).joined j).joinLater j before
  if q.testBit 0 then
    (t.dropL1 is.ag).dropLater is.ag (fun f => f.acq || p.testBit f.path || (f.rd && decide (orderOfAux o ≠ 2))) before
  else t

/-- FENCEX (13 R371). -/
def execFencex (o : Opw) (s : State) : OutC := onceOp (.fencex o) o s (fencexEffect o)

/-- The path of once-per-fragment operations at a home: NMO, or LAU on a Lauter engine (06 Table 6.5). -/
def nmoPath : Agent → Nat
  | .gang _ _ => 6
  | .ctx _ => 5

/-- The check of MON's page (14 R410, 10 R273). -/
def noTier3 : PageCheck := fun _ t => if t.isReg then some (cPROT, 1) else if t.tier = 3 then some (cPROT, 4) else none

/-- MON's effect (14 R410, R411). -/
def monEffect (o : Opw) (s : State) (is : Issue) : State :=
  let sh := shape false (.mon o)
  let path := nmoPath is.ag
  let n := match o.sub.toNat with | 0 => 4 | 1 => 8 | _ => 0
  let va := genAddr o (srcVal s is o sh.a o.a .raw 1 [] 0) (uniVal s is o sh.b o.b 2)
  let gm := guardMask s is o
  if s.counterFull is.ag path then s.blockRetry is.ag .inflight
  else
    memAccess s is path gm noTier3 [{ lane := 0, va := va, size := max n 1, align := max n 1, acc := .read }]
      fun t l => match l with
        | (_, r) :: _ =>
          let dest := match opnd o.dst with
            | .s k => if n = 0 then Dest.none else Dest.s k (n / 4) 0
            | _ => .none
          t.issueFlight { newFlight t is (.mon o) path with
            scope := scopeOfAux o, acq := orderOfAux o == 1, invals := if orderOfAux o == 1 && decide (scopeOfAux o ≥ 2) then [is.ag] else [],
            rd := true, dest := dest, accs := [acc1 0 va (r.loc (t.partOf is.ag)) (.monArm n va)] }
        | [] => t

/-- MON (14 R410, R411). -/
def execMon (o : Opw) (s : State) : OutC := onceOp (.mon o) o s (monEffect o)

/-- The monitor of an agent's gang or context (14 R411). -/
def State.monOf (s : State) : Agent → Monitor
  | .gang gid _ => ((s.gang? gid).map (·.mon)).getD Monitor.off
  | .ctx n => (s.ctx n).mon

/-- MWAIT's effect (14 R412). -/
def mwaitEffect (o : Opw) (s : State) (is : Issue) : State :=
  let sh := shape false (.mwait o)
  let t := uniVal s is o sh.a o.a 1
  let m := s.monOf is.ag
  if !m.armed || m.fired then writeAll s is 0 [.k (o.dst.toNat % 8) true]
  else s.blockAfter is.ag (.mwait (if t = 0 then 0 else is.cyc + t) (o.dst.toNat % 8))

/-- MWAIT (14 R412). -/
def execMwait (o : Opw) (s : State) : OutC := onceOp (.mwait o) o s (mwaitEffect o)

/-- SLEEP's effect (15 R453). -/
def sleepEffect (o : Opw) (s : State) (is : Issue) : State :=
  let sh := shape false (.sleep o)
  let n := uniVal s is o sh.a o.a 1
  if n = 0 then s else s.blockAfter is.ag (.sleep (is.lastPass + n))

/-- SLEEP (15 R453). -/
def execSleep (o : Opw) (s : State) : OutC := onceOp (.sleep o) o s (sleepEffect o)

end Sys2Proof.Machine
end

