-- ==== Sys2Proof/Machine/Memory.lean ====
section
/-!
DEFINITION. The memory family: LD to CCTL (12 R325-R328, R346, R347; 13 R388-R391; 14 R416, R417, R427, R434;
15 R456-R459). A bundle checks and translates its accesses at issue and leaves an operation in flight, which
HOME_APPLY and IN_FLIGHT_COMPLETION carry out.
-/
namespace Sys2Proof.Machine

/-- The check of a home operation's tier (05 Table 5.1, 12 R326) and of register space. -/
def homeCheck (f : HomeFn) : PageCheck := fun _ t =>
  if t.isReg then some (cPROT, 1)
  else if t.tier = 3 then
    match f with
    | .add _ => none
    | .cas _ => none
    | .exch _ => none
    | _ => some (cPROT, 4)
  else none

/-- The lanes that a store or atomic acts in: guarded, and no helpers (08 R240). -/
def actLanes (s : State) (is : Issue) (o : Opw) : LaneMask :=
  let gm := guardMask s is o
  match is.ag with
  | .gang gid _ => gm &&& ~~~(((s.gang? gid).map (·.helper)).getD 0)
  | .ctx _ => gm

/-- The order, scope and temporality of a memory bundle put into its operation. -/
def Flight.withAux (f : Flight) (o : Opw) (nt : Bool) : Flight :=
  let ord := orderOfAux o
  { f with scope := scopeOfAux o, acq := ord.testBit 0, rel := ord.testBit 1, nt := o.aux.getLsbD 0 || nt,
           invals := if ord.testBit 0 && decide (scopeOfAux o ≥ 2) then [f.ag] else [] }

/-- An access as a translated request makes it. -/
def accOf (s : State) (is : Issue) (r : AReq) (t : TrOk) (op : HomeOp) : Acc :=
  { acc1 r.lane r.va (t.loc (s.partOf is.ag)) op with slot := r.slot }

/-- The accesses of a translated request: one, or on tier 3, where 16 bytes are single-copy atomic only by halves (06 R163, R164), one
for each half. -/
def accsOf (s : State) (is : Issue) (r : AReq) (t : TrOk) (op : HomeOp) : List Acc :=
  let half := fun (k : Nat) (op : HomeOp) =>
    { acc1 r.lane (r.va + k) (({ t with key := t.key + k } : TrOk).loc (s.partOf is.ag)) op with slot := r.slot + k }
  match op with
  | .rd 16 => if t.tier = 3 then [half 0 (.rd 8), half 8 (.rd 8)] else [accOf s is r t op]
  | .wr 16 v table =>
    if t.tier = 3 then [half 0 (.wr 8 (v % 2 ^ 64) table), half 8 (.wr 8 (v / 2 ^ 64) table)] else [accOf s is r t op]
  | _ => [accOf s is r t op]

/-- The page attributes that an operation keeps for the accesses it makes later. -/
def pageOf (va : Nat) (t : TrOk) : PageMap :=
  { vpage := va / 4096, key := t.key - va % 4096, tso := t.tso, zb := t.zb }

/-- A load's extension by size code (13 Table 13.6). -/
def extOf (code : Nat) : Nat :=
  match code with
  | 0 => 16
  | 1 => 17
  | 2 => 32
  | 3 => 33
  | _ => 0

/-- The lanes whose requests were all translated. -/
def performed (lanes : List Nat) (reqs : List AReq) (l : List (AReq × TrOk)) : LaneMask :=
  maskOf (lanes.filter fun k => reqs.all fun r => r.lane != k || l.any fun e => e.1 == r)

/-- The registers that a destination field names, as an operation in flight writes them. -/
def Shape.destOf (sh : Shape) (o : Opw) : Dest :=
  match sh.dst.regsOf o.dst with
  | .v b :: l => .v b (l.length + 1) 0
  | .s b :: l => .s b (l.length + 1) 0
  | .k n :: _ => .k (8 + n)
  | _ => .none

/-- A bundle whose record or descriptor is poisoned: its destination becomes zero in the lanes that asked, nothing else happens,
and POISON is raised asynchronously (09 R250; log entry 10). -/
def State.poisonOp (s : State) (is : Issue) (i : Instr) (path : Nat) (dest : Dest) (lanes : LaneMask) : State :=
  s.issueFlight { newFlight s is i path with
    rd := true, dest := dest, mask := lanes,
    accs := (s.lanesAg is.ag lanes).map fun l => { acc1 l 0 .dev .none with done := true, poisoned := true } }

/-- A record read for a bundle, on the LSU path (05 R149), its validity and use checked, and the bundle continued with it. `ok`: the
use is allowed. -/
def withRec (i : Instr) (o : Opw) (s : State) (is : Issue) (path : Nat) (lanes : LaneMask) (ok : BufRec → Bool)
    (k : BufRec → State → State) : State :=
  match s.bufRec is (o.imm.toNat / 2 ^ 24) 0 lanes with
  | .trap ti t => (t.dropRefusals ti).takeCause is.ag .fault ti
  | .ats ps t => t.waitAts is.ag ps
  | .drain fls t => t.blockRetry is.ag (.drain fls)
  | .poison t => (popped i o t is).poisonOp is i path ((shape false i).destOf o) lanes
  | .ok r t =>
    if r.bad || !ok r then
      t.takeCause is.ag .fault
        { causes := cPROT, faddr := 0, fsub := Config.freeNat s.fresh 1 % 2 ^ 11, fmask := lanes }
    else k r t

/-- A request that stands for PROT under a record (05 R152). -/
def protReq (lane : Nat) (acc : Access) (reason : Nat) : AReq :=
  { lane := lane, va := 0, size := 1, acc := acc, pre := some (cPROT, reason) }

/-! ### Loads -/

/-- The requests of a part of a lane's operation, cut at a page: slot 1,024 · part + byte. -/
def partReqs (lane part va n : Nat) (acc : Access) : List AReq :=
  (piecesOf va n).map fun q => { lane := lane, va := q.1, size := q.2, acc := acc, slot := 1024 * part + (q.1 - va) }

/-- The requests of a lane's load through a record: raw bytes, or elements with their scales and codebook. -/
def recLoadReqs (r : BufRec) (lane : Nat) (x : Int) (n reason : Nat) : List AReq :=
  if r.raw then
    match r.rawAt x n with
    | .prot => [protReq lane .read reason]
    | .drop => []
    | .at p => (piecesOf (r.base + p.1) n).map fun q =>
        { lane := lane, va := q.1, size := q.2, acc := .read, slot := q.1 - (r.base + p.1) }
  else
    (List.range (n / 4)).flatMap fun (k : Nat) =>
      match r.elem (x + k) with
      | .prot => [protReq lane .read reason]
      | .drop => []
      | .at p =>
        let s := r.span p
        let data := partReqs lane (3 * k) (r.base + s.1) s.2.1 .read
        let sc :=
          if r.scale = 2 then partReqs lane (3 * k + 1) r.scaleBase 4 .read
          else if r.scale = 1 ∧ fmtScale r.fmt ≠ 0 then
            partReqs lane (3 * k + 1) (r.scaleBase + r.scaleAt p * fmtScaleBytes r.fmt) (fmtScaleBytes r.fmt) .read
          else []
        let tb := if isCb2 r.fmt then partReqs lane (3 * k + 2) r.table 512 .read else []
        data ++ sc ++ tb

/-- The bit offsets, or CB2 positions, of a lane's elements. -/
def recSubs (r : BufRec) (x : Int) (n : Nat) : List Nat :=
  (List.range (n / 4)).map fun (k : Nat) => match r.elem (x + k) with
    | .at p => (r.span p).2.2
    | _ => 0

/-- A load's operation built from its translated requests. -/
def mkLoad (i : Instr) (o : Opw) (is : Issue) (path : Nat) (nt : Bool) (dest : Dest) (lanes : List Nat)
    (reqs : List AReq) (subs : Tab (List Nat)) (t : State) (l : List (AReq × TrOk)) : State :=
  t.issueFlight { (newFlight t is i path).withAux o nt with
    rd := true, dest := dest, mask := performed lanes reqs l, lw := subs,
    accs := l.flatMap fun e => accsOf t is e.1 e.2 (.rd e.1.size) }

/-- LD's effect (13 R388, R389). -/
def ldEffect (o : Opw) (s : State) (is : Issue) : State :=
  let sh := shape false (.ld o)
  let code := o.sub.toNat % 32
  let n := sizeBytes code
  let w := sizeWords code
  let base := match opnd o.dst with | .v k => k | _ => 0
  if s.counterFull is.ag 0 then s.blockRetry is.ag .inflight else
  let gm := guardMask s is o
  let lanes := s.lanesAg is.ag gm
  let pp := takePops s is sh o
  let av := fun l => srcVal s is o sh.a o.a .raw 1 pp.1.1 l
  let bv := fun l => srcVal s is o sh.b o.b .raw 2 pp.1.2.1 l
  if o.sub.getLsbD 5 ∧ gm ≠ 0 then
    withRec (.ld o) o s is 0 gm (fun r => r.raw || decide (n ≥ 4)) fun r t =>
      let x := fun l => exactSum o (av l) (bv l)
      let reqs := lanes.flatMap fun l => recLoadReqs r l (x l) n (Config.freeNat s.fresh 3 % 8)
      let dest := if r.raw then Dest.v base w (extOf code) else .elem base w r.fmt r.scale
      memAccess t is 0 0 (regAccess n) reqs
        (mkLoad (.ld o) o is 0 r.nt dest lanes reqs (lanes.map fun l => (l, recSubs r (x l) n))) (popped (.ld o) o · is)
  else
    let reqs := lanes.map fun l =>
      ({ lane := l, va := genAddr o (av l) (bv l), size := n, align := n, acc := .read } : AReq)
    memAccess s is 0 0 (regAccess n) reqs
      (mkLoad (.ld o) o is 0 false (.v base w (extOf code)) lanes reqs []) (popped (.ld o) o · is)

/-- Is the record number of a BR form out of the table? -/
def brBad (o : Opw) (s : State) (is : Issue) : Bool := o.sub.getLsbD 5 && recBound o s is

/-- LD (13 R388, R389). -/
def execLd (o : Opw) (s : State) : OutC := issueOp (.ld o) o s (brBad o s) noRd noMore (ldEffect o s)

/-- LDK's effect (13 R390). -/
def ldkEffect (o : Opw) (s : State) (is : Issue) : State :=
  let sh := shape false (.ldk o)
  let code := o.sub.toNat % 32
  let n := sizeBytes code
  let path := match is.ag with | .gang _ _ => 0 | .ctx _ => 5
  let base := match opnd o.dst with | .s k => k | _ => 0
  if s.counterFull is.ag path then s.blockRetry is.ag .inflight else
  let va := genAddr o (srcVal s is o sh.a o.a .raw 1 [] 0) (uniVal s is o sh.b o.b 2)
  let reqs : List AReq := [{ lane := 0, va := va, size := n, align := n, acc := .read }]
  memAccess s is path (guardMask s is o) (regAccess n) reqs
    (mkLoad (.ldk o) o is path false (.s base (sizeWords code) (extOf code)) [0] reqs [])

/-- LDK (13 R390). -/
def execLdk (o : Opw) (s : State) : OutC := onceOp (.ldk o) o s (ldkEffect o)

/-- A scratchpad operation, its bounds tested at decode (05 R125): alignment checked, then built. A scope wider than cluster acts at
cluster scope (06 R168). -/
def scrAccess (i : Instr) (o : Opw) (s : State) (is : Issue) (n accCode : Nat) (lanes : List Nat)
    (offs : Nat → Int) (op : Nat → HomeOp) (dest : Dest) (rd wr : Bool) : State :=
  match s.scrOf is.ag with
  | none => s
  | some (wid, _) =>
    match scrCheck 0 accCode (lanes.map fun l => (l, offs l, n)) with
    | some ti => s.takeCause is.ag .fault ti
    | none =>
      (popped i o s is).issueFlight { (newFlight s is i 0).withAux o false with
        scope := min (scopeOfAux o) 2, rd := rd, wr := wr, dest := dest, mask := maskOf lanes,
        accs := lanes.map fun l => acc1 l (offs l).toNat (.scr wid (offs l).toNat) (op l) }

/-- LDS's effect (13 R391). -/
def ldsEffect (o : Opw) (s : State) (is : Issue) : State :=
  let sh := shape false (.lds o)
  let code := o.sub.toNat % 32
  let n := sizeBytes code
  let base := match opnd o.dst with | .v k => k | _ => 0
  if s.counterFull is.ag 0 then s.blockRetry is.ag .inflight else
  let pp := takePops s is sh o
  let offs := fun l => exactSum o (srcVal s is o sh.a o.a .raw 1 pp.1.1 l) (srcVal s is o sh.b o.b .raw 2 pp.1.2.1 l)
  scrAccess (.lds o) o s is n 0 (s.lanesAg is.ag (guardMask s is o)) offs (fun _ => .rd n)
    (.v base (sizeWords code) (extOf code)) true false

/-- LDS (13 R391). -/
def execLds (o : Opw) (s : State) : OutC := issueOp (.lds o) o s noBad noRd noMore (ldsEffect o s)

/-! ### Stores -/

/-- The tensor header that stores through a record name (`tableOf`); 0 for none (05 R150, R160). -/
def tableKey (s : State) (ag : Agent) (r : BufRec) : Nat :=
  if r.enc = 1 then
    match s.trAg ag r.table .read with
    | .ok t => if t.isReg || r.table % 512 ≠ 0 then 0 else tableOf t.key
    | _ => 0
  else 0

/-- What a store does in a request, told the pieces of its stored scale. -/
abbrev StOp := List (Nat × Nat) → HomeOp

/-- The requests of bits written at an address, cut at a page: `op off len lo` writes the bits from `lo` on that lie in a piece, at bit
`off` of it. -/
def bitParts (lane part va bits off len : Nat) (op : Nat → Nat → Nat → StOp) : List (AReq × StOp) :=
  (partReqs lane part va bits .write).map fun q =>
    let skip := 8 * (q.slot % 1024)
    let lo := if skip = 0 then 0 else skip - off
    let at_ := if skip = 0 then off else 0
    (q, op at_ (min (8 * q.size - at_) (len - lo)) lo)

/-- An element that a store writes: lane, place, value. -/
structure ElemSt where
  lane : Nat
  place : Nat × Nat
  val : Nat
deriving DecidableEq, Repr

/-- Of elements for the same place, the last. -/
def lastElems (l : List ElemSt) : List ElemSt :=
  l.foldr (fun e acc => if acc.any (fun f => f.place == e.place) then acc else e :: acc) []

/-- The elements a lane stores, a place clamped to more than once keeping its highest-numbered value (05 R152). -/
def laneElems (r : BufRec) (lane : Nat) (x : Int) (n v : Nat) : List ElemSt :=
  let l := (List.range (n / 4)).filterMap fun (k : Nat) =>
    match r.elem (x + k) with
    | .at p => some ({ lane := lane, place := p, val := v / 2 ^ (32 * k) % 2 ^ 32 } : ElemSt)
    | _ => none
  lastElems l

/-- The exact value of a lane's word for a format (05 R154). -/
def wordVal (fmt v : Nat) : RVal := if fmtIsInt fmt then ofInt false (sextNat v 32) 1 else fp32.decode v

/-- The elements of the block or row that a scale position covers. -/
def BufRec.blockLen (r : BufRec) (p : Nat × Nat) : Nat :=
  let total := if r.stride = 0 then r.fit r.extent else r.stride
  if fmtBlock r.fmt = 0 then total
  else
    let q := if r.stride = 0 then p.2 else p.2 / 2 ^ r.inter
    min (fmtBlock r.fmt) (total - q / fmtBlock r.fmt * fmtBlock r.fmt)

/-- A store's parts through a record: requests, each with what it does where it acts (05 R154). -/
def elemStores (r : BufRec) (table : Nat) (es : List ElemSt) : List (AReq × StOp) :=
  let len := fmtBits r.fmt
  let scaled := decide (r.scale = 1) && decide (fmtScale r.fmt ≠ 0)
  let sb := fmtScaleBytes r.fmt
  es.zipIdx.flatMap fun (e, ix) =>
    let sp := r.span e.place
    let plain := fun (w : Nat) => bitParts e.lane (2 * ix) (r.base + sp.1) sp.2.1 sp.2.2 len
      fun off n lo _ => .wbits off n (w / 2 ^ lo) table
    let stored := fun (va n kind : Nat) =>
      (partReqs e.lane (2 * ix + 1) va n .read).map (fun q => (q, fun (_ : List (Nat × Nat)) => HomeOp.none)) ++
        bitParts e.lane (2 * ix) (r.base + sp.1) sp.2.1 sp.2.2 len
          fun off n lo scale => .welem r.fmt off e.val scale kind table lo n
    if scaled then
      let pos := r.scaleAt e.place
      let mates := es.filter fun f => r.scaleAt f.place == pos
      let places := (mates.map (·.place)).eraseDups
      let scaleVa := r.scaleBase + pos * sb
      if places.length = r.blockLen e.place then
        let vals := places.map fun p => wordVal r.fmt (((mates.filter fun f => f.place == p).getLastD e).val)
        let fb := freshBlock r.fmt vals
        let st := plain (fb.2.getD (places.idxOf e.place) 0)
        if (mates.headD e) == e then
          (bitParts e.lane (2 * ix + 1) scaleVa sb 0 (8 * sb) fun off n lo _ => .wbits off n (fb.1 / 2 ^ lo) table) ++ st
        else st
      else stored scaleVa sb (fmtScale r.fmt)
    else if r.scale = 2 then stored r.scaleBase 4 3
    else plain (toElem r.fmt (wordVal r.fmt e.val))

/-- A store's operation built from its translated requests; an element with a stored scale is told the scale's pieces. -/
def mkStore (i : Instr) (o : Opw) (is : Issue) (path : Nat) (nt : Bool) (lanes : List Nat)
    (parts : List (AReq × StOp)) (t : State) (l : List (AReq × TrOk)) : State :=
  let reqs := parts.map (·.1)
  let scale := fun (r : AReq) =>
    (l.filter fun e => e.1.lane == r.lane && e.1.slot / 1024 == r.slot / 1024 + 1).map fun (e : AReq × TrOk) =>
      (2 * e.2.key + e.2.zb.toNat, e.1.size)
  let accs := l.flatMap fun e =>
    match parts.find? (fun p => p.1 == e.1) with
    | some p => match p.2 (scale e.1) with
      | .none => []
      | op => accsOf t is e.1 e.2 op
    | none => []
  t.issueFlight { (newFlight t is i path).withAux o nt with
    wr := true, mask := performed lanes reqs l, accs := accs }

/-- The parts of a raw or generic store of `n` bytes. -/
def rawStore (lane va n align v table : Nat) : List (AReq × StOp) :=
  if align = n then
    [({ lane := lane, va := va, size := n, align := n, acc := .write }, fun _ => .wr n (v % 256 ^ n) table)]
  else (piecesOf va n).map fun q =>
    ({ lane := lane, va := q.1, size := q.2, acc := .write, slot := q.1 - va },
     fun _ => .wr q.2 (v / 256 ^ (q.1 - va) % 256 ^ q.2) table)

/-- ST's effect (15 R456, R457). -/
def stEffect (o : Opw) (s : State) (is : Issue) : State :=
  let sh := shape false (.st o)
  let n := sizeBytes (o.sub.toNat % 32)
  if s.counterFull is.ag 0 then s.blockRetry is.ag .inflight else
  let gm := actLanes s is o
  let lanes := s.lanesAg is.ag gm
  let pp := takePops s is sh o
  let av := fun l => srcVal s is o sh.a o.a .raw 1 pp.1.1 l
  let bv := fun l => srcVal s is o sh.b o.b .raw 2 pp.1.2.1 l
  let cv := fun l => srcVal s is o sh.c o.c .raw 3 pp.1.2.2 l
  let go := fun (t : State) (nt : Bool) (parts : List (AReq × StOp)) =>
    memAccess t is 0 0 (regAccess n) (parts.map (·.1)) (mkStore (.st o) o is 0 nt lanes parts) (popped (.st o) o · is)
  if o.sub.getLsbD 5 ∧ gm ≠ 0 then
    withRec (.st o) o s is 0 gm
      (fun r => r.write && !(isCb2 r.fmt) && (r.raw || decide (n ≥ 4))) fun r t =>
      let x := fun l => exactSum o (av l) (bv l)
      let reason := Config.freeNat s.fresh 3 % 8
      let table := tableKey t is.ag r
      if r.raw then
        go t r.nt (lanes.flatMap fun l =>
          match r.rawAt (x l) n with
          | .prot => [(protReq l .write reason, fun _ => HomeOp.none)]
          | .drop => []
          | .at p => rawStore l (r.base + p.1) n 0 (cv l) table)
      else
        let prots := lanes.filter fun l => (List.range (n / 4)).any fun (k : Nat) => r.elem (x l + k) == .prot
        let es := (lanes.filter fun l => !(prots.contains l)).flatMap fun l => laneElems r l (x l) n (cv l)
        go t r.nt (prots.map (fun l => (protReq l .write reason, fun _ => HomeOp.none)) ++ elemStores r table es)
  else
    go s false (lanes.flatMap fun l => rawStore l (genAddr o (av l) (bv l)) n n (cv l) 0)

/-- ST (15 R456, R457). -/
def execSt (o : Opw) (s : State) : OutC := issueOp (.st o) o s (brBad o s) noRd noMore (stEffect o s)

/-- STK's effect (15 R458). -/
def stkEffect (o : Opw) (s : State) (is : Issue) : State :=
  let sh := shape false (.stk o)
  let n := sizeBytes (o.sub.toNat % 32)
  let path := match is.ag with | .gang _ _ => 0 | .ctx _ => 5
  if s.counterFull is.ag path then s.blockRetry is.ag .inflight else
  let va := genAddr o (srcVal s is o sh.a o.a .raw 1 [] 0) (uniVal s is o sh.b o.b 2)
  let parts := rawStore 0 va n n (srcVal s is o sh.c o.c .raw 3 [] 0) 0
  memAccess s is path (guardMask s is o) (regAccess n) (parts.map (·.1)) (mkStore (.stk o) o is path false [0] parts)

/-- STK (15 R458). -/
def execStk (o : Opw) (s : State) : OutC := onceOp (.stk o) o s (stkEffect o)

/-- STS's effect (15 R459). -/
def stsEffect (o : Opw) (s : State) (is : Issue) : State :=
  let sh := shape false (.sts o)
  let n := sizeBytes (o.sub.toNat % 32)
  if s.counterFull is.ag 0 then s.blockRetry is.ag .inflight else
  let pp := takePops s is sh o
  let offs := fun l => exactSum o (srcVal s is o sh.a o.a .raw 1 pp.1.1 l) (srcVal s is o sh.b o.b .raw 2 pp.1.2.1 l)
  scrAccess (.sts o) o s is n 1 (s.lanesAg is.ag (actLanes s is o)) offs
    (fun l => .wr n (srcVal s is o sh.c o.c .raw 3 pp.1.2.2 l % 256 ^ n) 0) .none false true

/-- STS (15 R459). -/
def execSts (o : Opw) (s : State) : OutC := issueOp (.sts o) o s noBad noRd noMore (stsEffect o s)

/-! ### Atomics and near-memory operations -/

/-- The home operation of an atomic's operands (12 Table 12.1): first and second operand of its width. -/
def rmwOf (f : HomeFn) (w v : Nat) : HomeOp :=
  match f with
  | .gath8 => .gath v
  | _ => .rmw f (v % 2 ^ w) (v / 2 ^ w % 2 ^ w) (w / 8)

/-- The constant of an atomic's operand (11 R307): a packed pair of halves for FADD on one. -/
def rmwWiden (f : HomeFn) : Widen :=
  match f with
  | .fadd .bf2 => .half true
  | .fadd .hf2 => .half false
  | _ => .raw

/-- Has a GATH8 index word a byte with bits [7:5] set (05 R131)? -/
def gathBad (v : Nat) : Bool := (List.range 8).any fun i => v / 256 ^ i % 256 ≥ 32

/-- An atomic or near-memory operation in a list of lanes: requests and what each does. -/
def rmwParts (f : HomeFn) (w : Nat) (lanes : List Nat) (va : Nat → Option Nat) (v : Nat → Nat) :
    List (AReq × StOp) :=
  let size := if f = .gath8 then 128 else w / 8
  let acc : Access := if f = .gath8 then .read else .rmw
  lanes.filterMap fun l =>
    match va l with
    | none => none
    | some a => some (
        { lane := l, va := a, size := size, align := size, acc := acc },
        fun _ => rmwOf f w (v l))

/-- The operation of an atomic built from its translated requests. -/
def mkRmw (i : Instr) (o : Opw) (is : Issue) (path : Nat) (nt : Bool) (dest : Dest) (wr : Bool) (lanes : List Nat)
    (parts : List (AReq × StOp)) (t : State) (l : List (AReq × TrOk)) : State :=
  let accs := l.filterMap fun e =>
    match parts.find? (fun p => p.1 == e.1) with
    | some p => some (accOf t is e.1 e.2 (p.2 []))
    | none => none
  t.issueFlight { (newFlight t is i path).withAux o nt with
    rd := true, wr := wr, dest := dest, mask := performed lanes (parts.map (·.1)) l, accs := accs }

/-- The destination of an atomic; ADD.LIM returns as any other (12 R326). -/
def rmwDest (o : Opw) (w : Nat) : Dest :=
  match opnd o.dst with
  | .v k => .v k (w / 32) 0
  | .s k => .s k (w / 32) 0
  | _ => .none

/-- The effect of ATOM, RED and NMOP (12 R326, 14 R417, R434): `idx` forms the exact sum and the generic address. -/
def rmwEffect (i : Instr) (o : Opw) (path : Nat) (scalar : Bool) (dest : Dest) (f : HomeFn) (w : Nat)
    (sum : Nat → Nat → Int) (s : State) (is : Issue) : State :=
  let sh := shape false i
  if s.counterFull is.ag path then s.blockRetry is.ag .inflight else
  let gm := if scalar then guardMask s is o else actLanes s is o
  if scalar && gm = 0 then s else
  let lanes := if scalar then [0] else s.lanesAg is.ag gm
  let smask := if scalar then gm else 0
  let pp := takePops s is sh o
  let av := fun l => srcVal s is o sh.a o.a .raw 1 pp.1.1 l
  let bv := fun l => srcVal s is o sh.b o.b .raw 2 pp.1.2.1 l
  let cv := fun l => srcVal s is o sh.c o.c (rmwWiden f) 3 pp.1.2.2 l
  let wr := f ≠ .gath8
  let bad := if f = .gath8 then lanes.filter fun l => gathBad (cv l) else []
  if !bad.isEmpty then
    s.takeCause is.ag .fault
      { causes := cILLOP, faddr := 0, fsub := Config.freeNat s.fresh 1 % 2 ^ 11, fmask := if scalar then gm else maskOf bad }
  else
  let size := if f = .gath8 then 128 else w / 8
  if o.sub.getLsbD 5 ∧ gm ≠ 0 then
    withRec i o s is path gm (fun r => r.raw && r.atomic) fun r t =>
      let reason := Config.freeNat s.fresh 3 % 8
      let at_ := fun l => r.rawAt (sum (av l) (bv l)) size
      let prots := lanes.filter fun l => at_ l == .prot
      let parts := prots.map (fun l => (protReq l .rmw reason, fun (_ : List (Nat × Nat)) => HomeOp.none)) ++
        rmwParts f w (lanes.filter fun l => !(prots.contains l))
          (fun l => match at_ l with | .at p => some (r.base + p.1) | _ => none) cv
      memAccess t is path smask (homeCheck f) (parts.map (·.1)) (mkRmw i o is path r.nt dest wr lanes parts)
        (popped i o · is)
  else
    let parts := rmwParts f w lanes (fun l => some (wrapInt (sum (av l) (bv l)) 64)) cv
    memAccess s is path smask (homeCheck f) (parts.map (·.1)) (mkRmw i o is path false dest wr lanes parts)
      (popped i o · is)

/-- ATOM (12 R325-R327). -/
def execAtom (o : Opw) (s : State) : OutC :=
  match homeOpOf (o.sub.toNat % 32) with
  | some (f, w, _) =>
    issueOp (.atom o) o s (brBad o s) noRd noMore (rmwEffect (.atom o) o 0 false (rmwDest o w) f w (exactSum o) s)
  | none => issueOp (.atom o) o s noBad noRd noMore fun _ => s

/-- RED (14 R434). -/
def execRed (o : Opw) (s : State) : OutC :=
  match homeOpOf (o.sub.toNat % 32) with
  | some (f, w, _) =>
    issueOp (.red o) o s (brBad o s) noRd noMore (rmwEffect (.red o) o 0 false .none f w (exactSum o) s)
  | none => issueOp (.red o) o s noBad noRd noMore fun _ => s

/-- The exact sum of NMOP's address: a 23-bit displacement (14 R416). -/
def nmopSum (o : Opw) (base idx : Nat) : Int := (base : Int) + sextNat idx 32 + sextNat o.imm.toNat 23

/-- NMOP (14 R416, R417). -/
def execNmop (o : Opw) (s : State) : OutC :=
  match homeOpOf (o.sub.toNat % 32) with
  | some (f, w, _) =>
    let dest := if o.imm.getLsbD 23 then Dest.none else rmwDest o w
    issueOp (.nmop o) o s (brBad o s) noRd noMore fun is =>
      rmwEffect (.nmop o) o (nmoPath is.ag) (nmopScalar o) dest f w (nmopSum o) s is
  | none => issueOp (.nmop o) o s noBad noRd noMore fun _ => s

/-- ATOMS' effect (12 R328). -/
def atomsEffect (o : Opw) (f : HomeFn) (w : Nat) (s : State) (is : Issue) : State :=
  let sh := shape false (.atoms o)
  if s.counterFull is.ag 0 then s.blockRetry is.ag .inflight else
  let pp := takePops s is sh o
  let offs := fun l => exactSum o (srcVal s is o sh.a o.a .raw 1 pp.1.1 l) (srcVal s is o sh.b o.b .raw 2 pp.1.2.1 l)
  scrAccess (.atoms o) o s is (w / 8) 2 (s.lanesAg is.ag (actLanes s is o)) offs
    (fun l => rmwOf f w (srcVal s is o sh.c o.c (rmwWiden f) 3 pp.1.2.2 l)) (rmwDest o w) true true

/-- ATOMS (12 R328). -/
def execAtoms (o : Opw) (s : State) : OutC :=
  match homeOpOf (o.sub.toNat % 32) with
  | some (f, w, _) => issueOp (.atoms o) o s noBad noRd noMore (atomsEffect o f w s)
  | none => issueOp (.atoms o) o s noBad noRd noMore fun _ => s

/-! ### Prefetch and cache control -/

/-- The lines that a core's L1 has room for (01 R17, 05 R133): 256 KiB, less the scratchpad of the workgroups on the core. -/
def State.l1Room (s : State) (core : Nat) : Nat := 
  let held := ((s.wgs.filter fun x => x.2.onChip).flatMap fun x => s.roomOf x.2).filter fun r => r.core == core
  (256 * 1024 - (held.map fun r => r.scratch).sum) / 128

/-- A line brought into a core's L1 as a read of it sees it (05 R132, R155); a line with poison stays out. When the L1 is full another of its
lines goes, whichever (log entry 77). -/
def State.fillL1 (s : State) (core key : Nat) (zb : Bool) : State :=
  if s.l1.any fun l => l.core == core && l.line == key / 128 then s
  else
    let r := s.memRead (key / 128 * 128) 128 zb
    let mine := s.l1.filter fun l => l.core == core
    let room := s.l1Room core
    let out := if mine.length < room then none else mine[Config.freeNat s.fresh (2 ^ 57 + key / 128) % mine.length]?
    if r.2 || room = 0 then s
    else { s with l1 := { core := core, line := key / 128, data := toBytes 128 r.1, behind := [] } ::
             s.l1.filter fun l => some l != out }

/-- The core whose L1 holds a line for an agent: its own, or under fusion the cluster's core pa[9:7] (05 R135). -/
def State.l1Core (s : State) (ag : Agent) (core key : Nat) : Nat :=
  let fused : Bool := match ag with
    | .gang gid _ => ((s.gang? gid).bind fun g => s.wgOf g).any (·.fused)
    | .ctx _ => false
  if fused then 8 * clusterOf core + key / 128 % 8 else core

/-- PREF's effect (14 R427): lanes that would raise a cause do nothing. -/
def prefEffect (o : Opw) (s : State) (is : Issue) : State :=
  let sh := shape false (.pref o)
  let gm := guardMask s is o
  let pp := takePops s is sh o
  let av := fun l => srcVal s is o sh.a o.a .raw 1 pp.1.1 l
  let bv := fun l => srcVal s is o sh.b o.b .raw 2 pp.1.2.1 l
  let fill := fun (t : State) (vas : List Nat) =>
    if o.sub.toNat % 32 ≠ 0 then t else
    vas.foldl (fun t va =>
      match t.trAg is.ag va .read with
      | .ok r => if r.isReg || r.tier == 3 || r.tso then t else t.fillL1 (t.l1Core is.ag (t.unitOf is.ag) r.key) r.key r.zb
      | _ => t) t
  let lanes := s.lanesAg is.ag gm
  if o.sub.getLsbD 5 then
    if gm = 0 then pp.2 else
    match pp.2.bufRec is (o.imm.toNat / 2 ^ 24) 0 gm with
    | .ok r t =>
      if r.bad then t else
      fill t (lanes.filterMap fun l =>
        let x := exactSum o (av l) (bv l)
        if r.raw then (match r.rawAt x 1 with | .at p => some (r.base + p.1) | _ => none)
        else match r.elem x with | .at p => some (r.base + (r.span p).1) | _ => none)
    | r => r.after
  else fill pp.2 (lanes.map fun l => genAddr o (av l) (bv l))

/-- PREF (14 R427). -/
def execPref (o : Opw) (s : State) : OutC := issueOp (.pref o) o s (brBad o s) noRd noMore (prefEffect o s)

/-- A cache-control operation with no accesses: it travels on the LSU path (12 R347). -/
def cctlFlight (i : Instr) (s : State) (is : Issue) : State := s.issueFlight (newFlight s is i 0)

/-- The instruction caches that IINV of an agent on core `own` clears (12 Table 12.5): does its scope include a core? -/
def iinvHits (s : State) (ag : Agent) (own scope core : Nat) : Bool :=
  let fused : Bool := match ag with
    | .gang gid _ => ((s.gang? gid).bind fun g => s.wgOf g).any (·.fused)
    | .ctx _ => false
  if scope ≥ 3 then true
  else if scope = 2 || fused then clusterOf core == clusterOf own
  else core == own

/-- CCTL.IINV (12 R346, R347): it clears the caches when it is applied, after the accesses that a fence puts before it (06 R179). -/
def execCctlIinv (o : Opw) (s : State) : OutC :=
  onceOp (.cctlIinv o) o s fun s is =>
    if s.counterFull is.ag 0 then s.blockRetry is.ag .inflight else
    let f := newFlight s is (.cctlIinv o) 0
    s.issueFlight { f with rd := true, wr := true, scope := scopeOfAux o, accs := [acc1 0 0 .dev (.iinv (scopeOfAux o))] }

/-- CCTL.L1INV (12 R346). -/
def execCctlL1inv (o : Opw) (s : State) : OutC :=
  onceOp (.cctlL1inv o) o s fun s is =>
    if s.counterFull is.ag 0 then s.blockRetry is.ag .inflight else
    cctlFlight (.cctlL1inv o) (s.dropL1 is.ag) is

/-- The effect of CCTL.L2WB and CCTL.L2EV (12 R346, R347): each page of each lane's range is translated as a load. -/
def cctlL2 (i : Instr) (o : Opw) (ev : Bool) (s : State) (is : Issue) : State :=
  let sh := shape false i
  if s.counterFull is.ag 0 then s.blockRetry is.ag .inflight else
  let pp := takePops s is sh o
  let lanes := s.lanesAg is.ag (guardMask s is o)
  let reqs := lanes.flatMap fun l =>
    let va := genAddr o (srcVal s is o sh.a o.a .raw 1 pp.1.1 l) (srcVal s is o sh.b o.b .raw 2 pp.1.2.1 l)
    let len := srcVal s is o sh.c o.c .raw 3 pp.1.2.2 l
    if len = 0 then [] else
    let lo := va / 128 * 128
    let hi := alignUp (va + len) 128
    (List.range ((hi - 1) / 4096 + 1 - lo / 4096)).map fun k =>
      let a := max lo ((lo / 4096 + k) * 4096)
      let b := min hi ((lo / 4096 + k + 1) * 4096)
      ({ lane := l, va := a, size := b - a, acc := .read, slot := k } : AReq)
  memAccess s is 0 0 noReg reqs (fun t l =>
    t.issueFlight { newFlight t is i 0 with
      mask := performed lanes reqs l,
      accs := (l.filter fun e => decide (e.2.tier < 2) || e.2.tier == poisonTier).map fun e =>
        accOf t is e.1 e.2 (if e.2.tier = poisonTier then .rd 1 else .wback e.1.size ev) })
    (popped i o · is)

/-- CCTL.L2WB (12 R346). -/
def execCctlL2wb (o : Opw) (s : State) : OutC :=
  issueOp (.cctlL2wb o) o s noBad noRd noMore (cctlL2 (.cctlL2wb o) o false s)

/-- CCTL.L2EV (12 R346). -/
def execCctlL2ev (o : Opw) (s : State) : OutC :=
  issueOp (.cctlL2ev o) o s noBad noRd noMore (cctlL2 (.cctlL2ev o) o true s)

end Sys2Proof.Machine
end

