-- ==== Sys2Proof/Machine/Stream.lean ====
section
/-!
DEFINITION. Messages to other chips and to the host, and the request streams of 06 R182-R184.
-/
namespace Sys2Proof.Machine

/-- Kinds of messages between chips and to the host: 1 ATS translation request, 2 page request, 3 launch copy, 4 report,
5 start, 6 abort, 7 request to a peer chip's home, 8 its acknowledgement, 10 a request sent again, 11 Unsupported Request, 12 a cohort share, 13 a cohort release. -/
def msgCopy : Nat := 3
def msgReport : Nat := 4
def msgStart : Nat := 5
def msgAbort : Nat := 6

/-- A message sent over the fabric. -/
def State.fabSend (s : State) (kind : Nat) (args : List Nat) : State :=
  { s with fabricOut := s.fabricOut ++ [{ kind := kind, args := args }] }

/-- The lowest link of a mask. -/
def lowLink (m : Nat) : Nat := ((List.range 18).find? fun k => m.testBit k).getD 18

/-- The messages of requests to a peer chip: each begins with the peer and the three identifiers of R182. To a home: the address and the path
(06 R178). A chip's
share of a cohort's phase, to the origin, and the phase's release (12 R352). -/
def msgRequest : Nat := 7
def msgShare : Nat := 12
def msgRelease : Nat := 13

/-- The slot under which the task scheduler's requests of a launch stand; those of the front end for queue q stand under the next ones. -/
def schedSlot : Nat := 2 ^ 21

/-- A slot's path takes its stream (06 R182): its own; a number that no stream has; or, with every number of 16 bits in use, one without
unacknowledged requests, whose numbering goes on. -/
def State.takeStream (s : State) (slot path : Nat) : State × Nat :=
  match s.streams.find? fun x => x.slot == slot && x.path == path with
  | some x => (s, x.num)
  | none =>
    let nums := (s.streams.map fun x => x.num).eraseDups
    if nums.length < 2 ^ 16 then (s, nums.length)
    else
      let n := (nums.find? fun n => !(s.streams.any fun x => x.num == n && !x.unacked.isEmpty)).getD 0
      ({ s with streams := s.streams.map fun x => if x.num == n then { x with slot := slot, path := path } else x }, n)

/-- The first of some streams that has an unacknowledged request has its oldest acknowledged. -/
def ackOldest (num : Nat) : List Stream → List Stream
  | [] => []
  | x :: t => if x.num == num && !x.unacked.isEmpty then { x with unacked := x.unacked.drop 1 } :: t else x :: ackOldest num t

/-- A write-class request of a slot's path to a peer chip (06 R182): it takes the next number that its stream has for that chip, whose home
applies them in sequence order (10 R283, log entry 48), on a link of the route, and goes out with its identifiers. A 65th unacknowledged
request of the stream waits for one to be acknowledged. `fl`: the operation that made it. -/
def State.sendReq (s : State) (slot path peer fl kind : Nat) (body : List Nat) : State :=
  let q := s.takeStream slot path
  let mine := fun (x : Stream) => x.num == q.2 && x.peer == peer
  let old := (q.1.streams.find? mine).getD
    { slot := slot, path := path, peer := peer, num := q.2, seq := 0, unacked := [], link := lowLink (s.routeMask peer) }
  let full := decide (((q.1.streams.filter fun x => x.num == q.2).map fun x => x.unacked.length).sum ≥ 64)
  let l := if full then ackOldest q.2 q.1.streams else q.1.streams
  let go := fun (x : Stream) => { x with seq := (x.seq + 1) % 2 ^ 32, unacked := x.unacked ++ [(x.seq, fl)] }
  let t := { q.1 with streams := if l.any mine then l.map fun x => if mine x then go x else x else l ++ [go old] }
  t.fabSend kind ([peer, s.chip, old.num, old.seq] ++ body)

/-- Is an operation write-class (06 R182)? -/
def HomeOp.writes : HomeOp → Bool
  | .wr _ _ _ => true
  | .wbits _ _ _ _ => true
  | .welem _ _ _ _ _ _ _ _ => true
  | .rmw _ _ _ _ => true
  | .cbInit _ _ => true
  | .cbArrive _ _ => true
  | .gath _ => true
  | .merge _ _ _ _ _ _ => true
  | .refsDec _ _ _ => true
  | .or64 _ => true
  | _ => false

/-- The requests that an access of an operation makes of a peer chip. -/
def State.sendStream (s : State) (f : Flight) (a : Acc) : State :=
  match a.loc with
  | .mem k _ _ => if keyTier k = 2 ∧ a.op.writes then s.sendReq f.slot f.path (peerOf k) f.id msgRequest [k, f.path] else s
  | _ => s

/-- The request that a write of a range on a path makes of a peer chip. -/
def State.sendSpot (s : State) (f : Flight) (p : Spot) : State :=
  match p with
  | .mem k _ => if keyTier k = 2 then s.sendReq f.slot f.path (peerOf k) f.id msgRequest [k, f.path] else s
  | .scr _ _ => s

/-- The request that a write of the device's own makes of a peer chip. -/
def State.sendDev (s : State) (key : Nat) : State :=
  if keyTier key = 2 then s.sendReq schedSlot 8 (peerOf key) 0 msgRequest [key, 8] else s

end Sys2Proof.Machine
end

