-- ==== Sys2Proof/Machine/Device.lean ====
section
/-!
DEFINITION. What the device's own units do in memory outside any bundle: reads and writes under a PASID (03 R57, R64,
R479), error records (03 R62, 10 R277), Lauter fault records (10 R278).
-/
namespace Sys2Proof.Machine

/-- What a read or write by the device gives: a value, a fault at an address, or a wait for the host's translation of a
page or for a migration. -/
inductive DRes (α : Type) where
  | ok (a : α) (s : State)
  | fault (va : Nat) (s : State)
  | wait (w : Option (Nat × Nat))

/-- A request for the host's translation of a page goes out (09 R263), or a hold begins (10 R284). -/
def State.askAts (s : State) (w : Option (Nat × Nat)) : State :=
  match w with
  | none => s
  | some (pasid, page) => s.askPage pasid page

/-- A result followed by a further step; a wait undoes nothing, since the event's state is not kept. -/
def DRes.bind {α β : Type} (r : DRes α) (f : α → State → DRes β) : DRes β :=
  match r with
  | .ok a s => f a s
  | .fault va s => .fault va s
  | .wait w => .wait w

/-- The partition that owns a PASID (10 R275). -/
def State.ownerOf (s : State) (pasid : Nat) : Nat := natBits (s.peekN (s.dev.pasidtab.toNat + 8 * pasid) 8) 63 61

/-- The partition for which the front end makes a queue's accesses (03 R57, 10 R274, R275): the PASID's owner while PART_MASK names it, as
at the enable; else one that PART_MASK names, for which the translation fails, or 8 for none. -/
def State.frontPart (s : State) (w : WorkQ) : Nat :=
  if w.partMask.testBit (s.ownerOf w.pasid) then s.ownerOf w.pasid
  else ((List.range 8).find? fun n => w.partMask.testBit n).getD 8

/-- A range cut at multiples of 512 bytes, so that each piece lies in one page and one ZB block. -/
def devPieces (va n : Nat) : List (Nat × Nat) :=
  if n = 0 then [] else
  (List.range ((va + n - 1) / 512 + 1 - va / 512)).map fun (k : Nat) =>
    let a := max va ((va / 512 + k) * 512)
    (a, min (va + n) ((va / 512 + k + 1) * 512) - a)

/-- A refusal by the host, or a hold whose time is over, has had its effect (09 R263, 10 R284). -/
def State.devFail (s : State) (pasid reason : Nat) : State :=
  (if reason = 6 then { s with atc := s.atc.filter fun t => t.2.2 ≠ 0 } else s).dropFar pasid

/-- Was an RTRACE issued in supervisor handler mode, so that it reaches pages with the user bit clear (09 Table 9.5)? -/
def Flight.sup (f : Flight) : Bool := match f.instr with | .rtrace _ => f.sw.getD 2 0 == 1 | _ => false

/-- A read by the device of pieces under a PASID, with user permission: a home read, or a read on the path of the operation `who` for which
it is made, with that one's permission (06 R176); a port whose region retrains holds it (10 R287). -/
def devReadGo (who : Option Flight) (unit pasid part : Nat) : List (Nat × Nat) → State → DRes Nat
  | [], s => .ok 0 s
  | (va, n) :: rest, s =>
    match s.translate unit pasid part va .read (who.any Flight.sup) with
    | .fault _ r => .fault va (s.devFail pasid r)
    | .ats p => .wait (some (pasid, p))
    | .ok t =>
      match s.farGate unit pasid t.key with
      | some none => .fault va (s.devFail pasid 0)
      | some (some p) => .wait (some (pasid, p))
      | none =>
        if s.portHeld t.key s.cycle then .wait none else
        let v := match who with
          | some f => s.spotFind f (.mem t.key t.zb) n t.tso
          | none =>
            let u := s.seeHost t.key
            let r := u.memRead t.key n t.zb
            (r.1, r.2, u)
        if v.2.1 then .fault va v.2.2
        else (devReadGo who unit pasid part rest ((v.2.2.noteUseEv unit pasid t).countXfer t.key)).bind fun x s' => .ok (v.1 + 256 ^ n * x) s'

/-- `n` bytes read by the device under a PASID for an operation, or for itself. -/
def State.devReadAs (s : State) (who : Option Flight) (unit pasid part va n : Nat) : DRes Nat :=
  devReadGo who unit pasid part (devPieces va n) s

/-- `n` bytes read by the device under a PASID. -/
def State.devRead (s : State) (unit pasid part va n : Nat) : DRes Nat := s.devReadAs none unit pasid part va n

/-- A write by the device of pieces under a PASID, for itself or on the path of an operation (06 R178); a page under migration holds it (09 R270), and so does a port whose region retrains
(10 R287). -/
def devWriteGo (who : Option Flight) (unit pasid part : Nat) : List (Nat × Nat) → Nat → State → DRes Unit
  | [], _, s => .ok () s
  | (va, n) :: rest, v, s =>
    match s.translate unit pasid part va .write (who.any Flight.sup) with
    | .fault _ r => .fault va (s.devFail pasid r)
    | .ats p => .wait (some (pasid, p))
    | .ok t =>
      match s.farGate unit pasid t.key with
      | some none => .fault va (s.devFail pasid 0)
      | some (some p) => .wait (some (pasid, p))
      | none =>
        if t.hold || s.portHeld t.key s.cycle then .wait none
        else
          let r := match who with
            | some f => s.spotPut f (.mem t.key t.zb) n (v % 256 ^ n) 0
            | none => let w := s.memStore t.key n (v % 256 ^ n) t.zb 0; (w.1.shown 0 t.key n, w.2)
          let u := match who with
            | some f => r.1.sendSpot f (.mem t.key t.zb)
            | none => r.1.sendDev t.key
          if r.2 then .fault va s
          else devWriteGo who unit pasid part rest (v / 256 ^ n) ((u.noteUseEv unit pasid t).countXfer t.key)

/-- `n` bytes written by the device under a PASID for an operation, or for itself, wholly or not at all; a refusal by the host, or a hold
whose time is over, has had its effect. -/
def State.devWriteAs (s : State) (who : Option Flight) (unit pasid part va n v : Nat) : DRes Unit :=
  match devWriteGo who unit pasid part (devPieces va n) v s with
  | .fault va t => .fault va { s with atc := t.atc, flights := t.flights }
  | r => r

/-- `n` bytes written by the device under a PASID, wholly or not at all. -/
def State.devWrite (s : State) (unit pasid part va n v : Nat) : DRes Unit := s.devWriteAs none unit pasid part va n v

/-- A read-modify-write of a word by the device. -/
def State.devUpdate (s : State) (unit pasid part va n : Nat) (f : Nat → Nat) : DRes Nat :=
  (s.devRead unit pasid part va n).bind fun x s1 =>
    (s1.devWrite unit pasid part va n (f x % 256 ^ n)).bind fun _ s2 => .ok x s2

/-- The outcome of an event that may have to wait. -/
def devEv (s : State) (r : DRes Unit) : Host.Outcome State Fault Refusal :=
  match r with
  | .ok _ t => runEv s t
  | .fault _ t => runEv s t
  | .wait w => runEv s (s.askAts w)

/-! ### Structures in physical memory -/

/-- The bytes of tier 0 (01 R20). -/
def tier0Bytes : Nat := 384 * 2 ^ 30

/-- Does a structure of a partition lie where it has to: in tier-0 memory, beginning on the partition's stack (10 R276, log entry 82)?
Elsewhere the device's accesses to it change nothing and give unspecified bytes, so that no other partition's memory is touched (00 R2). -/
def structOk (part a n : Nat) : Bool := decide (a + n ≤ tier0Bytes) && sliceOf (memKey 0 0 a) / 160 == part / 4

/-! ### Error records -/

/-- A device error record (10 R277). -/
def State.devErr (s : State) (part addr code tag lin : Nat) : State :=
  let p := s.part part
  if (p.detail.toNat + 2 ^ 32 - p.dehead.toNat) % 2 ^ 32 = 256 then
    s.updPart part fun x => { x with derovf := x.derovf + 1 }
  else
    let k := p.dering.toNat + 32 * (p.detail.toNat % 256)
    let t := if structOk part p.dering.toNat 8192 then
        (((((s.pokeN k 8 addr).pokeN (k + 8) 4 code).pokeN (k + 12) 4 tag).pokeN (k + 16) 4 lin).pokeN (k + 20) 12 0)
      else s
    t.updPart part fun x => { x with detail := x.detail + 1 }

/-- No workgroup is concerned (10 R277). -/
def noLinear : Nat := 0xFFFFFFFF

/-- A rejected packet's report (03 R62). -/
def State.queueErr (s : State) (q idx code tag : Nat) : DRes Unit :=
  match s.queues.find? q with
  | none => .ok () s
  | some w =>
    let count := fun (t : State) => { t with queues := t.queues.upd (fun (x : WorkQ) => { x with errcount := (x.errcount + 1) % 2 ^ 32 }) q }
    if (w.errtail + 2 ^ 32 - w.errhead) % 2 ^ 32 = 256 then .ok () (count s)
    else
      match s.devWrite devUnit w.pasid (s.frontPart w) (w.errAddr + 16 * (w.errtail % 256)) 16
          (idx % 2 ^ 64 + 2 ^ 64 * code + 2 ^ 96 * tag) with
      | .ok _ t =>
        .ok () (count { t with queues := t.queues.upd (fun (x : WorkQ) => { x with errtail := (x.errtail + 1) % 2 ^ 32 }) q })
      | .fault _ t => .ok () (count t)
      | .wait v => .wait v

/-- A front-end access for a queue faulted: the queue stops (03 R479). -/
def State.queueStop (s : State) (q va : Nat) : State :=
  match s.queues.find? q with
  | none => s
  | some w =>
    let t := { s with queues := s.queues.upd (fun (x : WorkQ) => { x with qflags := (x.qflags &&& ~~~1#32) ||| 16#32 }) q }
    match (List.range 8).find? fun n => w.partMask.testBit n with
    | some p => t.devErr p va 34 0 q
    | none => t

/-- A Lauter fault record's bytes (07 Table 7.8). -/
def LfRec.bits (r : LfRec) : Nat :=
  r.cause % 2 ^ 32 + 2 ^ 32 * r.who + 2 ^ 64 * r.pc + 2 ^ 128 * r.addr + 2 ^ 192 * r.elem + 2 ^ 224 * r.pasid

/-- The oldest held fault record of a partition written to its ring, when the ring has room (10 R278). -/
def State.lfWrite (s : State) (part : Nat) : State :=
  match s.lfHeld.find? (fun r => r.part == part) with
  | none => s
  | some r =>
    let p := s.part part
    if (p.lftail.toNat + 2 ^ 32 - p.lfhead.toNat) % 2 ^ 32 ≥ 2 ^ p.lflog2.toNat then s
    else
      let k := p.lfring.toNat + 32 * (p.lftail.toNat % 2 ^ p.lflog2.toNat)
      let t := if structOk part p.lfring.toNat (32 * 2 ^ p.lflog2.toNat) then s.pokeN k 32 r.bits else s
      { t.updPart part (fun x => { x with lftail := x.lftail + 1 }) with lfHeld := s.lfHeld.erase r }

end Sys2Proof.Machine
end

