-- ==== Sys2Proof/Machine/Launch.lean ====
section
/-!
DEFINITION. Launch records, kernel headers, cohort tables and graph descriptors with their checks (02 R27, R28;
03 R63, R64, R82; 11 R322, R323), the entry of grids into dispatch, dependence counters (03 R75-R78) and the start of
multi-chip launches (03 R88-R91).
-/
namespace Sys2Proof.Machine

/-! ### Records and headers -/

/-- A launch record's fields (03 Table 3.4). -/
def parseRecord (addr x : Nat) : Launch :=
  let f := fun (off n : Nat) => x / 256 ^ off % 256 ^ n
  { addr := addr, tag := f 4 4, khdr := f 8 8, gx := f 16 4, gy := f 20 4, gz := f 24 4, gangs := f 28 2,
    width := f 30 2, prio := f 32 1, lflags := f 33 1, part := f 34 1, dcId := f 36 2, cflags := f 38 2, arg := f 40 8,
    cohort := f 48 8, nmAddr := f 56 8, nmAddend := f 64 8, chipset := f 72 8, gen := f 80 4, graph := f 88 8 }

/-- Who hands in a record (03 R64): a queue with its flags and partitions; a core's DLAUNCH with its partition and base
priority; a fired counter; a copy from the origin of a multi-chip launch. -/
inductive LSrc where
  | queue (sup gfx : Bool) (mask : Nat)
  | device (part base : Nat)
  | task (part : Nat)
  | copy
deriving DecidableEq, Repr

/-- Code 1: the record's own fields (03 Table 3.5). -/
def recordBad1 (x : Nat) (r : Launch) : Bool :=
  let f := fun (off n : Nat) => x / 256 ^ off % 256 ^ n
  x % 256 ≠ 1 || natBits x 15 9 ≠ 0 || natBits x 31 16 ≠ 0 || f 35 1 ≠ 0 || f 84 4 ≠ 0 || f 96 32 ≠ 0 ||
    r.khdr % 256 ≠ 0 || decide (r.khdr ≥ 2 ^ 57) || decide (r.prio > 15) || decide (r.part > 7) ||
    decide (r.lflags ≥ 16) || decide (r.dcId > 4095) || decide (r.cflags ≥ 16) || r.cflags / 4 == 3 ||
    (r.cflags.testBit 1 && r.nmAddr % 8 ≠ 0) || r.cohort % 64 ≠ 0 || r.graph % 64 ≠ 0 ||
    (!(r.lflags.testBit 3) && r.graph ≠ 0)

/-- Code 3: extents, GANGS and WIDTH. -/
def recordBad3 (r : Launch) : Bool :=
  r.gx == 0 || r.gy == 0 || r.gz == 0 || decide (r.gx * r.gy * r.gz > 2 ^ 32) || r.gangs == 0 ||
    decide (r.gangs > 32) || r.width % 8 ≠ 0 || decide (r.width > 1024)

/-- The workgroups of a record's grid. -/
def Launch.wgCount (r : Launch) : Nat := r.gx * r.gy * r.gz

/-- Is a chip in the fabric domain: this chip, or one its route table gives links for? -/
def State.inDomain (s : State) (c : Nat) : Bool := c == s.chip || (s.routes.getD c 0).toNat % 2 ^ 18 ≠ 0

/-- The checks on a record's own words in their order (03 R64): the first code that fails. Table 3.5 gives a dependence counter's task record
no priority limit: none is applied, the model's choice (log entry 64). -/
def State.recordCode (s : State) (src : LSrc) (x : Nat) (r : Launch) : Option Nat :=
  if recordBad1 x r then some 1
  else if recordBad3 r then some 3
  else if (match src with
      | .queue sup gfx _ => (r.prio == 15 && !sup) || (r.prio == 14 && !gfx)
      | .device _ base => decide (r.prio > base)
      | _ => false) then some 5
  else if (match src with
      | .queue _ _ mask => !(mask.testBit r.part)
      | .device part _ => r.part != part
      | .task part => r.part != part
      | .copy => false) || !((s.part r.part).pen.getLsbD 0) then some 6
  else if (List.range 64).any (fun c => r.chipset.testBit c && !(s.inDomain c)) then some 10
  else none

/-- A kernel header's fields (11 Table 11.12). -/
def parseKhdr (base x : Nat) : KHdr :=
  let f := fun (off n : Nat) => x / 256 ^ off % 256 ^ n
  { base := base, hflags := f 6 2, entry := f 8 4, vregs := f 16 2, sregs := f 18 1, barriers := f 19 1,
    scratch := f 20 4, splitd := f 24 1, calld := f 25 1, width := f 26 2, trapoff := f 28 4, swapwait := f 32 4,
    fmt := f 36 4, bufoff := if f 48 2 = 0 then 0 else sextNat (f 40 8) 64, bufcnt := f 48 2 }

/-- Does a header set FUSE? -/
def KHdr.fuse (k : KHdr) : Bool := k.hflags.testBit 1

/-- Code 2: the header's checks (11 R323). -/
def khdrBad (x : Nat) (k : KHdr) : Bool :=
  let f := fun (off n : Nat) => x / 256 ^ off % 256 ^ n
  f 0 4 ≠ 0x4B5A4E5A || f 4 2 ≠ 1 || decide (k.hflags ≥ 4) || k.entry % 16 ≠ 0 || decide (k.entry < 256) ||
    f 12 4 % 16 ≠ 0 || decide (k.vregs > 256) || decide (k.sregs > 64) || decide (k.barriers > 16) ||
    decide (k.scratch > if k.fuse then 1572864 else 196608) || decide (k.splitd > 64) || decide (k.calld > 32) ||
    k.width % 8 ≠ 0 || k.width == 0 || decide (k.width > 1024) || k.trapoff % 16 ≠ 0 || decide (k.bufcnt > 256) ||
    (k.bufcnt ≠ 0 && f 40 8 % 8 ≠ 0) || f 50 206 ≠ 0 || !(fmtOk k.fmt)

/-- A kernel header read and checked: code 0 is a pass (03 R64). -/
def State.readKhdr (s : State) (pasid part addr : Nat) : DRes (Nat × KHdr) :=
  match s.devRead devUnit pasid part addr 256 with
  | .ok x t =>
    let k := parseKhdr addr x
    .ok (if khdrBad x k then 2 else 0, k) t
  | .fault _ t => .ok (8, KHdr.none) t
  | .wait w => .wait w

/-- The members of a cohort table's entry, unused positions apart (02 R27). -/
def cohortEntry (x : Nat) : List Nat :=
  ((List.range 4).map fun k => x / 2 ^ (16 * k) % 65536).filter fun c => c ≠ 0xFFFF

/-- The entries of a cohort table from the `i`-th on. -/
def readMembers (pasid part addr : Nat) : Nat → Nat → State → DRes (List (List Nat))
  | 0, _, s => .ok [] s
  | n + 1, i, s =>
    (s.devRead devUnit pasid part (addr + 16 + 8 * i) 8).bind fun x s1 =>
      (readMembers pasid part addr n (i + 1) s1).bind fun l s2 => .ok (cohortEntry x :: l) s2

/-- A cohort table read whole, by its own count of entries, and then checked (02 R27, R28; 03 R64): a code, the number of cohorts,
the members. -/
def State.readCohorts (s : State) (pasid part : Nat) (r : Launch) : DRes (Nat × Nat × List (List Nat)) :=
  if r.cohort = 0 then .ok (0, 0, []) s else
  match s.devRead devUnit pasid part r.cohort 16 with
  | .wait w => .wait w
  | .fault _ t => .ok (8, 0, []) t
  | .ok x t =>
    let c := x % 2 ^ 32
    let n := x / 2 ^ 64 % 2 ^ 32
    match readMembers pasid part r.cohort n 0 t with
    | .wait w => .wait w
    | .fault _ u => .ok (8, 0, []) u
    | .ok l u =>
      let bad := n ≠ r.wgCount || c == 0 || decide (c > 256) ||
        l.any fun e => e.any (fun k => decide (k ≥ c)) || e.eraseDups.length != e.length
      .ok (if bad then 7 else 0, c, l) u

/-- A graph node's fields (03 Table 3.7). -/
def parseNode (x : Nat) : GNode :=
  let f := fun (off n : Nat) => x / 256 ^ off % 256 ^ n
  { khdr := f 0 8, recBytes := f 8 2, batch := f 10 1, prio := f 11 1, timeout := f 12 4, reserve := f 16 4,
    open_ := [], lastAppend := 0 }

/-- A graph descriptor read whole, by its own count of nodes, and then checked (03 R64, R82): a code and the graph. -/
def State.readGraph (s : State) (pasid part : Nat) (r : Launch) : DRes (Nat × Option Graph) :=
  if !(r.lflags.testBit 3) then .ok (0, none) s else
  match s.devRead devUnit pasid part r.graph 64 with
  | .wait w => .wait w
  | .fault _ t => .ok (8, none) t
  | .ok x t =>
    let n := x % 65536
    let sl := x / 65536 % 65536
    let m := x / 2 ^ 32 % 2 ^ 32
    let pool := x / 2 ^ 64 % 2 ^ 64
    let headBad := n = 0 ∨ n > 256 ∨ sl < 6 ∨ sl > 8 ∨ m = 0 ∨ m > 2 ^ 20 ∨ pool % 2 ^ sl ≠ 0 ∨ x / 2 ^ 128 ≠ 0
    match t.devRead devUnit pasid part (r.graph + 64) (32 * n) with
    | .wait w => .wait w
    | .fault _ u => .ok (8, none) u
    | .ok y u =>
      let xs := (List.range n).map fun j => y / 2 ^ (256 * j) % 2 ^ 256
      let nodes := xs.map parseNode
      let bad := decide headBad || xs.any (fun e => e / 2 ^ 160 ≠ 0) ||
        nodes.any (fun d => d.recBytes == 0 || decide (d.recBytes > 2 ^ sl) || d.batch == 0 || decide (d.batch > 32) ||
          decide (d.prio > r.prio) || d.timeout == 0) ||
        decide (nodes.foldl (fun a d => a + d.reserve) 0 ≥ m)
      .ok (if bad then 9 else 0, if bad then none else some
        { addr := r.graph, grid := 0, part := part, pasid := pasid, lr := r, slotLog2 := sl, slots := m, pool := pool,
          nodes := nodes, cask := [], blocked := [], rootDone := false }) u

/-! ### The room that a workgroup needs -/

/-- What a workgroup needs (03 R69, 05 R133, 02 R51): gangs, scratchpad allocation, barriers, fused, image-region
bytes. -/
structure Need where
  gangs : Nat
  scratch : Nat
  bars : Nat
  fused : Bool
  image : Nat
deriving DecidableEq, Repr

/-- The image of a gang with its engine save block, in bytes (05 Table 5.7, 07 R192). -/
def imageBytes (k : KHdr) (width : Nat) : Nat :=
  let n := width / 8
  let voff := alignUp (768 + 32 * ceilDiv n 4) 256
  let soff := alignUp (voff + 32 * k.vregs * n) 256
  let xoff := soff + 256 * (2 * width - 1) + 16 * k.calld * width
  alignUp (xoff + 256) 4096 + 262144 + 65536

/-- The gang width of a launch: the record's, or the header's default. -/
def gangWidth (r : Launch) (k : KHdr) : Nat := if r.width = 0 then k.width else r.width

/-- What one workgroup of a launch needs. -/
def needOf (r : Launch) (k : KHdr) : Need :=
  { gangs := r.gangs, scratch := alignUp k.scratch 1024, bars := k.barriers, fused := r.lflags.testBit 2 || k.fuse,
    image := r.gangs * imageBytes k (gangWidth r k) + alignUp k.scratch 4096 }

/-- Code 4: more than a core, or a cluster, offers (03 Table 3.5). -/
def Need.tooMuch (n : Need) : Bool :=
  if n.fused then decide (ceilDiv n.gangs 8 > 48) || decide (n.scratch > 1572864) || decide (n.bars > 256)
  else decide (n.gangs > 48) || decide (n.scratch > 196608) || decide (n.bars > 256)

/-! ### Grids -/

/-- A grid enters dispatch at the tail of its level (03 R67). -/
def State.addGrid (s : State) (lr : Launch) (kh : KHdr) (kind : GridKind) (pasid first count : Nat)
    (members : List (List Nat)) (cohortN lanes : Nat) (ents : List Nat) (mc : Option (Nat × Nat) := none) : State :=
  let g : Grid := { lr := lr, kh := kh, kind := kind, pasid := pasid, base := lr.prio, first := first, count := count,
                    next := 0, live := 0, killed := false, members := members, cohortN := cohortN, cohorts := [],
                    lanes := lanes, entries := ents, reserve := none, dead := [], mc := mc }
  let e : Entry := { id := s.nextId + 1, part := lr.part, grid := s.nextId, wid := none, base := lr.prio, eff := lr.prio,
                     rounds := 0, victim := none, room := [] }
  { s with nextId := s.nextId + 2, grids := s.grids.put s.nextId g,
           entries := if count = 0 then s.entries else s.entries ++ [e] }

/-- The grid of a record that passed its checks, for a share of its workgroups (03 R82, R89). -/
def State.startGrid (s : State) (lr : Launch) (kh : KHdr) (pasid first count : Nat) (members : List (List Nat))
    (cohortN : Nat) (gr : Option Graph) (mc : Option (Nat × Nat) := none) : State :=
  match gr with
  | none => s.addGrid lr kh .launch pasid first count members cohortN 0 [] mc
  | some g =>
    let id := s.nextId
    let t := { s with nextId := id + 1, graphs := s.graphs.put id { g with grid := id + 1 } }
    t.addGrid lr kh (.graphRoot id) pasid first count members cohortN 0 [] mc

/-- Is a generation number stale: not greater than the one held for the origin (03 R90)? -/
def State.stale (s : State) (origin gen : Nat) : Bool :=
  s.gens.any fun e => e.1 == origin && (let d := (gen + 2 ^ 32 - e.2.2) % 2 ^ 32; d == 0 || decide (d ≥ 2 ^ 31))

/-- The chips that a chip set names. -/
def chipsOf (set : Nat) : List Nat := (List.range 64).filter fun c => set.testBit c

/-- The checks of R64 after the record's own words: a code and what the launch needs. -/
def State.launchChecks (s : State) (pasid : Nat) (r : Launch) :
    DRes (Nat × KHdr × List (List Nat) × Nat × Option Graph) :=
  (s.readKhdr pasid r.part r.khdr).bind fun h s1 =>
    if h.1 ≠ 0 then .ok (h.1, h.2, [], 0, none) s1
    else (s1.readCohorts pasid r.part r).bind fun c s2 =>
      if c.1 ≠ 0 then .ok (c.1, h.2, [], 0, none) s2
      else (s2.readGraph pasid r.part r).bind fun g s3 =>
        if g.1 ≠ 0 then .ok (g.1, h.2, [], 0, none) s3
        else .ok (if (needOf r h.2).tooMuch then 4 else 0, h.2, c.2.2, c.2.1, g.2) s3

/-- A record handed to the scheduler (03 R63, R64, R88): the code of its rejection, or 0 with its effect. `q` names the
queue, packet index and tag to which a later rejection is reported. That the record's own checks come before the check for a stale
generation (R90), so that a bad stale record is reported, is the model's choice (log entry 13). -/
def State.launchRecord (s : State) (src : LSrc) (pasid addr x : Nat) (q : Option (Nat × Nat × Nat)) : DRes Nat :=
  let r := parseRecord addr x
  match s.recordCode src x r with
  | some c => .ok c s
  | none =>
    if r.chipset ≠ 0 && s.stale s.chip r.gen then
      .ok 0 (s.updPart r.part fun p => { p with stalecnt := p.stalecnt + 1 })
    else
      (s.launchChecks pasid r).bind fun c s1 =>
        if c.1 ≠ 0 then .ok c.1 s1
        else if r.chipset = 0 then .ok 0 (s1.startGrid r c.2.1 pasid 0 r.wgCount c.2.2.1 c.2.2.2.1 c.2.2.2.2)
        else
          let named := chipsOf r.chipset
          let mc : McLaunch :=
            { origin := s.chip, gen := r.gen, part := r.part, lr := r, pasid := pasid, q := q,
              reports := if named.contains s.chip then [(s.chip, 0)] else [], since := s.cycle, accepted := false,
              kh := c.2.1, members := c.2.2.1, cohortN := c.2.2.2.1, graph := c.2.2.2.2 }
          let others := named.filter fun k => k != s.chip
          .ok 0 (others.foldl (fun t k => t.fabSend msgCopy [k, s.chip, r.gen, r.part, pasid, x])
            { s1 with mcs := s1.mcs ++ [mc] })

/-! ### Dependence counters -/

/-- A counter. -/
def State.dc (s : State) (id : Nat) : DepCtr := Tab.get DepCtr.zero s.dcs id

/-- A counter replaced. -/
def State.setDc (s : State) (id : Nat) (c : DepCtr) : State := { s with dcs := Tab.set DepCtr.zero s.dcs id c }

/-- A counter's result clamped to 24 signed bits (03 Table 3.6). -/
def DepCtr.to (c : DepCtr) (x : Int) : DepCtr :=
  if x < -8388608 then { c with count := -8388608, err := true }
  else if x > 8388607 then { c with count := 8388607, err := true }
  else { c with count := x }

/-- The firing of a counter (03 R76): its task record enters dispatch, or its rejection is recorded. A record that cannot
be read is reported with code 8 (log entry 13). -/
def State.fireDc (s : State) (id : Nat) : DRes Unit :=
  let c := s.dc id
  let part := id / 512
  let s0 := s.setDc id { c with count := 0, armed := false }
  match s0.devRead devUnit c.pasid part c.task 128 with
  | .wait w => .wait w
  | .fault _ t => .ok () (t.devErr part c.task 8 0 noLinear)
  | .ok x t =>
    (t.launchRecord (.task part) c.pasid c.task x none).bind fun code u =>
      .ok () (if code = 0 then u else u.devErr part c.task code (x / 2 ^ 32 % 2 ^ 32) noLinear)

/-- A decrement (03 Table 3.6). -/
def State.dcDecrement (s : State) (id m : Nat) : DRes Unit :=
  let c := s.dc id
  let c' := c.to (c.count - m)
  let t := s.setDc id c'
  if c.armed && decide (c'.count ≤ 0) then t.fireDc id else .ok () t

/-- A set (03 Table 3.6): was it refused? -/
def State.dcSetTo (s : State) (id n task pasid : Nat) : DRes Bool :=
  let c := s.dc id
  if c.armed then .ok true s
  else
    let c' := { c with task := task, pasid := pasid, armed := true }.to (c.count + n)
    let t := s.setDc id c'
    if c'.count ≤ 0 then (t.fireDc id).bind fun _ u => .ok false u else .ok false t

/-! ### Multi-chip launches -/

/-- The share of a chip (03 R89): first linear index and count. -/
def Launch.share (r : Launch) (chip : Nat) : Nat × Nat :=
  let cs := chipsOf r.chipset
  let n := cs.length
  if cs.contains chip then
    let k := (cs.filter fun c => decide (c < chip)).length
    let lo := k * r.wgCount / n
    (lo, (k + 1) * r.wgCount / n - lo)
  else (0, 0)

/-- A rejection of a launch reported where it came from (03 R62, R64, R91). -/
def State.reportLaunch (s : State) (q : Option (Nat × Nat × Nat)) (r : Launch) (code : Nat) : DRes Unit :=
  match q with
  | some (k, idx, tag) => s.queueErr k idx code tag
  | none => .ok () (s.devErr r.part r.addr code r.tag noLinear)

/-- A multi-chip launch dropped. -/
def State.dropMc (s : State) (origin gen : Nat) : State :=
  { s with mcs := s.mcs.filter fun m => !(m.origin == origin && m.gen == gen) }

/-- The launch of an origin with a generation number. -/
def State.mc? (s : State) (origin gen : Nat) : Option McLaunch := s.mcs.find? fun m => m.origin == origin && m.gen == gen

/-- The chips that the origin told to start or to give up. -/
def State.tellAll (s : State) (kind : Nat) (m : McLaunch) : State :=
  ((chipsOf m.lr.chipset).filter fun c => c != s.chip).foldl (fun t c => t.fabSend kind [c, m.origin, m.gen]) s

/-- The origin gives up a launch and reports why (03 R91). -/
def State.abortMc (s : State) (m : McLaunch) (code : Nat) : DRes Unit :=
  ((s.tellAll msgAbort m).dropMc m.origin m.gen).reportLaunch m.q m.lr code

/-- A copy of a record for this chip to check (03 R88, R90). That a stale copy is dropped before its record is checked is the model's
choice (log entry 13). -/
def State.mcCopy (s : State) (origin gen part pasid x : Nat) : DRes Unit :=
  let r := parseRecord 0 x
  let report := fun (t : State) (code : Nat) => t.fabSend msgReport [origin, gen, t.chip, code]
  if s.stale origin gen then .ok () (s.updPart part fun p => { p with stalecnt := p.stalecnt + 1 })
  else if (s.mc? origin gen).isSome then .ok () s
  else match s.recordCode .copy x r with
    | some c => .ok () (report s c)
    | none =>
      (s.launchChecks pasid r).bind fun c s1 =>
        if c.1 ≠ 0 then .ok () (report s1 c.1)
        else
          let mc : McLaunch :=
            { origin := origin, gen := gen, part := part, lr := r, pasid := pasid, q := none, reports := [],
              since := s.cycle, accepted := false, kh := c.2.1, members := c.2.2.1, cohortN := c.2.2.2.1,
              graph := c.2.2.2.2 }
          .ok () (report { s1 with mcs := s1.mcs ++ [mc] } 0)

/-- A named chip's report to this chip as the origin (03 R88, R91): the last one sends the starts. -/
def State.mcReportIn (s : State) (gen fromChip code : Nat) : DRes Unit :=
  match s.mc? s.chip gen with
  | none => .ok () s
  | some m =>
    if m.accepted || !(m.lr.chipset.testBit fromChip) then .ok () s
    else if code ≠ 0 then s.abortMc m code
    else
      .ok () { s with mcs := s.mcs.map fun x =>
        if x.origin == s.chip && x.gen == gen then { x with reports := x.reports.put fromChip 0 } else x }

/-- Has every named chip reported? -/
def McLaunch.full (m : McLaunch) : Bool := (chipsOf m.lr.chipset).all fun c => (m.reports.find? c).isSome

/-- Is a launch spread over other chips too? -/
def State.multiChip (s : State) (r : Launch) : Bool := (chipsOf r.chipset).any fun c => c != s.chip

/-- The grids of a partition on this chip alone that have started and hold cohort state (12 R352). -/
def State.cohortsRunning (s : State) (part : Nat) : Nat :=
  (s.grids.filter fun x => x.2.lr.part == part && decide (x.2.cohortN > 0) && decide (x.2.next > 0) && x.2.mc.isNone).length

/-- Is a place among the 16 of a partition free for a further grid's cohort state (12 R352)? -/
def State.cohortPlace (s : State) (part : Nat) : Bool :=
  decide (s.cohortsRunning part + (s.hubs.filter fun h => h.part == part).length < 16)

/-- The origin holds the cohort state of a launch over several chips (12 R352). -/
def State.addHub (s : State) (m : McLaunch) : State :=
  if m.cohortN = 0 || !(s.multiChip m.lr) then s else
  { s with hubs := s.hubs ++ [{ gen := m.gen, part := m.part, lr := m.lr, members := m.members, cohorts := [], ended := [], gone := [] }] }

/-- The start of this chip's share (03 R88-R90): the cohort state of a launch that another chip has a part in is the origin's, which starts
the launch once it has a place for it (12 R352; log entry 48). -/
def State.mcBegin (s : State) (origin gen : Nat) : State :=
  match s.mc? origin gen with
  | none => s
  | some m =>
    let own := origin == s.chip
    if own && (!m.full || m.cohortN ≠ 0 && s.multiChip m.lr && !(s.cohortPlace m.part)) then s
    else
      let s1 := if own then (s.tellAll msgStart m).addHub m else s
      let s2 := s1.dropMc origin gen
      if m.lr.chipset.testBit s.chip then
        let sh := m.lr.share s.chip
        ({ s2 with gens := (origin, m.part, gen) :: s2.gens.filter fun e => e.1 != origin }).startGrid m.lr m.kh m.pasid
          sh.1 sh.2 m.members m.cohortN m.graph (if own && !(s.multiChip m.lr) then none else some (origin, gen))
      else s2

end Sys2Proof.Machine
end

