-- ==== Sys2Proof/Machine/Tree.lean ====
section
/-!
DEFINITION. The tree of fragments and split records of a gang (02 R29-R45): splits, merges, dissolution, detachment,
and what a fragment at a re-gang point sees of its sibling. A split record keeps the number of the fragment whose
entry it took, and a merged fragment takes the record's number.
-/
namespace Sys2Proof.Machine

/-- A parent's link to a child replaced. -/
def SplitRec.relink (r : SplitRec) (old : Nat) (new : Option Nat) : SplitRec :=
  if r.childT = some old then { r with childT := new } else if r.childF = some old then { r with childF := new } else r

/-- The other child of a record. -/
def SplitRec.sibling (r : SplitRec) (id : Nat) : Option Nat := if r.childT = some id then r.childF else r.childT

/-- The parent of an entry of a gang replaced. -/
def Gang.setParent (g : Gang) (id : Nat) (p : Option Nat) : Gang :=
  { g with frags := g.frags.upd (fun f => { f with parent := p }) id,
           recs := g.recs.upd (fun r => { r with parent := p }) id }

/-- The parent's link from one entry to another. -/
def Gang.relink (g : Gang) (parent : Option Nat) (old : Nat) (new : Option Nat) : Gang :=
  match parent with
  | none => g
  | some p => { g with recs := g.recs.upd (fun r => r.relink old new) p }

/-- The fragments of a subtree, `fuel` levels down. -/
def Gang.leaves (g : Gang) : Nat → Nat → List Nat
  | 0, _ => []
  | fuel + 1, id =>
    match g.recs.find? id with
    | some r => ((r.childT.map (g.leaves fuel)).getD []) ++ ((r.childF.map (g.leaves fuel)).getD [])
    | none => if (g.frags.find? id).isSome then [id] else []

/-- The records of a subtree. -/
def Gang.inner (g : Gang) : Nat → Nat → List Nat
  | 0, _ => []
  | fuel + 1, id =>
    match g.recs.find? id with
    | some r => id :: (((r.childT.map (g.inner fuel)).getD []) ++ ((r.childF.map (g.inner fuel)).getD []))
    | none => []

/-- A depth that no tree passes (02 R44). -/
def treeFuel : Nat := 70

/-- The split of a fragment (02 R32): its entry becomes a record, and two children stand for it. -/
def Gang.split (g : Gang) (fid t f : Nat) (fr : Frag) (taken : LaneMask) (tgt next : Nat) : Gang :=
  let r : SplitRec := { fmt := fr.fmt, lc := fr.lc, frames := fr.frames, sdepth := fr.sdepth, parent := fr.parent,
                        childT := some t, childF := some f }
  let kid := fun (m : LaneMask) (pc : Nat) =>
    { fr with mask := m, pc := pc, sdepth := fr.sdepth + 1, parent := some fid, rgOk := false, pendSeq := false,
              skip := 0, jt := none }
  { g with frags := ((g.frags.del fid).put t (kid (fr.mask &&& taken) tgt)).put f (kid (fr.mask &&& ~~~taken) next),
           recs := g.recs.put fid r }

/-- A split by a fragment of the state; the numbers of its children are new. -/
def State.splitFrag (s : State) (gid fid : Nat) (taken : LaneMask) (tgt next : Nat) : State :=
  match s.frag? gid fid with
  | none => s
  | some fr =>
    let t := s.nextId
    let f := s.nextId + 1
    { s with nextId := s.nextId + 2 }.updGang gid fun g => g.split fid t f fr taken tgt next

/-- Depths of a subtree lowered by one (02 R39). -/
def Gang.raise (g : Gang) (id : Nat) : Gang :=
  let ls := g.leaves treeFuel id
  let rs := g.inner treeFuel id
  { g with frags := g.frags.map fun e => (e.1, if ls.contains e.1 then { e.2 with sdepth := e.2.sdepth - 1 } else e.2),
           recs := g.recs.map fun e => (e.1, if rs.contains e.1 then { e.2 with sdepth := e.2.sdepth - 1 } else e.2) }

/-- A record whose child `gone` has left: it dissolves, and the other child takes its place (02 R39). The causes
waiting for the record's fragment go to the survivor. -/
def Gang.dissolve (g : Gang) (rid gone : Nat) : Gang :=
  match g.recs.find? rid with
  | none => g
  | some r =>
    match r.sibling gone with
    | none => { g with recs := g.recs.del rid }
    | some sv =>
      let g1 := (g.raise sv).setParent sv r.parent
      let g2 := g1.relink r.parent rid (some sv)
      { g2 with recs := g2.recs.del rid, asyncs := g2.asyncs.map fun e => if e.1 = rid then (sv, e.2) else e }

/-- A fragment removed from its gang: its lanes have left (02 R29, R39). -/
def Gang.dropFrag (g : Gang) (fid : Nat) : Gang :=
  match g.frags.find? fid with
  | none => g
  | some f =>
    let g1 := { g with frags := g.frags.del fid }
    match f.parent with
    | none => g1
    | some r => g1.dissolve r fid

/-- A fragment detached from its tree (02 R43). -/
def Gang.detach (g : Gang) (fid : Nat) : Gang :=
  match (g.frags.find? fid).bind (·.parent) with
  | none => g
  | some r =>
    { (g.dissolve r fid) with
      frags := (g.dissolve r fid).frags.upd (fun f => { f with parent := none, sdepth := 0 }) fid }

/-- Two children of a record merged at an address (02 R36); every access of both comes before the merged fragment's
later ones (02 R40). Lanes that a re-issue at the address has to leave out (09 R250) stay left out. -/
def Gang.merge (g : Gang) (rid : Nat) (r : SplitRec) (a b : Nat) (fa fb : Frag) (pc : Nat) : Gang :=
  let po := (fa.po ++ fb.po).eraseDups
  let m : Frag :=
    { fa with pc := pc, mask := fa.mask ||| fb.mask, fmt := r.fmt, lc := r.lc, frames := r.frames,
              sdepth := r.sdepth, parent := r.parent, stat := .ready, stopped := fa.stopped || fb.stopped,
              rgOk := false, pendSeq := fa.pendSeq, jt := none, pendTrap := fa.pendTrap || fb.pendTrap,
              pendBkpt := fa.pendBkpt || fb.pendBkpt, readyAt := max fa.readyAt fb.readyAt,
              lastIssue := max fa.lastIssue fb.lastIssue, created := min fa.created fb.created,
              haz := fa.haz ++ fb.haz, po := po,
              con := po.map Con.every ++ fa.con ++ fb.con, skip := fa.skip ||| fb.skip }
  { g with frags := ((g.frags.del a).del b).put rid m, recs := g.recs.del rid,
           lastFid := if g.lastFid = a ∨ g.lastFid = b then rid else g.lastFid,
           asyncs := g.asyncs.map fun e => if e.1 = a ∨ e.1 = b then (rid, e.2) else e }

/-- Is a block one that holds a fragment as its sibling sees it (02 R35)? -/
def Block.holds : Block → Bool
  | .bar _ _ => true
  | .cohort _ _ => true
  | .mwait _ _ => true
  | .sleep _ => true
  | .queue => true
  | .cbwait _ => true
  | .nralloc => true
  | .lxsub => true
  | .pixlk => true
  | _ => false

/-- Is a fragment held as seen from address A (02 R35)? -/
def Frag.heldAt (f : Frag) (pc : Nat) : Bool :=
  match f.stat with
  | .blocked b => b.holds
  | .rgWait => f.pc != pc
  | .ready => false

/-- What a fragment at a re-gang point does (02 Table 2.3). -/
inductive RgRes where
  | merge (rid sib : Nat)
  | alone
  | wait
  | none
deriving DecidableEq, Repr

/-- Is a fragment the one whose trap awaits its handler or is in it? Its next bundle is the handler's (09 R254). -/
def Gang.trapping (g : Gang) (fid : Nat) : Bool :=
  g.trap.any (fun x => x.fid == fid) || g.slot.any fun x => x.fid == fid

/-- Does a fragment's own trap wait for its handler? No bundle of it issues before the handler's (09 R252). -/
def Gang.trapWaits (g : Gang) (fid : Nat) : Bool := g.trap.any (fun x => x.fid == fid) && !(g.slot.any fun x => x.fid == fid)

/-- Has a sibling arrived at an address at a call depth (02 R35)? A fragment blocked at A counts as held and not as arrived,
although R35's words fit both, and so does a held fragment at A at another call depth, which fits two rows of Table 2.3. A sibling at A
at depth d that stalls there on something R35 does not list (a full in-flight counter, ATS, a migration hold) fits the Arrived and the Live
row: it has not arrived while it stalls, the waiter waits for the stall's end, and then they merge. Log entry 73. -/
def Gang.arrivedAt (g : Gang) (sib pc depth : Nat) : Bool :=
  match g.frags.find? sib with
  | some q =>
    q.pc == pc && q.frames.length == depth && !q.pendSeq && !g.trapping sib &&
      (match q.stat with | .blocked _ => false | _ => true)
  | none => false

/-- The re-gang check of a fragment whose next bundle is a re-gang point (02 R34-R37). The handler fragment itself is
outside its trapped tree. -/
def Gang.rgCheck (g : Gang) (fid : Nat) : RgRes :=
  match g.frags.find? fid with
  | none => .none
  | some f =>
    if g.slot.any (fun x => x.fid == fid) then .none else
    match f.parent with
    | none => .none
    | some rid =>
      match g.recs.find? rid with
      | none => .none
      | some r =>
        if f.frames.length ≠ r.frames.length then .none
        else
          match r.sibling fid with
          | none => .none
          | some sib =>
            if g.arrivedAt sib f.pc r.frames.length then .merge rid sib
            else if (g.leaves treeFuel sib).all fun i => ((g.frags.find? i).map fun q => q.heldAt f.pc).getD true then
              .alone
            else .wait

/-- The merge that a check gives. -/
def Gang.doMerge (g : Gang) (rid fid sib : Nat) : Gang :=
  match g.recs.find? rid, g.frags.find? fid, g.frags.find? sib with
  | some r, some a, some b => g.merge rid r fid sib a b a.pc
  | _, _, _ => g

/-- A fragment goes on past the re-gang point at its program counter. -/
def Gang.passRg (g : Gang) (fid : Nat) : Gang :=
  { g with frags := g.frags.upd (fun f => { f with stat := .ready, rgOk := true }) fid }

/-- What a check decided, applied to its fragment, with the fragment that now stands at the address. -/
def Gang.takeRg (g : Gang) (fid : Nat) : RgRes → Gang × Nat
  | .merge rid sib => (g.doMerge rid fid sib, rid)
  | .alone => (g.passRg fid, fid)
  | .none => (g.passRg fid, fid)
  | .wait => ({ g with frags := g.frags.upd (fun f => { f with stat := .rgWait }) fid }, fid)

/-- The outcome of a re-gang check applied to a gang. The fragment of an EXIT bundle never waits (02 R41). -/
def Gang.applyRg (g : Gang) (fid : Nat) (exits : Bool) : Gang × Nat :=
  let r := g.rgCheck fid
  g.takeRg fid (if exits && r == .wait then .alone else r)

/-! ### Waiters re-examined (02 R37, R39) -/

/-- The fragments that wait at re-gang points, the trapping one apart, with what the gang's state gives each. -/
def Gang.rgReleases (g : Gang) : List (Nat × RgRes) :=
  ((g.frags.filter fun e => e.2.stat == .rgWait && !g.trapping e.1).map fun e => (e.1, g.rgCheck e.1)).filter
    fun e => e.2 != .wait

/-- One release of a waiter: a merge is made only with a sibling that still stands at the address. -/
def Gang.releaseRg (g : Gang) (e : Nat × RgRes) : Gang :=
  if (g.frags.find? e.1).any fun f => f.stat == .rgWait then (g.takeRg e.1 e.2).1 else g

/-- Every waiter that the gang's state releases leaves its wait, all by the same state; the states that this gives are examined in
turn. -/
def Gang.settle : Nat → Gang → Gang
  | 0, g => g
  | n + 1, g => if g.rgReleases.isEmpty then g else Gang.settle n (g.rgReleases.foldl Gang.releaseRg g)

/-- The fragment of a gang's later state that holds the lanes of one that has merged since (09 R250): a record's fragment takes the record's
number. -/
def Gang.heir (old new : Gang) : Nat → Nat → Option Nat
  | 0, _ => none
  | n + 1, i =>
    if (new.frags.find? i).isSome then some i
    else
      match (old.frags.find? i).map (fun (f : Frag) => f.parent), (old.recs.find? i).map (fun (r : SplitRec) => r.parent) with
      | some (some p), _ => old.heir new n p
      | _, some (some p) => old.heir new n p
      | _, _ => none

/-- The operations in flight of fragments that have merged between two states are the merged fragments' (09 R250). -/
def State.heirs (s t : State) : State :=
  { t with flights := t.flights.map fun e =>
      match e.2.ag with
      | .gang gid fid =>
        match s.gang? gid, t.gang? gid with
        | some g, some h =>
          if (g.frags.find? fid).isNone || (h.frags.find? fid).isSome then e
          else (e.1, { e.2 with ag := .gang gid ((g.heir h treeFuel fid).getD fid) })
        | _, _ => e
      | .ctx _ => e }

/-- Waiters re-examined after a step has changed the state of fragments (02 R37): a waiter leaves its wait at the first state that
Table 2.3 gives as a release, a dissolved record's survivor at once (02 R39). -/
def State.settleRg (s : State) : State :=
  s.heirs { s with gangs := s.gangs.map fun e =>
      (e.1, if e.2.frags.any (fun x => x.2.stat == .rgWait) then e.2.settle (2 * e.2.frags.length) else e.2) }

/-- A step's outcome with its waiters re-examined. -/
def settled : Host.Outcome State Fault Refusal → Host.Outcome State Fault Refusal
  | .next s => .next s.settleRg
  | o => o

end Sys2Proof.Machine
end

