-- ==== Sys2Proof/Machine/Image.lean ====
section
/-!
DEFINITION. Context images and engine save blocks (05 R144-R148, 07 R192): what is written when a gang's state is saved,
and what is read back when it resumes. The model keeps the gang's state as a record as well; the record counts for every
field that software must not change (05 R148).
-/
namespace Sys2Proof.Machine

/-- The offsets of an image's sections: V area, split area, call area, extension area, accumulator area, engine save
block (05 Table 5.7). -/
structure ImgOff where
  voff : Nat
  soff : Nat
  coff : Nat
  xoff : Nat
  aoff : Nat
  eoff : Nat
deriving DecidableEq, Repr

/-- The sections of an image for a header and a width. -/
def imgOff (k : KHdr) (width : Nat) : ImgOff :=
  let n := width / 8
  let voff := alignUp (768 + 32 * ceilDiv n 4) 256
  let soff := alignUp (voff + 32 * k.vregs * n) 256
  let coff := soff + 256 * (2 * width - 1)
  let xoff := coff + 16 * k.calld * width
  let aoff := alignUp (xoff + 256) 4096
  { voff := voff, soff := soff, coff := coff, xoff := xoff, aoff := aoff, eoff := aoff + 262144 }

/-- The bytes of a lane mask. -/
def maskBytes (m : LaneMask) : Nat := m.toNat

/-- 32-bit words written one after the other. -/
def State.pokeWords (s : State) (k : Nat) : List Nat → State
  | [] => s
  | w :: t => (s.pokeN k 4 w).pokeWords (k + 4) t

/-- The names of a gang's fragments and records in the order of their split-area entries. -/
def Gang.treeIds (g : Gang) : List Nat := g.recs.keys ++ g.frags.keys

/-- The index of an entry of the split area; 0xFFFF for none (05 R145). -/
def Gang.treeIdx (g : Gang) (id : Option Nat) : Nat :=
  match id with
  | some i => if g.treeIds.contains i then g.treeIds.idxOf i else 0xFFFF
  | none => 0xFFFF

/-- The OPC of the bundle at a fragment's program counter (05 Table 5.8, BLOCK). -/
def State.opcAt (s : State) (gid fid pc : Nat) : Nat :=
  match s.trAg (.gang gid fid) (pc + 11) .exec with
  | .ok t => (s.memRead t.key 1 t.zb).1
  | _ => 0

/-- The status of a record's child: 0 live, 1 waiting at a re-gang point, 2 gone. -/
def Gang.childStat (g : Gang) (c : Option Nat) : Nat :=
  match c with
  | none => 2
  | some i => match g.frags.find? i with
    | some f => if f.stat = .rgWait then 1 else 0
    | none => 0

/-- A record's entry (05 Table 5.8). -/
def Gang.recEntry (g : Gang) (r : SplitRec) : Nat :=
  2 + 2 ^ 8 * r.sdepth + 2 ^ 16 * r.frames.length + 2 ^ 24 * (g.childStat r.childT + 4 * g.childStat r.childF) +
    2 ^ 32 * g.treeIdx r.parent + 2 ^ 48 * g.treeIdx r.childT + 2 ^ 64 * g.treeIdx r.childF + 2 ^ 96 * r.fmt.toNat +
    2 ^ 128 * (r.lc.toList.zipIdx.foldl (fun a e => a + e.1.toNat * 2 ^ (32 * e.2)) 0)

/-- A fragment's entry; `top`: the index of its top call frame, `opc`: the blocking OPC. -/
def Gang.fragEntry (g : Gang) (f : Frag) (top opc : Nat) : Nat :=
  let st := match f.stat with | .ready => 0 | .blocked _ => 1 | .rgWait => 2
  let sm := (slicesOf g.width f.mask).foldl (fun a k => a + 2 ^ k) 0
  1 + 2 ^ 8 * f.sdepth + 2 ^ 16 * f.frames.length + 2 ^ 24 * st + 2 ^ 32 * g.treeIdx f.parent + 2 ^ 80 * top +
    2 ^ 96 * f.fmt.toNat + 2 ^ 128 * (f.lc.toList.zipIdx.foldl (fun a e => a + e.1.toNat * 2 ^ (32 * e.2)) 0) +
    2 ^ 256 * f.pc + 2 ^ 320 * sm + 2 ^ 448 * (if st = 1 then opc else 0) +
    2 ^ 480 * ((if f.pendSeq then 1 else 0) + (if f.pendTrap then 2 else 0) + (if f.pendBkpt then 4 else 0)) +
    2 ^ 512 * maskBytes f.mask

/-- Is an operation a joint or plain MMA? -/
def isMma (i : Instr) : Bool :=
  match i with
  | .mma _ => true
  | .mmaG _ => true
  | .mmaJ _ => true
  | .mmaGJ _ => true
  | _ => false

/-- Does an operation move row by row: an MMA, MRD, MWR or MCLR (07 R205)? -/
def isRows (i : Instr) : Bool :=
  isMma i || match i with
    | .mrd _ => true
    | .mwr _ => true
    | .mclr _ => true
    | _ => false

/-- The row cursor of a gang's interrupted operation (05 Table 5.6, MASH_CURSOR; 07 R205). -/
def State.mashCursor (s : State) (gid : Nat) : Nat :=
  match (s.flightsOfGang gid).find? fun f => isRows f.instr && f.cur ≠ 0 && f.accs.any (fun a => !a.done) with
  | some f => f.cur
  | none => 0xFFFFFFFF

/-- A plane comes from memory and is loaded again on resume (07 R205). -/
def Plane.reload (p : Plane) : Bool := p.held && p.src ≠ 0

/-- MASH_FLAGS (05 Table 5.6). -/
def Gang.mashFlags (g : Gang) : Nat :=
  let b := fun (x : Bool) (k : Nat) => if x then 2 ^ k else 0
  b g.shadow.reload 0 + b g.active.reload 1 + 4 * (g.active.fmt % 32) + b g.active.held 7 + 256 * (g.shadow.fmt % 32) +
    b g.shadow.held 13

/-- The image header written (05 Table 5.6). -/
def State.saveHeader (s : State) (gid : Nat) (g : Gang) (kh : KHdr) (base st : Nat) : State :=
  let q := g.q.toList.zipIdx.foldl (fun a e => a + e.1.bind.toNat * 2 ^ (32 * e.2)) 0
  let h := (List.range 16).foldl (fun a k => a + (Tab.get 0 g.h k).toNat * 2 ^ (32 * k)) 0
  let roots := (g.frags.filter fun e => e.2.parent.isNone).length + (g.recs.filter fun e => e.2.parent.isNone).length
  let w := fun (off n x : Nat) (t : State) => t.pokeN (base + off) n x
  w 384 128 0 (w 256 128 (maskBytes g.fmask) (w 216 40 0 (w 152 64 h (w 144 8 g.shadow.src (w 136 8 g.active.src
    (w 132 4 g.mashFlags (w 128 4 (s.mashCursor gid) (w 64 64 q (w 48 16 0 (w 46 2 roots (w 45 1 (g.chk.toNat % 2)
    (w 44 1 g.k.toNat (w 40 4 g.fpstat.toNat (w 36 4 g.fpctl.toNat (w 32 4 g.skid.toNat (w 24 8 g.epc.toNat
    (w 16 8 g.cause.toNat (w 14 2 g.treeIds.length (w 13 1 st (w 12 1 kh.splitd (w 11 1 kh.calld (w 10 1 kh.sregs
    (w 8 2 kh.vregs (w 6 2 g.width (w 4 2 1 (w 0 4 0x495A4E5A s))))))))))))))))))))))))))

/-- The S, P and V areas written; of a workgroup that SWAPO saves (`chip`), the lines that the register cache holds go to the shadow region
instead, and which of them those are is open (09 R268). -/
def State.saveRegs (s : State) (g : Gang) (kh : KHdr) (base : Nat) (o : ImgOff) (chip : Bool) : State :=
  let t := s.pokeWords (base + 512) ((List.range 64).map fun k => if k < kh.sregs then (Tab.get 0 g.s k).toNat else 0)
  let n := g.width / 8
  let t := t.pokeBytes (base + 768) ((List.range (8 * n)).map fun i =>
    BitVec.ofNat 8 ((g.rdP (i % 8)).toNat / 2 ^ (8 * (i / 8)) % 256))
  ((List.range (kh.vregs * n)).filter fun i => !(chip && s.pick (2 ^ 58 + base + 32 * i))).foldl (fun t i =>
    t.pokeWords (base + o.voff + 32 * i) ((List.range 8).map fun l => (g.rdV (i / n) (8 * (i % n) + l)).toNat)) t

/-- The frames of a fragment written from an index of the call area on, deepest first; the index after them. -/
def State.saveFrames (s : State) (g : Gang) (base : Nat) : Nat → Nat → List Frame → State
  | _, _, [] => s
  | ix, prev, f :: rest =>
    let k := base + 16 * ix
    let t := s.pokeN k 16 (f.ret + 2 ^ 64 * g.treeIdx (some f.owner) + 2 ^ 80 * prev)
    t.saveFrames g base (ix + 1) ix rest

/-- The call frames that the call area holds for a fragment: those saved in the handler slot stand for the handler fragment, whose
own calls stand in H_FRAMES (05 R146, Table 5.14; log entry 76). -/
def Gang.callFrames (g : Gang) (fid : Nat) (f : Frag) : List Frame :=
  match g.slot with
  | some sl => if sl.fid = fid then sl.frames else f.frames
  | none => f.frames

/-- The split and call areas written (05 R145, R146): every entry not in use has KIND 0 and every field zero. -/
def State.saveTree (s : State) (gid : Nat) (g : Gang) (base : Nat) (o : ImgOff) : State :=
  let t := s.pokeZeros (base + o.soff) (256 * (2 * g.width - 1))
  let t := g.recs.zipIdx.foldl (fun (t : State) e => t.pokeN (base + o.soff + 256 * e.2) 256 (g.recEntry e.1.2)) t
  let r := g.frags.zipIdx.foldl (fun (a : State × Nat) e =>
    let f := e.1.2
    let fr := g.callFrames e.1.1 f
    let top := if fr.isEmpty then 0xFFFF else a.2 + fr.length - 1
    let u := a.1.pokeN (base + o.soff + 256 * (g.recs.length + e.2)) 256 (g.fragEntry f top (s.opcAt gid e.1.1 f.pc))
    (u.saveFrames g (base + o.coff) a.2 0xFFFF fr.reverse, a.2 + fr.length)) (t, 0)
  r.1

/-- The extension area written (05 Table 5.14); `inTable`: the monitor is held in the wake table. H_KREGS is the supervisor handler's. -/
def State.saveExt (s : State) (g : Gang) (base : Nat) (o : ImgOff) (inTable : Bool) : State :=
  let x := base + o.xoff
  let w := fun (off n v : Nat) (t : State) => t.pokeN (x + off) n v
  let sl := g.slot
  let mode := match sl.map (·.mode) with | some .userHandler => 1 | some .supHandler => 2 | _ => 0
  let hf := (sl.bind fun y => (g.frags.find? y.fid).map (·.frames)).getD []
  let frs := if mode = 0 then [] else hf.reverse
  let lcs := ((sl.map (·.lc.toList)).getD []).zipIdx.foldl (fun a e => a + e.1.toNat * 2 ^ (32 * e.2)) 0
  let b := fun (y : Bool) (k : Nat) => if y then 2 ^ k else 0
  w 236 20 0 (w 232 4 (b g.mon.armed 0 + b g.mon.fired 1 + b inTable 2) (w 224 8 (g.mon.va / 128 * 128)
    (w 216 8 (g.vplo.toNat + 2 ^ 32 * g.vphi.toNat) (w 212 4 g.drawwait.toNat (w 208 4 g.mset.toNat
    (w 204 4 g.pristat.toNat (w 200 4 g.fsub.toNat (w 192 8 g.faddr.toNat (w 184 8 0
    (w 152 32 (frs.zipIdx.foldl (fun a e => a + e.1.ret * 2 ^ (64 * e.2)) 0)
    (w 151 1 (mode + b sl.isSome 7) (w 150 1 frs.length (w 149 1 (if mode = 1 then 0 else (sl.map (·.k.toNat)).getD 0)
    (w 148 1 ((sl.map (·.frames.length)).getD 0) (w 132 16 lcs (w 128 4 ((sl.map (·.fmt.toNat)).getD 0)
    (w 0 128 (maskBytes g.dmask) s)))))))))))))))))

/-- A tile written to its owner's accumulator area (05 R146, 07 R191). -/
def State.saveTile (s : State) (gid tile : Nat) : State :=
  match s.gang? gid with
  | none => s
  | some g =>
    s.pokeWords (g.image + (imgOff (s.khOf g) g.width).aoff + 32768 * tile)
      ((List.range 8192).map fun i => (Tab.get 0 g.a (8192 * tile + i)).toNat)

/-- The tiles that the core's accumulator store holds for a gang are written and leave the store; SWAPO writes them to the shadow region. -/
def State.saveTiles (s : State) (gid : Nat) (chip : Bool) : State :=
  let t := if chip then s else (s.tiles.filter fun e => e.1 == gid).foldl (fun (t : State) e => t.saveTile gid e.2) s
  { t with tiles := t.tiles.filter fun e => e.1 != gid }

/-- The engine save block written for a gang that used MSH or queue operations (07 R192): reserved bytes are zero, and MSHREC is private to
the device. SWAPO writes the planes to the shadow region. -/
def State.saveEngine (s : State) (g : Gang) (base : Nat) (o : ImgOff) (chip : Bool) : State :=
  if !g.mshUsed then s else
  let e := base + o.eoff
  let t := g.q.toList.zipIdx.foldl (fun (t : State) q =>
    (t.pokeWords (e + 1024 * q.2) (q.1.words.map (·.toNat))).pokeN (e + 16384 + 4 * q.2) 4 q.1.words.length) s
  let t := ((t.pokeZeros (e + 16448) 960).pokeZeros (e + 17920) 512).pokeZeros (e + 45056) 20480
  let t := t.pokeBytes (e + 44032) ((List.range 1024).map fun i => Config.freeByte s.fresh (2 ^ 51 + i))
  let t := t.pokeBytes (e + 17408) g.codebook
  let t := if g.active.held && !g.active.reload && !chip then t.pokeBytes (e + 18432) g.active.data else t
  let t := if g.shadow.held && !g.shadow.reload && !chip then t.pokeBytes (e + 30720) g.shadow.data else t
  g.groups.zipIdx.foldl (fun (t : State) x => t.pokeN (e + 43008 + 16 * x.2) 16 (x.1.1 + 2 ^ 64 * x.1.2)) t

/-- A gang's image with its engine save block, as it stands in memory. -/
def State.imageNow (s : State) (g : Gang) : Tab Byte :=
  (List.range (imageBytes (s.khOf g) g.width)).filterMap fun i =>
    let b := s.peek (g.image + i)
    if b = 0 then none else some (i, b)

/-- What stands in a gang's image is what the device wrote there. -/
def State.keepImage (s : State) (gid : Nat) : State :=
  match s.gang? gid with
  | none => s
  | some g => s.updGang gid fun x => { x with saved := s.imageNow g }

/-- A gang's whole state written to its image with a STATE code; of a workgroup that SWAPO saves (`chip`), without its register lines, tiles
and planes, which go to the shadow region (09 R268). -/
def State.saveImage (s : State) (gid st : Nat) (inTable : Bool) (chip : Bool := false) : State :=
  match s.gang? gid with
  | none => s
  | some g0 =>
    let g := { g0 with drawwait := g0.drawwait + BitVec.ofNat 32 (s.drawPending gid) }
    let kh := s.khOf g
    let o := imgOff kh g.width
    ((((((s.saveHeader gid g kh g.image st).saveRegs g kh g.image o chip).saveTree gid g g.image o).saveExt g g.image o
      inTable).saveTiles gid chip).saveEngine g g.image o chip).keepImage gid

/-- The scratchpad bytes of a workgroup written to its save area beside the images (05 R134). -/
def State.saveScr (s : State) (wid : Nat) : State :=
  match s.wgs.find? wid with
  | none => s
  | some w =>
    match s.grids.find? w.grid with
    | none => s
    | some r =>
      let n := alignUp r.kh.scratch 4096
      let base := w.image + w.imageLen - n
      (List.range n).foldl (fun (t : State) i => t.poke (base + i) (Tab.get 0 w.scr i)) s

/-- The STATE byte of a gang's image set. -/
def State.setImgState (s : State) (gid st : Nat) : State :=
  match s.gang? gid with
  | none => s
  | some g => (s.pokeN (g.image + 13) 1 st).updGang gid fun x => { x with saved := Tab.set 0 x.saved 13 (BitVec.ofNat 8 st) }

/-- A gang whose saved on-chip state was changed in the shadow region holds unspecified lines, tiles and planes; a line that reads as poison
there stays poison (09 R268, 10 R290). -/
def State.loseChip (s : State) (gid : Nat) (poison : Bool) : State :=
  let k := 2 ^ 59 + 2 ^ 20 * gid
  let lose := fun (p : Plane) (x : Nat) =>
    { p with
      data := if p.reload then p.data else (List.range p.data.length).map fun i => Config.freeByte s.fresh (k + x + i),
      bad := if p.reload || !poison then p.bad
        else (List.range (ceilDiv p.data.length 32)).foldl (fun b i => if s.pick (k + x + 2 ^ 15 + i) then NSet.ins b i else b) p.bad }
  s.updGang gid fun g =>
    let keys := (List.range ((s.khOf g).vregs * g.width)).map fun i => vKey (i / g.width) (i % g.width)
    { g with
      v := keys.zipIdx.foldl (fun (t : Tab W32) e => Tab.set 0 t e.1 (Config.freeWord s.fresh (k + e.2))) g.v,
      vbad := if poison then keys.foldl (fun b i => if s.pick (k + 2 ^ 19 + i / 8) then NSet.ins b i else b) g.vbad else g.vbad,
      a := (List.range 65536).foldl (fun (t : Tab W32) i =>
        if s.pick (k + 2 ^ 18 + i / 8192) then Tab.set 0 t i (Config.freeWord s.fresh (k + 2 ^ 17 + i)) else t) g.a,
      abad := if poison then (List.range 8192).foldl (fun b i => if s.pick (k + 2 ^ 21 + i) then NSet.ins b i else b) g.abad else g.abad,
      active := lose g.active (2 ^ 16), shadow := lose g.shadow (2 ^ 16 + 12288) }

/-- A workgroup whose saved on-chip state was changed in the shadow region: its gangs', and its scratchpad. -/
def State.loseWg (s : State) (wid : Nat) (w : Wg) (poison : Bool) : State :=
  let t := w.gangs.foldl (fun (t : State) gid => t.loseChip gid poison) s
  t.updWg wid fun x => { x with scr := (List.range (s.khWg w).scratch).foldl (fun (t : Tab Byte) i =>
    Tab.set 0 t i (Config.freeByte s.fresh (2 ^ 60 + 2 ^ 20 * wid + i))) x.scr }

/-- May supervisor code write a byte of an image while STATE is 2 or 3: the S, P and V areas, HBANK, FPCTL and CAUSE (05 R148)? -/
def imageOpen (kh : KHdr) (width i : Nat) : Bool :=
  let v := (imgOff kh width).voff
  decide (512 ≤ i ∧ i < 768 + width ∨ v ≤ i ∧ i < v + 4 * kh.vregs * width ∨ 152 ≤ i ∧ i < 216 ∨ 36 ≤ i ∧ i < 40 ∨ 16 ≤ i ∧ i < 24)

/-- Was a byte of a gang's image changed that must not be (05 R148)? `may`: STATE was 2 or 3. -/
def State.imageBroken (s : State) (g : Gang) (may : Bool) : Bool :=
  let kh := s.khOf g
  let now := s.imageNow g
  let differs := fun (l m : Tab Byte) => l.any fun e =>
    !(may && imageOpen kh g.width e.1) && Tab.get 0 m e.1 != e.2
  differs now g.saved || differs g.saved now

/-- A gang whose image was broken: unspecified registers, and unspecified program counters and loop counters of its fragments; its tree keeps
its shape (05 R148, log entry 92). -/
def Gang.lost (fresh : Nat) (kh : KHdr) (g : Gang) : Gang :=
  let k := 2 ^ 62
  let w := fun (i : Nat) => Config.freeWord fresh (k + i)
  { g with
    s := (List.range kh.sregs).foldl (fun (t : Tab W32) i => Tab.set 0 t i (w i)) g.s,
    p := Vector.ofFn fun (i : Fin 8) => if i = 0 then g.p.getD 0 0 else BitVec.ofNat 1024 (Config.freeNat fresh (k + i) % 2 ^ g.width),
    k := BitVec.ofNat 4 (Config.freeNat fresh (k + 8)),
    h := (List.range 16).foldl (fun (t : Tab W32) i => Tab.set 0 t i (w (64 + i))) g.h,
    fpctl := BitVec.ofNat 32 (Config.freeNat fresh (k + 9) % 32), fpstat := w 80 &&& 31#32,
    faddr := BitVec.ofNat 64 (Config.freeNat fresh (k + 10)), drawwait := w 81,
    codebook := (List.range g.codebook.length).map fun i => Config.freeByte fresh (k + i),
    frags := g.frags.map fun e => (e.1,
      { e.2 with pc := 16 * (Config.freeNat fresh (k + 2 ^ 12 + e.1) % 2 ^ 53), fmt := w (2 ^ 12 + e.1) &&& 0xFFFF#32,
                 lc := Vector.ofFn fun (i : Fin 4) => w (2 ^ 13 + 4 * e.1 + i) }) }

/-- Does a tile of a gang hold anything? One never written reads as zero, wherever it stands (07 R191). -/
def Gang.tileUsed (g : Gang) (tile : Nat) : Bool := (List.range 8192).any fun i => Tab.get 0 g.a (8192 * tile + i) ≠ 0

/-- A tile loaded from its owner's accumulator area: what stands in a poisoned sector there is poisoned (10 R290). -/
def State.tilePoison (s : State) (gid tile : Nat) : State :=
  match s.gang? gid with
  | none => s
  | some g =>
    let k := g.image + (imgOff (s.khOf g) g.width).aoff + 32768 * tile
    if !(s.poisonIn k 32768 && g.tileUsed tile) then s else
    let bad := (List.range 1024).filter fun i => s.poisonIn (k + 32 * i) 32
    s.updGang gid fun x => { x with abad := bad.foldl (fun b i => NSet.ins b (1024 * tile + i)) x.abad }

/-- A plane read back from an engine save block. -/
def Plane.marked (s : State) (key : Nat) (p : Plane) : Plane :=
  if !p.held || p.reload then p else
  { p with bad := ((List.range (ceilDiv p.data.length 32)).filter fun i => s.poisonIn (key + 32 * i) 32).foldl NSet.ins p.bad }

/-- A gang whose image is read back keeps what stood in poisoned sectors as poison (10 R290; log entry 10): its register lines, tiles and
planes as such; poison in the other parts raises POISON, and leaves the gang's registers unspecified. Which lines, tiles and planes of a
workgroup that SWAPO saved come from the image and not from the shadow region is open (09 R268). -/
def State.imagePoison (s : State) (gid : Nat) (chip : Bool) : State :=
  match s.gang? gid with
  | none => s
  | some g =>
    let kh := s.khOf g
    let o := imgOff kh g.width
    let b := g.image
    let n := g.width / 8
    if !(s.poisonIn b (imageBytes kh g.width)) then s else
    let here := fun (i : Nat) => !(chip && s.pick (2 ^ 57 + i))
    let lines := (List.range (kh.vregs * n)).filter fun i => s.poisonIn (b + o.voff + 32 * i) 32 && here i
    let t := s.updGang gid fun x =>
      { x with vbad := lines.foldl (fun v i => (List.range 8).foldl (fun v l => NSet.ins v (vKey (i / n) (8 * (i % n) + l))) v) x.vbad,
               active := if g.mshUsed && here (2 ^ 20) then x.active.marked s (b + o.eoff + 18432) else x.active,
               shadow := if g.mshUsed && here (2 ^ 21) then x.shadow.marked s (b + o.eoff + 30720) else x.shadow }
    let t := ((List.range 8).filter fun i => here (2 ^ 22 + i)).foldl (fun (t : State) i => t.tilePoison gid i) t
    let rest := s.poisonIn b o.voff || s.poisonIn (b + o.soff) (o.xoff + 256 - o.soff) ||
      g.mshUsed && (s.poisonIn (b + o.eoff) 18432 || s.poisonIn (b + o.eoff + 43008) 2048)
    if rest then (t.updGang gid (Gang.lost s.fresh kh)).addAsync (.gang gid (g.frags.keys.head?.getD 0)) cPOISON else t

/-- A gang's image read back. Of a gang in STATE 2 or 3 (`may`) the fields that supervisor code may have changed, those bytes that did change
(05 R148); reserved bits of a register read zero (00 R4). Where another byte was changed, the workgroup's state is unspecified. -/
def State.loadImage (s : State) (gid : Nat) (may : Bool) : State :=
  match s.gang? gid with
  | none => s
  | some g =>
    let kh := s.khOf g
    let o := imgOff kh g.width
    let b := g.image
    let n := g.width / 8
    let rd := fun (off k : Nat) => s.peekN (b + off) k
    let same := fun (off k : Nat) => (List.range k).all fun i => s.peek (b + off + i) == Tab.get 0 g.saved (off + i)
    let word := fun (off : Nat) (x : W32) => if same off 4 then x else BitVec.ofNat 32 (rd off 4)
    let v := (List.range (kh.vregs * g.width)).foldl (fun (t : Tab W32) i =>
      let j := i / g.width
      let l := i % g.width
      Tab.set 0 t (vKey j l) (word (o.voff + 32 * (j * n + l / 8) + 4 * (l % 8)) (Tab.get 0 t (vKey j l)))) g.v
    let ss := (List.range kh.sregs).foldl (fun (t : Tab W32) i => Tab.set 0 t i (word (512 + 4 * i) (Tab.get 0 t i))) g.s
    let p := Vector.ofFn fun (i : Fin 8) =>
      if i = 0 then g.p.getD 0 0 else
      BitVec.ofNat 1024 ((List.range n).foldl (fun a k => a + rd (768 + 8 * k + i) 1 * 2 ^ (8 * k)) 0)
    let h := (List.range 16).foldl (fun (t : Tab W32) i => Tab.set 0 t i (word (152 + 4 * i) (Tab.get 0 t i))) g.h
    let t := if may then s.updGang gid fun x =>
        { x with v := v, s := ss, p := p, h := h, fpctl := BitVec.ofNat 32 (rd 36 4 % 32),
                 cause := if same 16 8 then x.cause else BitVec.ofNat 64 (rd 16 8 % 2 ^ 23) }
      else s
    let u := if s.imageBroken g may then
        match s.wgOf g with
        | none => t
        | some w => (t.loseWg g.wid w false).updGang gid (Gang.lost s.fresh kh)
      else t
    u.imagePoison gid ((s.wgOf g).any (·.swapo))

/-! ### Planes -/

/-- A plane marked stale is loaded again from its source (07 R205); a page that cannot be read leaves zeros and a cause of
the agent that goes on. -/
def State.reloadPlane (s : State) (ag : Agent) (causes : Nat) (p : Plane) : Option (Plane × State) :=
  if !p.stale then some (p, s) else
  match s.devRead (s.unitOf ag) (s.pasidOf ag) (s.partOf ag) p.src p.data.length with
  | .ok x t => some ({ p with stale := false, data := toBytes p.data.length x }, t)
  | .fault _ t => some ({ p with stale := false, data := toBytes p.data.length 0 }, t.addAsync ag causes)
  | .wait _ => none

/-- Both planes of a gang made current; nothing while a page is awaited. -/
def State.reloadPlanes (s : State) (ag : Agent) (causes : Nat) : Option State :=
  match ag with
  | .ctx _ => some s
  | .gang gid _ =>
    match s.gang? gid with
    | none => some s
    | some g =>
      match s.reloadPlane ag causes g.active with
      | none => none
      | some (a, t) =>
        match t.reloadPlane ag causes g.shadow with
        | none => none
        | some (b, u) => some (u.updGang gid fun x => { x with active := a, shadow := b })

end Sys2Proof.Machine
end

