-- ==== Sys2Proof/Machine/Place.lean ====
section
/-!
DEFINITION. Dispatch (03 R67-R71): the room of cores and clusters, the choice of a place and of a victim, gang start
(03 R65, R86; 08 R240), the return of a saved workgroup, and the end of gangs and workgroups.
-/
namespace Sys2Proof.Machine

/-- The core number of a gang that is on no core. -/
def offCore : Nat := 65536

/-- Does the wake table hold the monitor of a gang of the workgroup (03 R81, 05 R147)? -/
def Wg.keepsMon (w : Wg) (gid : Nat) : Bool := w.wakes.any fun x => x.2 == 2 ^ 70 + gid

/-- The linear index that a grid's dispatch places next. -/
def Grid.nextLinear (g : Grid) : Nat := g.first + g.next

/-- The grid's place in its order after workgroups killed before placement (13 R377). -/
def Grid.skipDead (g : Grid) : Nat → Grid
  | 0 => g
  | n + 1 => if decide (g.next < g.count) && g.dead.has g.nextLinear then { g with next := g.next + 1 }.skipDead n else g

/-- The room that a fused grid keeps on the neighbour cluster for its next workgroup (07 R202). -/
def Grid.reservedRoom (g : Grid) : List RoomAt :=
  match g.reserve with
  | none => []
  | some c =>
    let n := needOf g.lr g.kh
    (List.range 8).map fun i =>
      { core := 8 * c + i, gangs := (List.range n.gangs |>.filter fun k => k % 8 = i).length, scratch := n.scratch / 8,
        bars := if i = 0 then n.bars else 0 }

/-- The room taken on a core: resident workgroups but `excl`, rooms held for entries but `e`, and rooms held for grids but
`e`'s. -/
def State.useOf (s : State) (core : Nat) (excl : Option Nat) (e grid : Nat) : RoomAt :=
  let rs := ((s.wgs.filter fun x => x.2.onChip && excl != some x.1).flatMap fun x => s.roomOf x.2) ++
    ((s.entries.filter fun x => x.id != e).flatMap (·.room)) ++
    ((s.grids.filter fun x => x.1 != grid).flatMap fun x => x.2.reservedRoom)
  (rs.filter fun r => r.core == core).foldl (fun a r =>
    { a with gangs := a.gangs + r.gangs, scratch := a.scratch + r.scratch, bars := a.bars + r.bars })
    { core := core, gangs := 0, scratch := 0, bars := 0 }

/-- Has a core room for gangs, scratchpad and barriers? -/
def State.coreFits (s : State) (core : Nat) (excl : Option Nat) (e grid gangs scratch bars : Nat) : Bool :=
  let u := s.useOf core excl e grid
  !(s.retiredCores.has core) && decide (u.gangs + gangs ≤ 48) && decide (u.scratch + scratch ≤ 196608) &&
    decide (u.bars + bars ≤ 256)

/-- Has a cluster room for a fused workgroup? -/
def State.clusterFits (s : State) (c : Nat) (excl : Option Nat) (e grid : Nat) (n : Need) : Bool :=
  !(s.wgs.any fun x => x.2.fused && x.2.onChip && excl != some x.1 && x.2.cores.any fun k => clusterOf k == c) &&
    !(s.grids.any fun g => g.1 != grid && g.2.reserve == some c) &&
    (List.range 8).all fun i =>
      s.coreFits (8 * c + i) excl e grid (List.range n.gangs |>.filter fun k => k % 8 = i).length (n.scratch / 8)
        (if i = 0 then n.bars else 0)

/-- The granules of an image region in use. -/
def State.imagesOf (s : State) (part : Nat) : List (Nat × Nat × Nat) := s.images.filter fun x => x.1 == part

/-- The lowest room of `len` bytes in a partition's image region (02 R51; log entry 12); none in a region placed where it may not lie (10 R276, log entry 82). -/
def State.findImage (s : State) (part len : Nat) : Option Nat :=
  let p := s.part part
  let lo := p.imgbase.toNat
  let hi := lo + p.imgsize.toNat
  let used := s.imagesOf part
  if !(structOk part lo p.imgsize.toNat) then none else
  ((lo :: used.map fun x => x.2.1 + x.2.2).filter fun a =>
    decide (lo ≤ a ∧ a + len ≤ hi) && used.all fun x => decide (a + len ≤ x.2.1 ∨ x.2.1 + x.2.2 ≤ a)).min?

/-- The workgroup with a linear index of a grid. -/
def State.wgAt (s : State) (grid linear : Nat) : Option Wg :=
  (List.find? (fun (x : Nat × Wg) => x.2.grid == grid && x.2.linear == linear) s.wgs).map (·.2)

/-- What placing an entry's next workgroup needs, and its linear index. -/
def State.needEntry (s : State) (e : Entry) : Option (Grid × Need × Nat) :=
  match s.grids.find? e.grid with
  | none => none
  | some g =>
    let lin := match e.wid with
      | some w => ((s.wgs.find? w).map (·.linear)).getD 0
      | none => g.nextLinear
    some (g, needOf g.lr g.kh, lin)

/-- The running graphs of a partition (03 R82). -/
def State.graphsRunning (s : State) (part : Nat) : Nat :=
  (s.graphs.filter fun x => x.2.part == part &&
    match s.grids.find? x.2.grid with | some g => decide (g.next > 0) | none => true).length

/-- Is there room for a grid's cohort state among the 16 of a partition (12 R352)? That of a launch over several chips has its place at its
origin before the launch starts. -/
def State.cohortRoom (s : State) (part : Nat) (g : Grid) : Bool := g.mc.isSome || s.cohortPlace part

/-- May an entry's grid start now: a graph and a grid with cohorts wait for a place among 16 (03 R82, 12 R352)? -/
def State.mayStart (s : State) (e : Entry) (g : Grid) : Bool :=
  e.wid.isSome || decide (g.next > 0) ||
    ((match g.kind with | .graphRoot _ => decide (s.graphsRunning e.part < 16) | _ => true) &&
      (g.cohortN == 0 || s.cohortRoom e.part g))

/-- The first element with the greatest value. -/
def maxBy {α : Type} (f : α → Nat) : List α → Option α
  | [] => none
  | x :: t => match maxBy f t with
    | none => some x
    | some y => if f y > f x then some y else some x

/-- The clusters that a fused workgroup may take (07 R202): the neighbour of its partner's, or one whose neighbour is free
too when its partner is still to come. -/
def State.fusedClusters (s : State) (e : Entry) (g : Grid) (n : Need) (lin : Nat) (excl : Option Nat) : List Nat :=
  let fits := (List.range 4).map (· + 4 * e.part) |>.filter fun c => s.clusterFits c excl e.id e.grid n
  let mate := if lin % 2 = 0 then lin + 1 else lin - 1
  match g.reserve with
  | some c => if e.wid.isNone then fits.filter fun x => x == c else fits.filter fun x => x != c
  | none =>
    match s.wgAt e.grid mate with
    | some w => if w.onChip then fits.filter fun c => (w.cores.any fun k => clusterOf k == (c ^^^ 1)) else fits
    | none =>
      if e.wid.isNone && lin % 2 = 0 && decide (mate < g.first + g.count) && !(g.dead.has mate) then
        fits.filter fun c => s.clusterFits (c ^^^ 1) excl e.id e.grid n
      else fits

/-- choose_place (03 R69): the cores for an entry's next workgroup, with `excl` taken as gone; `only`: no others. Which of several
clusters with room a fused workgroup takes the spec does not say: the one with the most free gang slots in all, the lowest number
first (log entry 74). -/
def State.placeFor (s : State) (e : Entry) (excl : Option Nat) (only : Option (List Nat)) : Option (List Nat) :=
  match s.needEntry e with
  | none => none
  | some (g, n, lin) =>
    let img := e.wid.isSome || (s.findImage e.part n.image).isSome
    let allowed := fun c => match only with | none => true | some l => l.contains c
    let free := fun c => 48 - (s.useOf c excl e.id e.grid).gangs
    if !img || !(s.mayStart e g) then none
    else if n.fused then
      let cs := (s.fusedClusters e g n lin excl).filter fun c => (List.range 8).any fun i => allowed (8 * c + i)
      (maxBy (fun c => (List.range 8).foldl (fun a i => a + free (8 * c + i)) 0) cs).map fun c =>
        (List.range 8).map fun i => 8 * c + i
    else
      let cs := ((List.range 32).map (· + 32 * e.part)).filter fun c =>
        allowed c && s.coreFits c excl e.id e.grid n.gangs n.scratch n.bars
      (maxBy free cs).map fun c => [c]

/-! ### Victims -/

/-- Has a gang a joint operation latched or running (07 R203)? -/
def State.joint (s : State) (gid : Nat) : Bool :=
  (s.flightsOfGang gid).any fun f => match f.instr with | .mmaJ _ => true | .mmaGJ _ => true | _ => false

/-- Does a latch's set name a gang of a workgroup (07 R201)? -/
def Latch.names (l : Latch) (w : Wg) : Bool :=
  l.grid == w.grid && l.evenWg == w.linear / 2 * 2 && decide (l.set.toNat / 2 ^ (16 * (w.linear % 2)) % 2 ^ 16 ≠ 0)

/-- The workgroups pre-empted together with one that holds a member of a set with a joint operation latched or running: those of every
member (07 R204). -/
def State.victimSet (s : State) (wid : Nat) : List Nat :=
  match s.wgs.find? wid with
  | none => []
  | some w =>
    let ls := s.latches.filter fun e => e.2.names w
    wid :: ((s.wgs.filter fun x => x.1 != wid && x.2.onChip && ls.any fun e => e.2.names x.2).map (·.1))

/-- Is a workgroup's pre-emption in flight? Other swaps do not count (03 R70). -/
def Wg.preempted (w : Wg) : Bool :=
  match w.stat with
  | .preempting => true
  | .swapping 1 => !w.swapo
  | _ => false

/-- choose_victim (03 R70): the lowest priority, then the most recently placed; a core with a pre-emption in flight gives none, neither for a
victim nor for a workgroup that goes with it (07 R204). -/
def State.victimFor (s : State) (e : Entry) : Option Nat :=
  let busy := (s.wgs.filter fun x => x.2.preempted).flatMap fun x => x.2.cores
  let coresOf := fun (w : Nat) => (s.victimSet w).flatMap fun v => ((s.wgs.find? v).map (·.cores)).getD []
  let cs := s.wgs.filter fun x =>
    x.2.part == e.part && x.2.stat == .resident && decide (x.2.prio < e.eff) &&
    ((s.grids.find? x.2.grid).any fun g => g.lr.lflags.testBit 1) &&
    !((coresOf x.1).any fun c => busy.contains c) && (s.placeFor e (some x.1) (some x.2.cores)).isSome
  (maxBy (fun (x : Nat × Wg) => (16 - x.2.prio) * 2 ^ 64 + x.2.placedAt) cs).map (·.1)

/-! ### Gangs -/

/-- An unbound queue register. -/
def Queue.none : Queue := { bind := 0, words := [] }

/-- A plane without a block. -/
def Plane.none : Plane := { fmt := 0, src := 0, held := false, stale := false, data := [], bad := [] }

/-- The fragment of a gang's start (02 R29). -/
def Frag.start (pc : Nat) (mask : LaneMask) (fmt : W32) (cycle : Nat) : Frag :=
  { pc := pc, mask := mask, fmt := fmt, lc := Vector.replicate 4 0, frames := [], sdepth := 0, parent := none, stat := .ready,
    stopped := false, rgOk := false, pendSeq := false, pendTrap := false, pendBkpt := false, readyAt := cycle, run := 0,
    lastIssue := cycle, created := cycle, blockedAt := 0, haz := [], po := [], con := [], skip := 0, jt := none }

/-- A gang with every register at its start value (02 R48). -/
def Gang.fresh (wid num width core dp image : Nat) : Gang :=
  { wid := wid, num := num, width := width, core := core, dp := dp, image := image, frags := [], recs := [], v := [],
    p := Vector.replicate 8 0, s := [], k := 0, h := [], q := Vector.replicate 16 Queue.none, a := [],
    active := Plane.none, shadow := Plane.none, codebook := List.replicate 512 0, groups := [], mshUsed := false,
    cause := 0, epc := 0, skid := 0, faddr := 0, fsub := 0, fmask := 0, dmask := 0, pristat := 0, chk := 0, fpctl := 0,
    fpstat := 0, mset := 0, vplo := 0, vphi := 0, drawwait := 0, helper := 0, ray := 0, entryRefs := [],
    mon := Monitor.off, slot := none, trap := none, halt := .running, lastFid := 0, asyncs := [], lastArr := [],
    rcMissing := [], esc := 0, gslot := 0, vbad := [], abad := [], saved := [] }

/-- S0 to S3 loaded; registers not declared are dropped (03 R65). -/
def loadS (kh : KHdr) (l : List Nat) (t : Tab W32) : Tab W32 :=
  l.zipIdx.foldl (fun t e => if e.2 < kh.sregs then Tab.set 0 t e.2 (BitVec.ofNat 32 e.1) else t) t

/-- V registers of one lane loaded; registers not declared are dropped. -/
def loadV (kh : KHdr) (lane : Nat) (l : List Nat) (t : Tab W32) : Tab W32 :=
  l.zipIdx.foldl (fun t e => if e.2 < kh.vregs then Tab.set 0 t (vKey e.2 lane) (BitVec.ofNat 32 e.1) else t) t

/-- A bin entry as the model keeps it: its 64 bits, and above them V2 of its first lane. -/
def entryBits (x : Nat) : Nat := x % 2 ^ 64

/-- V2 of an entry's first lane. -/
def entryXY (x : Nat) : Nat := x / 2 ^ 64

/-- Is a bin entry a ray's (08 Table 8.10)? -/
def isRay (x : Nat) : Bool := entryBits x / 2 ^ 62 == 1

/-- The lanes of a material gang: entry, V2, whether a helper, whether a ray, and the tile (08 R240). -/
def binLanes (ents : List Nat) : List (Nat × Nat × Bool × Bool × Nat) :=
  ((ents.filter fun x => !(isRay x)).flatMap fun x => (List.range 4).map fun j =>
      (entryBits x, entryXY x + j % 2 + 65536 * (j / 2), !(x.testBit j), false, natBits x 31 12)) ++
    (ents.filter isRay).map fun x => (entryBits x, 0xFFFFFFFF, false, true, 0)

/-- A gang as its launch starts it (03 R65, R86; 08 R240): every register, and one fragment at the kernel entry. -/
def startGang (g : Grid) (wid linear num core dp image fid cycle : Nat) (slotAddr : Nat → Nat) (graphAddr : Nat) : Gang :=
  let kh := g.kh
  let width := gangWidth g.lr kh
  let base := Gang.fresh wid num width core dp image
  let base := { base with chk := BitVec.ofNat 32 (kh.hflags % 2), lastFid := fid }
  let pc := kh.base + kh.entry
  let fmt := BitVec.ofNat 32 kh.fmt
  let halves := fun (x : Nat) => [x % 2 ^ 32, x / 2 ^ 32 % 2 ^ 32]
  match g.kind with
  | .node _ node =>
    let n := g.lanes
    { base with
      frags := [(fid, Frag.start pc (maskLow n) fmt cycle)],
      s := loadS kh (halves graphAddr ++ [node, n]) [],
      v := (List.range n).foldl (fun t l => loadV kh l (halves (slotAddr (g.entries.getD l 0))) t) [] }
  | .bin _ pass bin =>
    let ls := binLanes g.entries
    let n := g.lanes
    let pick := fun (f : Nat × Nat × Bool × Bool × Nat → Bool) => maskOf ((ls.zipIdx.filter fun e => f e.1).map (·.2))
    { base with
      frags := [(fid, Frag.start pc (maskLow n) fmt cycle)],
      s := loadS kh (halves g.lr.arg ++ [bin, n]) [],
      v := ls.zipIdx.foldl (fun (t : Tab W32) (e : (Nat × Nat × Bool × Bool × Nat) × Nat) =>
        loadV kh e.2 (halves e.1.1 ++ [e.1.2.1]) t) [],
      vplo := BitVec.ofNat 32 pass, vphi := BitVec.ofNat 32 (pass / 2 ^ 32),
      helper := pick fun e => e.2.2.1, ray := pick fun e => e.2.2.2.1,
      entryRefs := (ls.zipIdx.filter fun e => !(e.1.2.2.2.1)).map fun e => (e.2, e.1.2.2.2.2) }
  | _ =>
    { base with
      frags := [(fid, Frag.start pc (maskLow width) fmt cycle)],
      s := loadS kh (halves g.lr.arg ++ [linear, num]) [] }

/-- The datapath of a core with the fewest homed gangs (03 R69). -/
def State.homeDp (s : State) (core : Nat) : Nat :=
  let n := fun d => (s.gangs.filter fun e => e.2.core == core && e.2.dp == d).length
  (maxBy (fun d => 1000 - n d) (List.range 4)).getD 0

/-- The lowest free gang slot of a core (03 R69). -/
def State.freeSlotOn (s : State) (core : Nat) : Nat :=
  ((List.range 48).find? fun k => !(s.gangs.any fun e => e.2.core == core && e.2.gslot == k)).getD 0

/-- The data lines of some cores' L1 dropped. -/
def State.dropCores (s : State) (cores : List Nat) : State :=
  { s with l1 := s.l1.filter fun l => !(cores.contains l.core) }

/-- The gangs of a new workgroup, from the `num`-th on; each one's image says that it is resident (05 R144). The hit records that reach a
material gang are visible to it on every path (08 R242). -/
def State.startGangs (s : State) (gr : Grid) (wid linear image : Nat) (cores : List Nat) : Nat → Nat → State × List Nat
  | 0, _ => (s, [])
  | n + 1, num =>
    let core := cores.getD (num % cores.length) 0
    let gid := s.nextId
    let graph := match gr.kind with | .node g _ => s.graphs.find? g | _ => none
    let addr := fun slot => (graph.map fun g => g.pool + slot * 2 ^ g.slotLog2).getD 0
    let g := startGang gr wid linear num core (s.homeDp core)
      (image + num * imageBytes gr.kh (gangWidth gr.lr gr.kh)) (gid + 1) (s.coreCycle core) addr ((graph.map (·.addr)).getD 0)
    let g := { g with gslot := s.freeSlotOn core }
    let t := ({ s with nextId := gid + 2, gangs := s.gangs.put gid g }).setImgState gid 0
    let t := match gr.kind with
      | .bin _ _ _ => t.joined { ag := .gang gid 0, writers := 2 ^ 3, readers := allPaths }
      | .node k node => { t with graphs := t.graphs.upd (fun (x : Graph) =>
          { x with cask := gr.entries.zipIdx.foldl (fun (c : Tab CaskSt) (e : Nat × Nat) =>
              c.put e.1 (.running gid e.2 node)) x.cask }) k }
      | _ => t
    let r := t.startGangs gr wid linear image cores n (num + 1)
    (r.1, gid :: r.2)

/-- An entry changed by its name. -/
def State.updEntry (s : State) (id : Nat) (f : Entry → Entry) : State :=
  { s with entries := s.entries.map fun e => if e.id = id then f e else e }

/-- An entry removed. -/
def State.dropEntry (s : State) (id : Nat) : State := { s with entries := s.entries.filter fun e => e.id != id }

/-- The next workgroup of a grid placed on cores (03 R67, R69): its room, its gangs, its scratchpad of zeros. -/
def State.placeNew (s : State) (e : Entry) (g : Grid) (n : Need) (cores : List Nat) : State :=
  match s.findImage e.part n.image with
  | none => s
  | some img =>
    let wid := s.nextId
    let lin := g.nextLinear
    let s1 := ({ s with nextId := wid + 1, images := (e.part, img, n.image) :: s.images }).dropCores cores
    let r := s1.startGangs g wid lin img cores g.lr.gangs 0
    let w : Wg :=
      { grid := e.grid, linear := lin, gangs := r.2, stat := .resident, halted := false, haltAt := 0, prio := e.eff, part := e.part,
        cores := cores, fused := n.fused, scr := [], bars := List.replicate n.bars Barrier.zero, image := img,
        imageLen := n.image, placedAt := s.nextId, forEntry := none, wakes := [], woken := false, swapo := false, emptied := none,
        dblFault := false, bufs := [] }
    let mate := lin + 1
    let pair := n.fused && lin % 2 == 0 && decide (mate < g.first + g.count) && !(g.dead.has mate)
    let t := { r.1 with wgs := r.1.wgs.put wid w }
    let t := t.updGrid e.grid fun x =>
      ({ x with next := x.next + 1, live := x.live + 1,
                reserve := if pair then some (clusterOf (cores.getD 0 0) ^^^ 1) else none } : Grid).skipDead x.count
    if (t.grids.find? e.grid).all (fun x => x.next == x.count) then t.dropEntry e.id
    else t.updEntry e.id fun x => { x with rounds := 0, room := x.room.filter fun r => !(cores.contains r.core) }

/-! ### Return of a saved workgroup -/

/-- Blocks that end when their fragment is saved: the bundle issues again (05 R139, R147). -/
def Block.again : Block → Bool
  | .bar _ _ => false
  | .cohort _ _ => false
  | .mwait _ _ => false
  | .sleep _ => false
  | .drain _ => false
  | .counter _ _ => false
  | .pixlk => false
  | _ => true

/-- An operation of a gang taken up again on its return (05 R139, 07 R205); a finished cohort result is written. -/
def State.takeUp (s : State) (gid : Nat) : State :=
  s.flights.foldl (fun (t : State) e =>
    match e.2.ag with
    | .gang g fid =>
      if g == gid && e.2.withdrawn then
        match e.2.dest, e.2.sw with
        | .s b n _, x :: _ =>
          if e.2.grant ≠ 0 then
            let t := (List.range n).foldl (fun (u : State) i =>
              u.wrS (.gang g fid) (b + i) (BitVec.ofNat 32 (x / 2 ^ (32 * i)))) t
            { t with flights := t.flights.del e.1 }
          else { t with flights := t.flights.put e.1 { e.2 with withdrawn := false } }
        | _, _ => { t with flights := t.flights.put e.1 { e.2 with withdrawn := false } }
      else t
    | .ctx _ => t) s

/-- What a gang's escalation or a supervisor's answer decides when it runs again (09 R264, R376). -/
def State.actEsc (s : State) (gid : Nat) : State :=
  match s.gang? gid with
  | none => s
  | some g =>
    if g.esc < 2 then s
    else
      let t := s.updGang gid fun x => { x with esc := 0 }
      if g.esc = 3 then t.resumeTrap gid
      else
        let fid := (g.trap.map (·.fid)).getD 0
        (t.updGang gid Gang.restoreSlot).enterSup gid fid

/-- The register-cache lines of a gang that comes back: its registers are in its image (02 R52). -/
def Gang.lines (kh : KHdr) (g : Gang) : List (Nat × Nat) :=
  (List.range (kh.vregs * (g.width / 8))).map fun i => (i / (g.width / 8), i % (g.width / 8))

/-- A wait's deadline as another clock counts it (14 R412, 15 R453): `go` turns one count into the other. -/
def Block.rebase (b : Block) (go : Nat → Nat) : Block :=
  match b with
  | .mwait d k => .mwait (if d = 0 then 0 else max 1 (go d)) k
  | .sleep till => .sleep (go till)
  | b => b

/-- A fragment's wait, its stall and its age as another clock counts them. -/
def Frag.rebase (f : Frag) (go : Nat → Nat) : Frag :=
  { f with readyAt := go f.readyAt, lastIssue := go f.lastIssue, created := go f.created, blockedAt := go f.blockedAt, stat := match f.stat with | .blocked b => .blocked (b.rebase go) | x => x }

/-- The LAU_CMD queues of a gang that comes back: whole packets are taken while their engines have room (07 R186). -/
def State.takeGangLau (s : State) (gid : Nat) : State := (List.range 16).foldl (fun (t : State) n => t.takeLau gid n 16) s

/-- A gang set up on a core again: its waits go on by its new core's count, and its planes are loaded again where they can be read now
(07 R205), else once they can. -/
def State.returnGang (s : State) (gid core st : Nat) (inTable : Bool) : State :=
  let t := (s.loadImage gid (decide (st = 2 ∨ st = 3))).setImgState gid 0
  let dp := t.homeDp core
  let t := t.updGang gid fun g =>
    { g with
      core := core, dp := dp, gslot := t.freeSlotOn core, rcMissing := g.lines (s.khOf g),
      mon := if g.mon.armed && !inTable then { g.mon with fired := true } else g.mon,
      frags := g.frags.map fun e => (e.1,
        ({ e.2 with haz := [], stat := match e.2.stat with
                     | .blocked b => if b.again then .ready else .blocked b
                     | x => x } : Frag).rebase (· - Tab.get 0 s.lag core)) }
  let fid := ((t.gang? gid).bind fun g => g.frags.keys.head?).getD 0
  let t := (t.reloadPlanes (.gang gid fid) cPOISON).getD t
  ((t.takeUp gid).takeGangLau gid).actEsc gid

/-- A saved workgroup placed again (03 R71, R81; 09 R265); one that SWAPO saved while it was parked is parked again. -/
def State.placeBack (s : State) (e : Entry) (wid : Nat) (cores : List Nat) : State :=
  match s.wgs.find? wid with
  | none => s.dropEntry e.id
  | some w =>
    let st := match w.stat with | .away k => k | _ => 1
    let park := w.dblFault || (((s.grids.find? w.grid).any fun g => g.lr.lflags.testBit 0) &&
      s.gangs.any fun x => x.2.wid == wid && x.2.esc == 1)
    let t := (s.updWg wid fun x =>
      { x with stat := if park then .parked else .resident, cores := cores, prio := e.eff, placedAt := s.nextId, wakes := [],
               woken := false, bufs := [] }).dropCores cores
    let t := { t with nextId := t.nextId + 1 }
    let t := w.gangs.foldl (fun (t : State) gid =>
      match t.gang? gid with
      | none => t
      | some g =>
        let u := t.returnGang gid (cores.getD (g.num % cores.length) 0) st (w.keepsMon gid)
        if park then u.setImgState gid 3 else u) t
    (t.updWg wid fun x => { x with swapo := x.swapo && x.emptied.isSome }).dropEntry e.id

/-- An entry's next workgroup placed on cores. -/
def State.placeEntry (s : State) (e : Entry) (cores : List Nat) : State :=
  match e.wid with
  | some w => s.placeBack e w cores
  | none => match s.needEntry e with
    | some (g, n, _) => s.placeNew e g n cores
    | none => s.dropEntry e.id

/-- The pre-emption of a victim starts, its room reserved for an entry (03 R70, 09 R265). -/
def State.startPreempt (s : State) (e : Entry) (v : Nat) : State :=
  let t := (s.victimSet v).foldl (fun (t : State) w =>
    t.updWg w fun x => { x with stat := .preempting, forEntry := if w = v then some e.id else none }) s
  t.updEntry e.id fun x => { x with victim := some v }

/-- Aging (03 R68), over the entries of a partition: those that rise go to the tail of their new level. -/
def ageEntries (part : Nat) (l : List Entry) : List Entry :=
  let rises := fun (e : Entry) => e.part == part && decide (e.base ≤ 12) && decide (e.eff < 13) && decide (e.rounds ≥ 4096)
  (l.filter fun e => !(rises e)) ++ (l.filter rises).map fun e => { e with eff := e.eff + 1, rounds := 0 }

/-- The entries of a partition, highest level first, in queue order within a level. -/
def roundOrder (part : Nat) (l : List Entry) : List Entry :=
  (List.range 16).reverse.flatMap fun lv => l.filter fun e => e.part == part && e.eff == lv

/-- The walk of a round over the entries: the state, and the entry placed, if one was. -/
def roundWalk (s : State) : List Entry → State × Option Nat
  | [] => (s, none)
  | e :: rest =>
    let held := if e.room.isEmpty then none else s.placeFor e none (some (e.room.map (·.core)))
    match (match held with | some c => some c | none => s.placeFor e none none) with
    | some cores => (s.placeEntry e cores, some e.id)
    | none =>
      if e.victim.isNone && e.room.isEmpty then
        match s.victimFor e with
        | some v => (s.startPreempt e v, none)
        | none => roundWalk s rest
      else roundWalk s rest

/-- A dispatch round (03 R67). While the partition is swapped out only entries of priority 15 are placed, and the others do
not age (15 R461). -/
def State.dispatchRound (s : State) (part : Nat) : State :=
  let out := s.swapped.has part
  let s1 := if out then s else { s with entries := ageEntries part s.entries }
  let r := roundWalk s1 ((roundOrder part s1.entries).filter fun e => !out || e.eff == 15)
  { r.1 with entries := r.1.entries.map fun e =>
      if e.part = part ∧ r.2 ≠ some e.id ∧ !out then { e with rounds := e.rounds + 1 } else e }

/-! ### The end of gangs and workgroups -/

/-- The room of a workgroup that leaves its cores goes to the entry that waits for it (03 R70, 09 R266). -/
def State.giveRoom (s : State) (wid : Nat) (rooms : List RoomAt) : State :=
  { s with entries := s.entries.map fun e => if e.victim = some wid then { e with victim := none, room := rooms } else e }

/-- A workgroup ends: its image room returns, its grid has one workgroup less. -/
def State.endWg (s : State) (wid : Nat) : State :=
  match s.wgs.find? wid with
  | none => s
  | some w =>
    let t := if w.onChip then s.giveRoom wid (s.roomOf w) else s
    { (t.updGrid w.grid fun g => { g with live := g.live - 1 }) with
      wgs := t.wgs.del wid,
      entries := t.entries.filter fun e => e.wid != some wid,
      images := t.images.filter fun x => !(x.1 == w.part && x.2.1 == w.image) }

/-- The operations of a gang that still hold its slot (12 R363): all but the device's own notices. -/
def State.unfinished (s : State) (gid : Nat) : Bool := (s.flightsOfGang gid).any fun f => f.path ≠ 8

/-- A gang whose lanes have all exited and whose operations have finished leaves its core; the last one ends the
workgroup (12 R363). -/
def State.reap (s : State) (gid : Nat) : State :=
  match s.gang? gid with
  | none => s
  | some g =>
    if !g.frags.isEmpty || s.unfinished gid then s
    else
      let rooms := ((s.wgOf g).map s.roomOf).getD []
      let w := s.wgOf g
      let s := g.asyncs.foldl (fun (t : State) _ =>
        t.devFlight (.gang gid 0) .dev (.devRec ((w.map (·.part)).getD 0) 0 33
          (((s.gridOf g).map fun r => r.lr.tag).getD 0) ((w.map (·.linear)).getD 0))) s
      let t := { s with gangs := s.gangs.del gid }
      if t.gangs.any fun e => e.2.wid == g.wid then t
      else
        let t := match s.wgOf g with
          | some w => if w.onChip then t.giveRoom g.wid rooms else t
          | none => t
        t.endWg g.wid

end Sys2Proof.Machine
end

