-- ==== Sys2Proof/Machine/Tasks.lean ====
section
/-!
DEFINITION. The task family: Lauter submission, count barriers, dependence counters, device-side launch, record slots,
queue bindings and cohorts (12 R342-R344, R349-R352, R357-R361; 13 R395-R397; 14 R419-R421, R431; 03 R79, R83-R85).
-/
namespace Sys2Proof.Machine

/-- An access of a device unit, which no address names. -/
def devAcc (op : HomeOp) : Acc :=
  { lane := 0, slot := 0, va := 0, loc := .dev, op := op, res := 0, done := false, waitSince := 0, poisoned := false }

/-- An access already performed with a result. -/
def doneAcc (lane res : Nat) : Acc := { devAcc .none with lane := lane, res := res, done := true }

/-- What the read of a block of scratchpad made at issue, on the LSU path, waits for (06 Table 6.5): what it follows, and the accesses of
its gang to its lines. -/
def State.scrWait (s : State) (ag : Agent) (wid off n : Nat) : List Nat :=
  (s.ordWait ag 0 true false ++ s.lineWait ag 0 ((Loc.scr wid off).lines n)).eraseDups

/-- The checked scratchpad offset of LXSUB and DLAUNCH: aligned to its length, and inside the declared bytes. -/
def scrBlock (s : State) (is : Issue) (off : Int) (n path : Nat) : Option TrapInfo :=
  match s.scrOf is.ag with
  | none => none
  | some _ => (scrCheck path 0 [(0, off, n)]).map fun (t : TrapInfo) => { t with fmask := is.mask }

/-- The operand offset of a scratchpad form with uniform operands. -/
def scrOff (i : Instr) (o : Opw) (s : State) (is : Issue) : Int :=
  let sh := shape false i
  exactSum o (uniVal s is o sh.a o.a 1) (uniVal s is o sh.b o.b 2)

/-! ### LXSUB -/

/-- An operation of a path with no accesses left, which completes with a K result or none. -/
def quickFlight (i : Instr) (s : State) (is : Issue) (path : Nat) (sel : Option Nat) (res : Nat) : State :=
  let f := newFlight s is i path
  s.issueFlight { f with dest := match sel with | some k => .k k | none => .none, accs := [doneAcc 0 res] }

/-- The submission of an agent's blocking LXSUB that a full queue keeps waiting: counter 5 stands raised for it from its issue (13 R397). -/
def State.lxsubWaits (s : State) (ag : Agent) : Option Nat :=
  (s.flights.filter fun e => e.2.ag == ag && (match e.2.instr with | .lxsub _ => true | _ => false) && e.2.accs.any fun a => !a.done).head?.map
    (·.1)

/-- The end of an LXSUB with its K result: of a submission that has waited, or of a new one. -/
def State.lxsubDone (t : State) (i : Instr) (is : Issue) (sel : Option Nat) (res : Nat) (poisoned : Bool) : State :=
  let acc := { doneAcc 0 res with poisoned := poisoned }
  match t.lxsubWaits is.ag with
  | some k => { t with flights := t.flights.upd (fun (f : Flight) => { f with accs := [acc] }) k }
  | none => t.issueFlight { newFlight t is i 5 with dest := match sel with | some k => .k k | none => .none, accs := [acc] }

/-- A packet submitted to the submitter's own cluster (13 R396): refused packets raise ENGFAULT. -/
def submitPacket (i : Instr) (o : Opw) (nb : Bool) (x : Nat) (s : State) (is : Issue) : State :=
  let cluster := s.clusterOfAg is.ag
  let part := s.partOf is.ag
  let e := s.engineFor cluster (x / 2 ^ 16 % 2 ^ 8)
  let sel := if nb then some o.dst.toNat else none
  if lauterBad x || lauterOutside x (2 ^ part) then
    (match s.lxsubWaits is.ag with | some k => { s with flights := s.flights.del k } | none => s).causeAt is o cENGFAULT
  else if s.cmdFull e then
    if nb then s.lxsubDone i is sel 1 false
    else
      let t := if (s.lxsubWaits is.ag).isSome then s else s.issueFlight { newFlight s is i 5 with accs := [devAcc .none] }
      t.blockRetry is.ag .lxsub
  else
    let wid : Option Nat := match is.ag with
      | .gang gid _ => (s.gang? gid).map (·.wid)
      | .ctx _ => none
    let own := (s.lxsubWaits is.ag).toList
    (s.accept e { lauterFields x (s.pasidOf is.ag) part ((s.allEarlier is.ag).filter fun i => !(own.contains i)) wid with
                  lx := true }).lxsubDone i is sel 0 false

/-- LXSUB's effect on a core, and on a Lauter engine (13 R395-R397): the packet is read once the agent's earlier accesses
to it are applied; a poisoned sector of it ends the LXSUB with POISON, and nothing is submitted. -/
def lxsubEffect (i : Instr) (o : Opw) (nb : Bool) (s : State) (is : Issue) : State :=
  if (s.lxsubWaits is.ag).isNone && s.counterFull is.ag 5 then s.blockRetry is.ag .inflight else
  match is.ag with
  | .gang gid _ =>
    let off := scrOff i o s is
    match scrBlock s is off 64 0 with
    | some ti => s.takeCause is.ag .fault { ti with fmask := guardMask s is o }
    | none =>
      let wid := ((s.gang? gid).map (·.wid)).getD 0
      let pend := s.scrWait is.ag wid off.toNat 64
      if !pend.isEmpty then s.blockRetry is.ag (.drain pend)
      else
        let r := s.pathScr is.ag 0 wid off.toNat 64
        let t := s.afterScr is.ag 0 wid off.toNat 64
        if r.2 then t.lxsubDone i is (if nb then some o.dst.toNat else none) 1 true else submitPacket i o nb r.1 t is
  | .ctx _ =>
    let sh := shape true i
    let va := genAddr o (srcVal s is o sh.a o.a .raw 1 [] 0) 0
    let pend := (s.flightsOf is.ag).filter fun f => (f.accs.any fun a => !a.done) && s.lxsubWaits is.ag != some f.id
    if !pend.isEmpty then s.blockRetry is.ag (.drain (pend.map (·.id)))
    else
      memAccess s is 5 (guardMask s is o) (regAccess 64) [{ lane := 0, va := va, size := 64, align := 64, acc := .read }]
        fun t l => match l with
          | (_, r) :: _ =>
            let far := t.farAll is.ag [r]
            if !far.2.isEmpty then t.waitAts is.ag far.2 else
            let v := t.pathRead is.ag 5 r.tso r.zb r.key 64
            let t := t.afterPath is.ag 5 r.tso r.zb r.key 64
            if v.2 || far.1 then t.lxsubDone i is (if nb then some o.dst.toNat else none) 1 true
            else submitPacket i o nb v.1 t is
          | [] => t

/-- LXSUB (13 R395-R397). -/
def execLxsub (o : Opw) (s : State) : OutC := onceOp (.lxsub o) o s (lxsubEffect (.lxsub o) o false)

/-- LXSUB.NB (13 R395-R397). -/
def execLxsubNb (o : Opw) (s : State) : OutC := onceOp (.lxsubNb o) o s (lxsubEffect (.lxsubNb o) o true)

/-! ### Count barriers -/

/-- The check of a count barrier's page (05 R141). -/
def cbCheck : PageCheck := fun _ t => if t.isReg then some (cPROT, 1) else if t.tier = 3 then some (cPROT, 4) else none

/-- The address of a count barrier (12 R342). -/
def cbAddr (i : Instr) (o : Opw) (s : State) (is : Issue) : Nat :=
  let sh := shape (match is.ag with | .ctx _ => true | _ => false) i
  genAddr o (srcVal s is o sh.a o.a .raw 1 [] 0) 0

/-- A count-barrier operation on its barrier's page, built by `mk`. -/
def cbOp (i : Instr) (o : Opw) (acc : Access) (s : State) (is : Issue) (mk : State → Loc → Nat → State) : State :=
  let path := nmoPath is.ag
  if s.counterFull is.ag path then s.blockRetry is.ag .inflight else
  let va := cbAddr i o s is
  memAccess s is path (guardMask s is o) cbCheck [{ lane := 0, va := va, size := 32, align := 32, acc := acc }]
    fun t l => match l with
      | (_, r) :: _ => mk t (r.loc (t.partOf is.ag)) va
      | [] => t

/-- CBINIT's effect (12 R343). -/
def cbinitEffect (o : Opw) (s : State) (is : Issue) : State :=
  let sh := shape false (.cbinit o)
  let ae := uniVal s is o sh.b o.b 2
  let be := srcVal s is o sh.c o.c .raw 3 [] 0
  cbOp (.cbinit o) o .rmw s is fun t loc va =>
    t.issueFlight { newFlight t is (.cbinit o) (nmoPath is.ag) with
      scope := scopeOfAux o, wr := true, accs := [acc1 0 va loc (.cbInit ae be)] }

/-- CBINIT (12 R342, R343). -/
def execCbinit (o : Opw) (s : State) : OutC := onceOp (.cbinit o) o s (cbinitEffect o)

/-- CBARR's effect (12 R343): a release on its own path. -/
def cbarrEffect (o : Opw) (s : State) (is : Issue) : State :=
  let sh := shape false (.cbarr o)
  let n := uniVal s is o sh.b o.b 2
  let bytes := srcVal s is o sh.c o.c .raw 3 [] 0
  cbOp (.cbarr o) o .rmw s is fun t loc va =>
    t.issueFlight { newFlight t is (.cbarr o) (nmoPath is.ag) with
      scope := scopeOfAux o, rel := true, wr := true, accs := [acc1 0 va loc (.cbArrive n bytes)] }

/-- CBARR (12 R342, R343). -/
def execCbarr (o : Opw) (s : State) : OutC := onceOp (.cbarr o) o s (cbarrEffect o)

/-- CBWAIT's effect (12 R344): the fragment waits until its read of PHASE at the home differs from the operand. -/
def cbwaitEffect (o : Opw) (s : State) (is : Issue) : State :=
  let sh := shape false (.cbwait o)
  let v := uniVal s is o sh.b o.b 2
  cbOp (.cbwait o) o .read s is fun t loc va =>
    let f := newFlight t is (.cbwait o) 6
    let t1 := t.issueFlight { f with
      scope := scopeOfAux o, acq := true, invals := if scopeOfAux o ≥ 2 then [is.ag] else [], rd := true, sw := [v],
      accs := [acc1 0 va loc .cbRead] }
    t1.blockAfter is.ag (.cbwait f.id)

/-- CBWAIT (12 R342, R344). -/
def execCbwait (o : Opw) (s : State) : OutC := onceOp (.cbwait o) o s (cbwaitEffect o)

/-- CBTEST's effect (12 R344). -/
def cbtestEffect (o : Opw) (s : State) (is : Issue) : State :=
  let sh := shape false (.cbtest o)
  let v := uniVal s is o sh.b o.b 2
  cbOp (.cbtest o) o .read s is fun t loc va =>
    t.issueFlight { newFlight t is (.cbtest o) 6 with
      scope := scopeOfAux o, acq := true, invals := if scopeOfAux o ≥ 2 then [is.ag] else [], rd := true, sw := [v],
      dest := .k o.dst.toNat, accs := [acc1 0 va loc .cbRead] }

/-- CBTEST (12 R342, R344). -/
def execCbtest (o : Opw) (s : State) : OutC := onceOp (.cbtest o) o s (cbtestEffect o)

/-! ### Dependence counters -/

/-- An operation at the task scheduler: it applies after every earlier access of the fragment (12 R359). -/
def taskFlight (i : Instr) (path : Nat) (op : HomeOp) (dest : Dest) (s : State) (is : Issue) : State :=
  let earlier := s.allEarlier is.ag
  let t := s.issueFlight { newFlight s is i path with wr := true, rel := true, dest := dest, accs := [devAcc op] }
  { t with flights := t.flights.upd (fun (f : Flight) => { f with after := (f.after ++ earlier).eraseDups }) s.nextId }

/-- DCSET's effect (12 R358, R359). Of a task address at or above 2^57 the counter keeps the 57 bits that it holds: the model's choice (log
entry 64). -/
def dcsetEffect (o : Opw) (s : State) (is : Issue) : State :=
  let sh := shape false (.dcset o)
  let id := uniVal s is o sh.a o.a 1
  let n := uniVal s is o sh.b o.b 2
  let task := srcVal s is o sh.c o.c .raw 3 [] 0
  if s.counterFull is.ag 6 then s.blockRetry is.ag .inflight
  else if id > 4095 ∨ n > 8388607 then s.causeAt is o cILLOP
  else
    let c := (if id / 512 ≠ s.partOf is.ag then cPROT else 0) ||| (if task % 64 ≠ 0 then cMISALIGN else 0)
    if c ≠ 0 then s.causeAt is o c
    else taskFlight (.dcset o) 6 (.dcSet id n (task % 2 ^ 57) (s.pasidOf is.ag)) (.k o.dst.toNat) s is

/-- DCSET (12 R358, R359). -/
def execDcset (o : Opw) (s : State) : OutC := onceOp (.dcset o) o s (dcsetEffect o)

/-- DCDEC's effect (12 R357, R359). -/
def dcdecEffect (o : Opw) (s : State) (is : Issue) : State :=
  let sh := shape (match is.ag with | .ctx _ => true | _ => false) (.dcdec o)
  let id := uniVal s is o sh.a o.a 1
  let m := uniVal s is o sh.b o.b 2
  let path := nmoPath is.ag
  if s.counterFull is.ag path then s.blockRetry is.ag .inflight
  else if id > 4095 ∨ m = 0 ∨ m > 8388607 then s.causeAt is o cILLOP
  else if id / 512 ≠ s.partOf is.ag then s.causeAt is o cPROT
  else taskFlight (.dcdec o) path (.dcDec id m) .none s is

/-- DCDEC (12 R357, R359). -/
def execDcdec (o : Opw) (s : State) : OutC := onceOp (.dcdec o) o s (dcdecEffect o)

/-! ### Device-side launch -/

/-- A free slot of a partition's launch-overflow area (03 R79): which one is not specified. -/
def State.lovfSlot (s : State) (part : Nat) : Nat :=
  let free := (List.range 4096).filter fun i => !(s.pending.any fun p => p.part == part && p.spilled && p.slot == i)
  free.getD (Config.freeNat s.fresh 7 % max free.length 1) 0

/-- The key of a slot of a partition's launch-overflow area (10 Table 10.4). -/
def State.lovfKey (s : State) (part slot : Nat) : Nat := memKey 0 0 ((s.part part).lovf.toNat + 128 * slot)

/-- Does a partition's launch-overflow area lie where it has to (10 R276)? -/
def State.lovfOk (s : State) (part : Nat) : Bool := structOk part (s.part part).lovf.toNat 524288

/-- A record sent to a slot of the launch-overflow area. -/
def State.lovfWrite (s : State) (ag : Agent) (part slot v : Nat) : State :=
  s.devFlight ag (if s.lovfOk part then .mem (s.lovfKey part slot) false false else .dev)
    (if s.lovfOk part then .wr 128 v 0 else .devNone)

/-- The record of a pending launch, and whether it met poison: the pending queue's bytes, or those of its slot (03 R79). -/
def State.pendingRecord (s : State) (p : Pending) : Nat × Bool :=
  if !p.spilled then (leBytes p.bytes, false)
  else if s.lovfOk p.part then s.memRead (s.lovfKey p.part p.slot) 128 false
  else (Config.freeNat s.fresh 8 % 2 ^ 1024, false)

/-- DLAUNCH's effect (12 R360, R361; 03 R79): a record in a poisoned sector is not launched (10 R290). -/
def dlaunchEffect (o : Opw) (s : State) (is : Issue) : State :=
  match is.ag with
  | .ctx _ => s
  | .gang gid _ =>
    match s.gang? gid with
    | none => s
    | some g =>
      if s.counterFull is.ag 0 then s.blockRetry is.ag .inflight else
      let off := scrOff (.dlaunch o) o s is
      match scrBlock s is off 128 0 with
      | some ti => s.takeCause is.ag .fault { ti with fmask := guardMask s is o }
      | none =>
        let pend := s.scrWait is.ag g.wid off.toNat 128
        let part := s.partOf is.ag
        let inQueue := (s.pending.filter fun p => p.core == g.core && !p.spilled).length
        let spills := (s.pending.filter fun p => p.part == part && p.spilled).length
        if !pend.isEmpty then s.blockRetry is.ag (.drain pend)
        else if inQueue ≥ 4 ∧ spills ≥ 4096 then s.blockRetry is.ag .dlaunch
        else
          let spilled := decide (inQueue ≥ 4)
          let rd := s.pathScr is.ag 0 g.wid off.toNat 128
          let s := s.afterScr is.ag 0 g.wid off.toNat 128
          if rd.2 then
            s.issueFlight { newFlight s is (.dlaunch o) 0 with dest := .k o.dst.toNat, accs := [{ doneAcc 0 0 with poisoned := true }] }
          else
          let bytes := toBytes 128 rd.1
          let slot := s.lovfSlot part
          let p : Pending :=
            { core := g.core, spilled := spilled, slot := if spilled then slot else 0, issued := is.cyc, pasid := s.pasidOf is.ag, part := part,
              base := ((s.gridOf g).map (·.base)).getD 0, bytes := if spilled then [] else bytes,
              cons := if spilled then s.nextId :: s.allEarlier is.ag else s.allEarlier is.ag }
          let t := if spilled then s.lovfWrite is.ag part slot (leBytes bytes) else s
          quickFlight (.dlaunch o) { t with pending := t.pending ++ [p] } is 0 (some o.dst.toNat) (if spilled then 1 else 0)

/-- DLAUNCH (12 R360, R361). -/
def execDlaunch (o : Opw) (s : State) : OutC := onceOp (.dlaunch o) o s (dlaunchEffect o)

/-! ### Record slots of work graphs -/

/-- The graph of a gang and its node, none for a root gang. -/
def State.graphOf (s : State) (g : Gang) : Option (Nat × Option Nat) :=
  match s.gridOf g with
  | some r =>
    match r.kind with
    | .graphRoot k => some (k, none)
    | .node k n => some (k, some n)
    | _ => none
  | none => none

/-- The reserve slots of node `j` that its gangs hold (03 R84). -/
def Graph.reserveHeld (gr : Graph) (j : Nat) : Nat :=
  (gr.cask.filter fun e => match e.2 with | .held _ (some k) => k == j | _ => false).length

/-- The free slots that no reserve keeps (03 R84). -/
def Graph.general (gr : Graph) : Nat :=
  (gr.slots - gr.cask.length) - gr.nodes.zipIdx.foldl (fun a e => a + (e.1.reserve - gr.reserveHeld e.2)) 0

/-- How many slots a request for `n` takes from its node's reserve; none when it cannot be met (03 R84): every slot granted is FREE,
so a reserve whose slots are all in use elsewhere meets nothing. -/
def Graph.split (gr : Graph) (node : Option Nat) (n : Nat) : Option Nat :=
  let g := gr.general
  if n > gr.slots - gr.cask.length then none
  else if n ≤ g then some 0
  else match node with
    | none => none
    | some j =>
      let left := ((gr.nodes[j]?).map (·.reserve)).getD 0 - gr.reserveHeld j
      if n - g ≤ left then some (n - g) else none

/-- The `k`-th free slot. -/
def Graph.freeSlot (gr : Graph) (k : Nat) : Nat :=
  ((List.range gr.slots).filter fun i => (gr.cask.find? i).isNone).getD k 0

/-- Slots granted to the lanes of a request: which free slots is not specified (14 R420). -/
def Graph.grant (gr : Graph) (gid fresh : Nat) (node : Option Nat) : Nat → Nat → List Nat → Graph × List (Nat × Nat)
  | _, _, [] => (gr, [])
  | fromRes, i, lane :: rest =>
    let free := gr.slots - gr.cask.length
    let slot := gr.freeSlot (Config.freeNat fresh (2 ^ 32 + i) % max free 1)
    let gr' := { gr with cask := gr.cask.put slot (.held gid (if rest.length < fromRes then node else none)) }
    let r := gr'.grant gid fresh node fromRes (i + 1) rest
    (r.1, (lane, gr.pool + slot * 2 ^ gr.slotLog2) :: r.2)

/-- A request of a flight granted: the addresses are its results. -/
def State.grantFlight (s : State) (k : Nat) (gr : Graph) (fl : Flight) (gid : Nat) (node : Option Nat) : Option State :=
  let lanes := s.lanesAg fl.ag fl.mask
  match gr.split node lanes.length with
  | none => none
  | some r =>
    let x := gr.grant gid s.fresh node r 0 lanes
    some { s with
      graphs := s.graphs.put k x.1,
      flights := s.flights.put fl.id { fl with accs := x.2.map fun e => doneAcc e.1 e.2 } }

/-- No graph gang: a further reason for ILLOP (14 R419). -/
def notGraph (s : State) (is : Issue) : Bool :=
  match is.ag with
  | .gang gid _ => match s.gang? gid with
    | some g => (s.graphOf g).isNone
    | none => true
  | .ctx _ => true

/-- The request of a blocked NRALLOC. -/
def State.nrallocOf (s : State) (gid fid : Nat) : Option Flight :=
  (List.find? (fun (e : Nat × Flight) => e.2.ag == .gang gid fid &&
    (match e.2.instr with | .nralloc _ => true | _ => false) && !(e.2.accs.all fun a => a.done)) s.flights).map (·.2)

/-- Can the first blocked request of a graph be met, so that it is served before any later one (03 R84)? -/
def State.nrallocNext (s : State) (gr : Graph) : Bool :=
  match gr.blocked with
  | [] => false
  | (gid, fid) :: _ =>
    match s.nrallocOf gid fid, (s.gang? gid).bind s.graphOf with
    | some f, some (_, node) => (gr.split node (s.lanesAg f.ag f.mask).length).isSome
    | _, _ => false

/-- NRALLOC's effect (14 R420, 03 R84): a request that can be met is granted whole, and blocks otherwise (log entry 91). -/
def nrallocEffect (o : Opw) (s : State) (is : Issue) : State :=
  match is.ag with
  | .ctx _ => s
  | .gang gid fid =>
    match (s.gang? gid).bind s.graphOf with
    | none => s
    | some (k, node) =>
      match s.graphs.find? k with
      | none => s
      | some gr =>
        if s.counterFull is.ag 6 then s.blockRetry is.ag .inflight else
        let gm := guardMask s is o
        if gm = 0 then s else
        let base := match opnd o.dst with | .v b => b | _ => 0
        let f : Flight := { newFlight s is (.nralloc o) 6 with
          mask := gm, dest := .v base 2 0, sw := [k], accs := [devAcc .none] }
        let s1 := s.issueFlight f
        match (if s.nrallocNext gr then none else s1.grantFlight k gr f gid node) with
        | some t => t
        | none =>
          ({ s1 with graphs := s1.graphs.put k { gr with blocked := gr.blocked ++ [(gid, fid)] } }).blockAfter is.ag .nralloc

/-- NRALLOC (14 R419, R420). -/
def execNralloc (o : Opw) (s : State) : OutC :=
  issueOp (.nralloc o) o s (notGraph s) noRd noMore (nrallocEffect o s)

/-- The slot numbers that the lanes of a bundle name; none when an address is no slot or two lanes name one. -/
def slotsOf (gr : Graph) (l : List Nat) : Option (List Nat) :=
  let xs := l.map fun a => (a - gr.pool) / 2 ^ gr.slotLog2
  if l.all (fun a => decide (a ≥ gr.pool) && (a - gr.pool) % 2 ^ gr.slotLog2 == 0 &&
      decide ((a - gr.pool) / 2 ^ gr.slotLog2 < gr.slots)) && xs.eraseDups.length == xs.length then some xs
  else none

/-- The lanes of NRSEND and NRDONE with the addresses they name. -/
def slotLanes (i : Instr) (o : Opw) (s : State) (is : Issue) : List (Nat × Nat) :=
  let sh := shape false i
  (s.lanesAg is.ag (guardMask s is o)).map fun l => (l, srcVal s is o sh.a o.a .raw 1 [] l)

/-- NRSEND's effect (14 R420, R421): the slots are committed, and join the open batch once the fragment's earlier accesses
are applied. -/
def nrsendEffect (o : Opw) (s : State) (is : Issue) : State :=
  let sh := shape false (.nrsend o)
  match is.ag with
  | .ctx _ => s
  | .gang gid _ =>
    match (s.gang? gid).bind s.graphOf with
    | none => s
    | some (k, node) =>
      match s.graphs.find? k with
      | none => s
      | some gr =>
        if s.counterFull is.ag 6 then s.blockRetry is.ag .inflight else
        let gm := guardMask s is o
        if gm = 0 then s else
        let dst := uniVal s is o sh.b o.b 2
        let ls := slotLanes (.nrsend o) o s is
        match slotsOf gr (ls.map (·.2)) with
        | none => s.causeAt is o cILLOP
        | some xs =>
          let held := xs.all fun x => match gr.cask.find? x with | some (.held g _) => g == gid | _ => false
          if dst ≥ gr.nodes.length ∨ (node.any fun j => decide (dst ≤ j)) ∨ !held then s.causeAt is o cILLOP
          else
            let t := { s with graphs := s.graphs.put k { gr with
              cask := xs.foldl (fun (c : Tab CaskSt) x => c.put x (.committed dst)) gr.cask } }
            let u := taskFlight (.nrsend o) 6 .none .none t is
            { u with flights := u.flights.upd (fun (f : Flight) => { f with sw := k :: dst :: xs }) t.nextId }

/-- NRSEND (14 R419-R421). -/
def execNrsend (o : Opw) (s : State) : OutC := issueOp (.nrsend o) o s (notGraph s) noRd noMore (nrsendEffect o s)

/-- NRDONE's effect (14 R420). -/
def nrdoneEffect (o : Opw) (s : State) (is : Issue) : State :=
  match is.ag with
  | .ctx _ => s
  | .gang gid _ =>
    match (s.gang? gid).bind s.graphOf with
    | none => s
    | some (k, _) =>
      match s.graphs.find? k with
      | none => s
      | some gr =>
        if s.counterFull is.ag 6 then s.blockRetry is.ag .inflight else
        if guardMask s is o = 0 then s else
        let ls := slotLanes (.nrdone o) o s is
        match slotsOf gr (ls.map (·.2)) with
        | none => s.causeAt is o cILLOP
        | some xs =>
          let ok := (xs.zip (ls.map (·.1))).all fun e => match gr.cask.find? e.1 with
            | some (.held g _) => g == gid
            | some (.running g l _) => g == gid && l == e.2
            | _ => false
          if !ok then s.causeAt is o cILLOP
          else
            quickFlight (.nrdone o) { s with graphs := s.graphs.put k { gr with
              cask := xs.foldl (fun (c : Tab CaskSt) x => c.del x) gr.cask } } is 6 none 0

/-- NRDONE (14 R419, R420). -/
def execNrdone (o : Opw) (s : State) : OutC := issueOp (.nrdone o) o s (notGraph s) noRd noMore (nrdoneEffect o s)

/-- A batch closes: a node gang's grid enters dispatch, or its rejection is recorded and its slots return (03 R85). -/
def State.closeBatch (s : State) (k node : Nat) (slots : List Nat) : DRes Unit :=
  match s.graphs.find? k with
  | none => .ok () s
  | some gr =>
    match gr.nodes[node]? with
    | none => .ok () s
    | some nd =>
      let lr : Launch :=
        { gr.lr with addr := 0, khdr := nd.khdr, gx := 1, gy := 1, gz := 1, gangs := 1, width := alignUp nd.batch 8,
                     prio := nd.prio, lflags := gr.lr.lflags % 4, dcId := 0, cflags := 0, arg := 0, cohort := 0,
                     nmAddr := 0, nmAddend := 0, chipset := 0, gen := 0, graph := 0 }
      let fail := fun (t : State) (code : Nat) =>
        let t := { t with graphs := t.graphs.upd (fun (x : Graph) =>
          { x with cask := slots.foldl (fun (c : Tab CaskSt) i => c.del i) x.cask }) k }
        DRes.ok () (t.devErr gr.part 0 code gr.lr.tag noLinear)
      if nd.khdr % 256 ≠ 0 ∨ nd.khdr ≥ 2 ^ 57 then fail s 1
      else if !((s.part gr.part).pen.getLsbD 0) then fail s 6
      else
        (s.readKhdr gr.pasid gr.part nd.khdr).bind fun h t =>
          if h.1 ≠ 0 then fail t h.1
          else if (needOf lr h.2).tooMuch then fail t 4
          else .ok () (t.addGrid lr h.2 (.node k node) gr.pasid 0 1 [] 0 slots.length slots)

/-- Committed slots join their node's open batch one by one; a full batch closes (03 R85). -/
def appendSlots (k node : Nat) : List Nat → State → DRes Unit
  | [], s => .ok () s
  | x :: rest, s =>
    match s.graphs.find? k with
    | none => .ok () s
    | some gr =>
      match gr.nodes[node]? with
      | none => .ok () s
      | some nd =>
        let o := nd.open_ ++ [x]
        let full := decide (o.length ≥ nd.batch)
        let nd' := { nd with open_ := if full then [] else o, lastAppend := s.cycle }
        let t := { s with graphs := s.graphs.put k { gr with nodes := gr.nodes.set node nd' } }
        if full then (t.closeBatch k node o).bind fun _ u => appendSlots k node rest u
        else appendSlots k node rest t

/-! ### QBIND -/

/-- The queue that an engine operand of an MSH operation names. -/
def mashQueue (i : Instr) : Option Nat :=
  let q := fun (o : Opw) => if o.sub.toNat % 4 = 2 then (match opnd o.a with | .q n => some n | _ => none) else none
  match i with
  | .mldw o => q o
  | .mma o => q o
  | .mmaG o => q o
  | .mmaJ o => q o
  | .mmaGJ o => q o
  | .mrd o => q o
  | .mwr o => q o
  | _ => none

/-- The unfinished operations of a gang that push to or pop from a queue (07 R190). -/
def State.queueUsers (s : State) (gid n : Nat) : List Nat :=
  ((s.flightsOfGang gid).filter fun f =>
    mashQueue f.instr == some n || (match f.dest with | .q k _ => k == n | _ => false)).map (·.id)

/-- Is a binding word one that QBIND accepts (07 R187)? A non-zero ENGINE beside another port than LAU_CMD, which Table 7.2 has zero, is taken
as a reserved field that is non-zero: the model's choice (log entry 98). -/
def bindOk (w : Nat) : Bool :=
  decide (w % 16 ≤ 6) && w / 16 % 16 == 0 && decide (w < 1024) && (w % 16 == 6 || w / 256 % 4 == 0)

/-- QBIND's effect (14 R431, 07 R186-R190). -/
def qbindEffect (o : Opw) (s : State) (is : Issue) : State :=
  let sh := shape false (.qbind o)
  match is.ag, opnd o.dst with
  | .gang gid _, .q n =>
    match s.gang? gid with
    | none => s
    | some g =>
      let w := uniVal s is o sh.a o.a 1
      let clash := (List.range 16).any fun k => k != n &&
        (let b := ((g.q.getD k Queue.none).bind).toNat; b == w && w % 16 ≠ 0)
      if !(bindOk w) then s.causeAt is o cILLOP
      else if clash then s.causeAt is o cQBIND
      else
        let users := s.queueUsers gid n
        if g.port n ≠ 0 ∧ !users.isEmpty then s.blockRetry is.ag (.drain users)
        else s.updGang gid fun x =>
          { x with q := x.q.setIfInBounds n { bind := BitVec.ofNat 32 w, words := [] }, mshUsed := true }
  | _, _ => s

/-- QBIND (14 R431). -/
def execQbind (o : Opw) (s : State) : OutC := onceOp (.qbind o) o s (qbindEffect o)

/-! ### Cohorts -/

/-- A cohort of a grid that nothing has reached. -/
def Cohort.zero : Cohort :=
  { phase := 0, lanes := [], op := none, values := [], bad := false, flights := [], sent := false }

/-- May a workgroup name a cohort of its grid (12 R349)? -/
def Grid.inCohort (g : Grid) (linear c : Nat) : Bool :=
  decide (c < g.cohortN) && (g.members.getD linear []).contains c

/-- The effect of COBAR and CORED (12 R349-R352): the arrival is a release on every path, and the fragment waits for the
phase to complete. -/
def cohortOp (i : Instr) (o : Opw) (c : Nat) (v : Option (Nat × Nat)) (dest : Dest) (s : State) (is : Issue) : State :=
  match is.ag with
  | .ctx _ => s
  | .gang gid _ =>
    match s.gang? gid with
    | none => s
    | some g =>
      match s.wgOf g with
      | none => s
      | some w =>
        match s.grids.find? w.grid with
        | none => s
        | some gr =>
          if !(gr.inCohort w.linear c) then s.causeAt is o cILLOP
          else if s.counterFull is.ag 6 then s.blockRetry is.ag .inflight
          else
            let x := Tab.get Cohort.zero gr.cohorts c
            let n := popLanes g.width is.mask
            let y := { x with
              lanes := x.lanes.put w.linear ((x.lanes.find? w.linear).getD 0 + n),
              flights := ((x.flights.filter fun i => (s.flights.find? i).isSome) ++ s.allEarlier is.ag).eraseDups,
              values := match v with | some e => x.values ++ [e] | none => x.values,
              op := match v, x.op with | some e, none => some e.1 | _, p => p,
              bad := x.bad || (match v, x.op with | some e, some p => e.1 != p | _, _ => false) }
            let f := newFlight s is i 6
            let t := s.updGrid w.grid fun r => { r with cohorts := r.cohorts.put c y }
            (t.issueFlight { f with dest := dest, sw := [], cur := c, accs := [devAcc .none] }).blockAfter is.ag
              (.cohort c x.phase)

/-- COBAR (12 R349, R350). -/
def execCobar (o : Opw) (s : State) : OutC :=
  onceOp (.cobar o) o s fun s is => cohortOp (.cobar o) o (uniVal s is o (shape false (.cobar o)).a o.a 1) none .none s is

/-- CORED's effect (12 R349-R351). -/
def coredEffect (o : Opw) (s : State) (is : Issue) : State :=
  let sh := shape false (.cored o)
  let t := o.sub.toNat % 8
  let c := uniVal s is o sh.b o.b 2
  let v := srcVal s is o sh.a o.a (redWiden t) 1 [] 0
  let b := match opnd o.dst with | .s k => k | _ => 0
  cohortOp (.cored o) o c (some (o.sub.toNat + 64 * rndOf o, v)) (.s b (redW t / 32) 0) s is

/-- CORED (12 R349-R351). -/
def execCored (o : Opw) (s : State) : OutC := onceOp (.cored o) o s (coredEffect o)

/-- The combined value of a phase's contributions (12 R351): order-free, a floating-point sum rounded once; free when the
operations disagree. -/
def cohortResult (op : Nat) (bad : Bool) (l : List Nat) (fw : Nat) : Nat :=
  let k := op % 64 / 8
  let t := op % 8
  let mode := op / 64
  if bad then fw % 2 ^ redW t
  else if k = 0 ∧ redFp t then
    ((redFmt t).finish mode (sumX (mode == 3) (l.map (redFmt t).decode))).1
  else (redAll k t mode l).1

end Sys2Proof.Machine
end

