-- ==== Sys2Proof/Machine/Mash.lean ====
section
/-!
DEFINITION. The mash array (07 R191-R205; 14 R399-R409, R415): the issue of its operations, the steps by which they apply
in the gang's MSH order, mash sets, and the kilns (07 R217, R218).
-/
namespace Sys2Proof.Machine

/-! ### Kilns -/

/-- What a cluster's kiln has granted, and what waits there, oldest first. -/
def State.kilnOf (s : State) (c : Nat) : List KilnReq × List KilnReq := Tab.get ([], []) s.kilns c

/-- Has a requester its grant? -/
def State.kilnHas (s : State) (c who : Nat) : Bool := (s.kilnOf c).1.any fun r => r.who == who

/-- A request for units joins the order, unless it stands there already (07 R217). -/
def State.kilnAsk (s : State) (c who units : Nat) : State :=
  let k := s.kilnOf c
  if (k.1 ++ k.2).any fun r => r.who == who then s
  else { s with kilns := s.kilns.put c (k.1, k.2 ++ [{ who := who, units := units, since := s.cycle, stalled := 0 }]) }

/-- SR_DRAWWAIT of the gang of a request grows by its wait (07 R218). -/
def State.drawWait (s : State) (who n : Nat) : State :=
  match s.flights.find? (who / 4) with
  | none => s
  | some f => match f.ag with
    | .gang gid _ =>
      if who % 4 < 2 then s.updGang gid fun g => { g with drawwait := g.drawwait + BitVec.ofNat 32 n } else s
    | .ctx _ => s

/-- A requester's grant or request is given up; the cycles that a request has waited are counted (07 R218). -/
def State.kilnDrop (s : State) (c who : Nat) : State :=
  let k := s.kilnOf c
  let t := (k.2.filter fun r => r.who == who).foldl (fun (t : State) r => t.drawWait who (s.cycle - r.since)) s
  { t with kilns := Tab.set ([], []) s.kilns c (k.1.filter (fun r => r.who != who), k.2.filter (fun r => r.who != who)) }

/-- The holder of a grant waits for data, room, a page or queue words, or goes on (07 R217). -/
def State.kilnStall (s : State) (c who : Nat) (waits : Bool) : State :=
  let k := s.kilnOf c
  let mark := fun (r : KilnReq) =>
    if r.who ≠ who then r else { r with stalled := if !waits then 0 else if r.stalled = 0 then s.cycle + 1 else r.stalled }
  if k.1.any fun r => r.who == who then { s with kilns := s.kilns.put c (k.1.map mark, k.2) } else s

/-- The period of a grant begins now: that of a joint operation begins when every member holds its grant (07 R217). -/
def State.kilnBegin (s : State) (c who : Nat) : State :=
  let k := s.kilnOf c
  { s with kilns := s.kilns.put c (k.1.map fun r => if r.who = who then { r with since := s.cycle } else r, k.2) }

/-- Units held at a kiln. -/
def kilnHeld (l : List KilnReq) : Nat := l.foldl (fun a r => a + r.units) 0

/-- Can the request at the head of the order be granted? -/
def State.kilnFits (s : State) (c : Nat) : Bool :=
  let k := s.kilnOf c
  let budget := s.kbudget.getD c 32
  match k.2 with
  | [] => false
  | r :: _ => decide (kilnHeld k.1 + r.units ≤ budget) || (k.1.isEmpty && decide (r.units > budget))

/-- The numbers by which an operation in flight, and its block load, stand at a kiln. -/
def kilnOp (fl : Nat) : Nat := 4 * fl
def kilnLoad (fl : Nat) : Nat := 4 * fl + 1
/-- The rasteriser's number. -/
def kilnRaster : Nat := 2

/-- Requests granted in order while they fit (07 R217). -/
def State.kilnGrants (s : State) (c : Nat) : Nat → State
  | 0 => s
  | fuel + 1 =>
    if !(s.kilnFits c) then s else
    let k := s.kilnOf c
    match k.2 with
    | [] => s
    | r :: rest =>
      let t := s.drawWait r.who (s.cycle - r.since)
      ({ t with kilns := t.kilns.put c (k.1 ++ [{ r with since := s.cycle }], rest) }).kilnGrants c fuel

/-- KILN_GRANT (07 R217, R218). -/
def execKilnGrant (cluster : Nat) (s : State) : OutC := runEv s (s.kilnGrants cluster (s.kilnOf cluster).2.length)

/-! ### Operands -/

/-- AFMT and BFMT of an FMT value, and its fields (04 Table 4.6). -/
def fmtA (x : W32) : Nat := x.toNat % 32
def fmtB (x : W32) : Nat := x.toNat / 32 % 32
def fmtAcc (x : W32) : Bool := x.getLsbD 10
def fmtAsm (x : W32) : Nat := x.toNat / 2 ^ 11 % 4
def fmtBsm (x : W32) : Nat := x.toNat / 2 ^ 13 % 4
def fmtSat (x : W32) : Bool := x.getLsbD 15

/-- Bytes of a weight block in a format (07 Table 7.4). -/
def blockBytes (b bsm : Nat) : Nat :=
  64 * rowBytes b (fmtDepth b) + (if bsm = 1 then 0 else 64 * scalesInRow b (fmtDepth b) * fmtScaleBytes b)

/-- Elements of an MMA's row: the smaller depth (04 R117). -/
def kpOf (x : W32) : Nat := min (fmtDepth (fmtA x)) (fmtDepth (fmtB x))

/-- Bytes of the element part of an activation row, padded (07 R195). -/
def actElemBytes (x : W32) : Nat := alignUp (rowBytes (fmtA x) (kpOf x)) 4

/-- Bytes of an activation row. -/
def actBytes (x : W32) : Nat :=
  actElemBytes x +
    (if fmtAsm x = 1 then 0 else alignUp (scalesInRow (fmtA x) (kpOf x) * fmtScaleBytes (fmtA x)) 4)

/-- The operand kind of a mash-array instruction (14 Table 14.1). -/
def mashKind (o : Opw) : Nat := o.sub.toNat % 4

/-- QBIND when the operand's queue is not bound to the port (14 Table 14.2). -/
def mashPort (o : Opw) (port : Nat) (s : State) (is : Issue) : Nat :=
  if mashKind o ≠ 2 then 0 else
  match is.ag, opnd o.a with
  | .gang gid _, .q n => if (s.gang? gid).any fun g => g.port n == port then 0 else cQBIND
  | _, _ => 0

/-- The unfinished MSH operations of a gang, in issue order. -/
def State.mshOps (s : State) (gid : Nat) : List Flight := (s.flightsOfGang gid).filter fun f => f.path == 4

/-- Is an operation an MTAG? -/
def isMtag (i : Instr) : Bool := match i with | .mtag _ => true | _ => false

/-- Is an operation a grouped MMA? -/
def isMmaG (i : Instr) : Bool :=
  match i with
  | .mmaG _ => true
  | .mmaGJ _ => true
  | _ => false

/-- Is an operation a joint MMA? -/
def isMmaJ (i : Instr) : Bool :=
  match i with
  | .mmaJ _ => true
  | .mmaGJ _ => true
  | _ => false

/-- The operations of a gang that have not yet applied, oldest first. -/
def State.mshPending (s : State) (gid : Nat) : List Flight :=
  (s.mshOps gid).filter fun f => !isMtag f.instr && f.accs.any fun a => !a.done

/-- The keys under which an operation keeps, beside its lanes' words: the flights of its joint group, the group loaded last
plus 1 (with a second word once the next group's block is in the shadow plane), its group table, words gathered from a queue, that a
joint operation holds all its grants, and, from 3000 on, its tile rows as they were. -/
def keyJoint : Nat := 2000
def keyLoaded : Nat := 2001
def keyGroups : Nat := 2002
def keyWords : Nat := 2003
def keyBegun : Nat := 2004
def keyOldRow : Nat := 3000

/-- A group table from its flat form. -/
def groupsOf : List Nat → List (Nat × Nat)
  | r :: b :: t => (r, b) :: groupsOf t
  | _ => []

/-- The words kept under a key. -/
def Flight.kept (f : Flight) (k : Nat) : List Nat := Tab.get [] f.lw k

/-- Planes as they will stand after a gang's pending operations: held and format, active and shadow. -/
def State.planesAt (s : State) (g : Gang) (gid : Nat) : (Bool × Nat) × (Bool × Nat) :=
  (s.mshPending gid).foldl (fun p f =>
    match f.instr with
    | .mldw _ => (p.1, (true, fmtB f.fmt))
    | .mswap _ => (p.2, p.1)
    | .mmaG _ => ((true, fmtB f.fmt), (false, 0))
    | .mmaGJ _ => ((true, fmtB f.fmt), (false, 0))
    | _ => p) ((g.active.held, g.active.fmt), (g.shadow.held, g.shadow.fmt))

/-- The group table as it will stand after a gang's pending operations. -/
def State.groupsAt (s : State) (g : Gang) (gid : Nat) : List (Nat × Nat) :=
  match ((s.mshPending gid).filter fun f => match f.instr with | .mgrp _ => true | _ => false).getLast? with
  | some f => groupsOf (f.kept keyGroups)
  | none => g.groups

/-- The frame of a mash-array instruction: no more than 16 unfinished (07 R196), then its effect. -/
def mshEffect (s : State) (is : Issue) (f : Gang → Nat → State) : State :=
  match is.ag with
  | .ctx _ => s
  | .gang gid _ =>
    match s.gang? gid with
    | none => s
    | some g =>
      if (s.mshOps gid).length ≥ 16 ∨ s.counterFull is.ag 4 then s.blockRetry is.ag .inflight
      else f g gid

/-- An access that marks an operation as not yet over. -/
def markAcc : Acc := { devAcc .none with lane := 5000 }

/-- A new MSH operation. -/
def mshFlight (s : State) (is : Issue) (i : Instr) (rd wr : Bool) (sw : List Nat) (lw : Tab (List Nat))
    (pages : List PageMap) : Flight :=
  { newFlight s is i 4 with rd := rd, wr := wr, sw := sw, lw := lw, pages := pages, accs := [markAcc] }

/-- An MSH operation issued; its gang has used the array. -/
def State.issueMsh (s : State) (is : Issue) (f : Flight) : State :=
  match is.ag with
  | .gang gid _ => (s.issueFlight f).updGang gid fun g => { g with mshUsed := true }
  | .ctx _ => s

/-- The requests that translate ranges of memory, page by page; the first byte of each range is 16-byte aligned. -/
def rangeReqs (acc : Access) (l : List (Nat × Nat)) : List AReq :=
  l.flatMap fun e => (if e.2 = 0 then [] else
    (List.range ((e.1 + e.2 - 1) / 4096 + 1 - e.1 / 4096)).map fun (k : Nat) =>
      let a := max e.1 ((e.1 / 4096 + k) * 4096)
      { lane := 0, va := a, size := min (e.1 + e.2) ((e.1 / 4096 + k + 1) * 4096) - a, align := 16, acc := acc })

/-- The operand of a mash-array instruction resolved: its number, with the pages of its ranges; `ranges` gives the bytes
used from an address or offset on, and `more` further ranges of memory. An address that is no multiple of 16 is misaligned whatever bytes
are used (14 R399). -/
def mshOperand (i : Instr) (o : Opw) (acc : Access) (ranges : Nat → List (Nat × Nat)) (more : List (Nat × Nat)) (s : State)
    (is : Issue) (k : State → Nat → List PageMap → State) : State :=
  let sh := shape false i
  let gm := guardMask s is o
  let mem := fun (s : State) (at_ : Nat) (l : List AReq) =>
    memAccess s is 4 gm (regAccess 16) l fun t r => k t at_ (r.map fun e => pageOf e.1.va e.2)
  match mashKind o with
  | 0 =>
    let va := wrapInt ((srcVal s is o sh.a o.a .raw 1 [] 0 : Int) + sextNat (uniVal s is o sh.b o.b 2) 32) 64
    let off : List AReq := if va % 16 = 0 then [] else [{ lane := 0, va := va, size := 1, align := 16, acc := acc }]
    mem s va (off ++ rangeReqs acc (ranges va ++ more))
  | 1 =>
    let off : Int := (uniVal s is o sh.a o.a 1 : Int) + sextNat (uniVal s is o sh.b o.b 2) 32
    let bytes := (s.scrOf is.ag).map (·.2)
    let out : Bool := decide (off < 0) || (ranges off.toNat).any fun e => decide (e.1 + e.2 > bytes.getD 0)
    let c := if out then cSCRBOUND else if off % 16 ≠ 0 then cMISALIGN else 0
    if c ≠ 0 then
      s.takeCause is.ag .fault { causes := c, faddr := 0, fsub := acc.code + 256 * 4, fmask := gm }
    else mem s off.toNat (rangeReqs acc more)
  | 2 => mem s (match opnd o.a with | .q n => n | _ => 0) (rangeReqs acc more)
  | _ => mem s (match opnd o.a with | .v n => n | _ => 0) (rangeReqs acc more)

/-- The words of a V range in the lanes of a mask, as the bundle reads them at issue. -/
def vRange (s : State) (is : Issue) (o : Opw) (base n : Nat) (lanes : List Nat) : Tab (List Nat) :=
  lanes.map fun l => (l, (List.range n).map fun i =>
    srcVal s is o (.reg 1 1 1) (BitVec.ofNat 10 (base + i)) .raw 1 [] l)

/-! ### Issue -/

/-- MLDW's effect (14 R403, 07 R194). -/
def mldwEffect (o : Opw) (s : State) (is : Issue) : State :=
  mshEffect s is fun _ _ =>
    let x := s.fmtOf is.ag
    let n := blockBytes (fmtB x) (fmtBsm x)
    mshOperand (.mldw o) o .read (fun a => [(a, n)]) [] s is fun t a pages =>
      t.issueMsh is (mshFlight t is (.mldw o) true false [mashKind o, a] [] pages)

/-- MLDW (14 R402, R403). -/
def execMldw (o : Opw) (s : State) : OutC :=
  issueOp (.mldw o) o s noBad noRd (mashPort o 2 s) fun is => if anyGuard s is o then mldwEffect o s is else s

/-- MSWAP's effect (14 R403). -/
def mswapEffect (o : Opw) (s : State) (is : Issue) : State :=
  mshEffect s is fun _ _ => s.issueMsh is (mshFlight s is (.mswap o) false false [] [] [])

/-- MSWAP (14 R402, R403). -/
def execMswap (o : Opw) (s : State) : OutC := onceOp (.mswap o) o s (mswapEffect o)

/-- MCBT's effect (14 R403, 07 R199). -/
def mcbtEffect (o : Opw) (s : State) (is : Issue) : State :=
  mshEffect s is fun _ _ =>
    mshOperand (.mcbt o) o .read (fun a => [(a, 512)]) [] s is fun t a pages =>
      t.issueMsh is (mshFlight t is (.mcbt o) true false [mashKind o, a] [] pages)

/-- MCBT (14 R402, R403). -/
def execMcbt (o : Opw) (s : State) : OutC := onceOp (.mcbt o) o s (mcbtEffect o)

/-- Bytes by an operation's pages as its agent's MSH path finds them, and whether a sector is poisoned. -/
def State.readPages (s : State) (ag : Agent) (pages : List PageMap) (va n : Nat) : List Byte × Bool :=
  (devPieces va n).foldl (fun acc p =>
    match pages.find? fun g => g.vpage == p.1 / 4096 with
    | some g => let v := s.pathRead ag 4 g.tso g.zb (g.key + p.1 % 4096) p.2; (acc.1 ++ toBytes p.2 v.1, acc.2 || v.2)
    | none => (acc.1 ++ toBytes p.2 0, acc.2)) ([], false)

/-- The state after that read. -/
def State.afterPages (s : State) (ag : Agent) (pages : List PageMap) (va n : Nat) : State :=
  (devPieces va n).foldl (fun (t : State) p =>
    match pages.find? fun g => g.vpage == p.1 / 4096 with
    | some g => t.afterPath ag 4 g.tso g.zb (g.key + p.1 % 4096) p.2
    | none => t) s

/-- A byte list's little-endian number. -/
def numAt (b : List Byte) (off n : Nat) : Nat := leBytes ((b.drop off).take n)

/-- A group table's entries from its bytes; nothing when 07 R198 calls it invalid. -/
def readGroups (b : List Byte) (n : Nat) : Option (List (Nat × Nat)) :=
  let l := (List.range n).map fun k => (numAt b (16 * k) 2, numAt b (16 * k + 8) 8)
  if (List.range n).any (fun k => numAt b (16 * k + 2) 6 ≠ 0) || decide ((l.foldl (fun a e => a + e.1) 0) > 1024) then none
  else some l

/-- What MGRP's read of its table, made at issue on the MSH path, waits for: what it follows (06 R170), the writing operations of its gang
on the path (06 R180). -/
def mgrpWait (s : State) (is : Issue) : List Nat :=
  (s.ordWait is.ag 4 true false ++
    (s.flights.filter fun e => e.2.path == 4 && e.2.wr && sameMemAgent e.2.ag is.ag && e.2.accs.any fun b => !b.done).map
      (·.1)).eraseDups

/-- MGRP's effect (14 R405): the table is read before the next bundle issues; on a TSO page after earlier accesses to such pages (06 R181). -/
def mgrpEffect (o : Opw) (s : State) (is : Issue) : State :=
  mshEffect s is fun g _ =>
    let n := uniVal s is o (shape false (.mgrp o)).c o.c 3
    if n < 1 ∨ n > 64 then s.causeAt is o cILLOP else
    let pend := mgrpWait s is
    if !pend.isEmpty then s.blockRetry is.ag (.drain pend) else
    mshOperand (.mgrp o) o .read (fun a => [(a, 16 * n)]) [] s is fun t a pages =>
      let far := (pages.filterMap fun p => t.farGate (t.unitOf is.ag) (t.pasidOf is.ag) p.key)
      let tso := if pages.any (·.tso) then t.tsoReads is.ag else []
      if far.any (·.isSome) then t.waitAts is.ag (far.filterMap id)
      else if !tso.isEmpty then t.blockRetry is.ag (.drain tso) else
      let v := t.pathScr is.ag 4 g.wid a (16 * n)
      let b := if mashKind o = 0 then t.readPages is.ag pages a (16 * n) else (toBytes (16 * n) v.1, v.2)
      let t := if mashKind o = 0 then t.afterPages is.ag pages a (16 * n) else t.afterScr is.ag 4 g.wid a (16 * n)
      if b.2 || !far.isEmpty then
        t.addAsync is.ag ((newFlight t is (.mgrp o) 4).asyncBits cPOISON)
      else match readGroups b.1 n with
        | none => t.causeAt is o cILLOP
        | some l =>
          t.issueMsh is (mshFlight t is (.mgrp o) true false [mashKind o, a]
            [(keyGroups, l.flatMap fun e => [e.1, e.2])] pages)

/-- MGRP (14 R405). -/
def execMgrp (o : Opw) (s : State) : OutC := onceOp (.mgrp o) o s (mgrpEffect o)

/-- The tile of a selector. -/
def tileOf (sp : BitVec 10) : Nat := sp.toNat % 8

/-- A row count and its tiles are in range (14 R402, 07 R196). -/
def rowsOk (m width t : Nat) : Bool := decide (1 ≤ m) && decide (m ≤ width) && decide (t + ceilDiv m 128 - 1 ≤ 7)

/-- The rows that move: those of lanes active at issue (07 R199). -/
def rowLanes (width : Nat) (mask : LaneMask) (n : Nat) : List Nat := (lanesOf width mask).filter fun l => l < n

/-- MRD's effect (14 R404). -/
def mrdEffect (o : Opw) (s : State) (is : Issue) : State :=
  mshEffect s is fun g _ =>
    let n := uniVal s is o (shape false (.mrd o)).c o.c 3
    let t := tileOf o.dst
    if !(rowsOk n g.width t) then s.causeAt is o cILLOP else
    let rows := rowLanes g.width is.mask n
    mshOperand (.mrd o) o .write (fun a => rows.map fun m => (a + 256 * m, 256)) [] s is fun u a pages =>
      let f := mshFlight u is (.mrd o) false true [mashKind o, a, t, n] [] pages
      u.issueMsh is (if mashKind o = 3 then
        { f with dest := .v a 64 0, accs := f.accs ++ rows.map fun l => { devAcc .none with lane := l },
                 mask := maskOf rows } else f)

/-- MRD (14 R402, R404). -/
def execMrd (o : Opw) (s : State) : OutC :=
  issueOp (.mrd o) o s noBad noRd (mashPort o 3 s) fun is => if anyGuard s is o then mrdEffect o s is else s

/-- MWR's effect (14 R404). -/
def mwrEffect (o : Opw) (s : State) (is : Issue) : State :=
  mshEffect s is fun g _ =>
    let n := uniVal s is o (shape false (.mwr o)).c o.c 3
    let t := tileOf o.dst
    if !(rowsOk n g.width t) then s.causeAt is o cILLOP else
    let rows := rowLanes g.width is.mask n
    let lw := if mashKind o = 3 then vRange s is o (o.a.toNat % 256) 64 rows else []
    mshOperand (.mwr o) o .read (fun a => rows.map fun m => (a + 256 * m, 256)) [] s is fun u a pages =>
      u.issueMsh is (mshFlight u is (.mwr o) true false [mashKind o, a, t, n] lw pages)

/-- MWR (14 R402, R404). -/
def execMwr (o : Opw) (s : State) : OutC :=
  issueOp (.mwr o) o s noBad noRd (mashPort o 1 s) fun is => if anyGuard s is o then mwrEffect o s is else s

/-- MCLR's effect (14 R404). -/
def mclrEffect (o : Opw) (s : State) (is : Issue) : State :=
  mshEffect s is fun g _ =>
    let n := uniVal s is o (shape false (.mclr o)).c o.c 3
    let t := tileOf o.dst
    if !(rowsOk n g.width t) then s.causeAt is o cILLOP
    else s.issueMsh is (mshFlight s is (.mclr o) false false [0, 0, t, n] [] [])

/-- MCLR (14 R402, R404). -/
def execMclr (o : Opw) (s : State) : OutC := onceOp (.mclr o) o s (mclrEffect o)

/-- MTAG's effect (14 R415). -/
def mtagEffect (o : Opw) (s : State) (is : Issue) : State :=
  mshEffect s is fun _ _ =>
    let id := uniVal s is o (shape false (.mtag o)).a o.a 1
    if id > 4095 then s.causeAt is o cILLOP
    else if id / 512 ≠ s.partOf is.ag then s.causeAt is o cPROT
    else s.issueMsh is (mshFlight s is (.mtag o) false true [tileOf o.dst, id] [] [])

/-- MTAG (14 R415). -/
def execMtag (o : Opw) (s : State) : OutC := onceOp (.mtag o) o s (mtagEffect o)

/-! ### Mash sets -/

/-- The set that an SR_MSET value names in absolute terms (07 R201): the gangs of the even workgroup in the low half. -/
def msetAbs (linear : Nat) (x : W32) : W32 :=
  if linear % 2 = 0 then x else BitVec.ofNat 32 (x.toNat / 65536 + 65536 * (x.toNat % 65536))

/-- The members of a set in their order: workgroup and gang number. -/
def msetMembers (even : Nat) (set : W32) : List (Nat × Nat) :=
  ((List.range 16).filter fun j => set.getLsbD j).map (fun j => (even, j)) ++
    ((List.range 16).filter fun j => set.getLsbD (16 + j)).map fun j => (even + 1, j)

/-- Has every fragment of a workgroup exited (09 R266)? -/
def State.allExited (s : State) (w : Wg) : Bool :=
  w.gangs.all fun gid => ((s.gang? gid).map fun g => g.frags.isEmpty).getD true

/-- Where a member of a set stands: it cannot issue now (not yet placed, or exited while its workgroup lives), its workgroup has exited, or
a gang of a workgroup. -/
inductive Member where
  | later
  | gone
  | here (gid wid : Nat)
deriving DecidableEq, Repr

/-- A member found; it is gone once its workgroup has exited (07 R203, 12 R363). -/
def State.member (s : State) (grid : Nat) (m : Nat × Nat) : Member :=
  match s.grids.find? grid with
  | none => .gone
  | some gr =>
    if m.1 < gr.first ∨ m.1 ≥ gr.first + gr.count ∨ m.2 ≥ gr.lr.gangs then .gone
    else if m.1 ≥ gr.first + gr.next then .later
    else
      match List.find? (fun (e : Nat × Wg) => e.2.grid == grid && e.2.linear == m.1) s.wgs with
      | none => .gone
      | some w =>
        if s.allExited w.2 then .gone else
        match w.2.gangs.find? fun gid => (s.gang? gid).any fun g => g.num == m.2 with
        | some gid => .here gid w.1
        | none => .later

/-- The members of a latch. -/
def Latch.all (l : Latch) (s : State) : List Member := (msetMembers l.evenWg l.set).map (s.member l.grid)

/-- Does the placement of the resident members break 07 R202: one core twice, or clusters that are not one pair? -/
def State.badPlaces (s : State) (l : List Member) : Bool :=
  let cores := l.filterMap fun m => match m with
    | .here g w => if (s.wgs.find? w).any (·.onChip) then (s.gang? g).map (·.core) else none
    | _ => none
  cores.eraseDups.length != cores.length ||
    cores.any fun a => cores.any fun b => clusterOf a / 2 ≠ clusterOf b / 2

/-- Is a member of a latch's set in a workgroup that halts on a trap? -/
def State.latchTrapped (s : State) (l : Latch) : Bool :=
  (l.all s).any fun m => match m with
    | .here _ w => (s.wgs.find? w).any fun x => x.halted && s.anyTrap w
    | _ => false

/-- Must a latch abort (07 R203, 09 R267, 12 R363): a mismatch, a bad placement, a member's workgroup halted on a trap or exited? Operations
that run abort on a trap or an exit, or when the members come back from a pre-emption to places that R202 does not allow. -/
def State.latchBad (s : State) (l : Latch) : Bool :=
  s.latchTrapped l || s.badPlaces (l.all s) || ((l.all s).any fun m => m == .gone) || !l.running && l.broken

/-- The gang of an agent. -/
def gangOf (ag : Agent) : Nat := match ag with | .gang g _ => g | .ctx _ => 0

/-- Latches that are to abort. -/
def State.breakLatches (s : State) (p : Latch → Bool) : State :=
  { s with latches := s.latches.map fun e => (e.1, if p e.2 then { e.2 with broken := true } else e.2) }

/-- A joint operation reaches its set's latch (07 R203, R408): it waits behind an earlier one of its own gang, joins a
latch that names the same set, tag and rows, breaks every one of its gang that differs, or forms a new one, broken when a member of its set
stands latched under another set. -/
def State.latchJoint (s : State) (fl : Nat) : State :=
  match s.flights.find? fl with
  | none => s
  | some f =>
    let gid := gangOf f.ag
    match s.gang? gid with
    | none => s
    | some g =>
      match s.wgOf g with
      | none => s
      | some w =>
        let even := w.linear / 2 * 2
        let set := msetAbs w.linear (BitVec.ofNat 32 (f.sw.getD 6 0))
        let tag := f.sw.getD 5 0
        let rows := f.sw.getD 2 0 :: (groupsOf (f.kept keyGroups)).map (·.1)
        let isMine := fun (l : Latch) => l.grid == w.grid && l.evenWg == even &&
          !l.running && (l.set == set || (msetMembers even l.set).contains (w.linear, g.num))
        let elsewhere := (msetMembers even set).any fun m => s.latches.any fun e => e.2.grid == w.grid && e.2.evenWg == even &&
          !e.2.running && e.2.flights.any fun i => (s.flights.find? i).any fun x =>
            match s.gang? (gangOf x.ag) with
            | some y => y.num == m.2 && (s.wgOf y).any fun v => v.linear == m.1
            | none => false
        let mine : Tab Latch := s.latches.filter fun e => isMine e.2
        if mine.any fun e => e.2.flights.any fun i => (s.flights.find? i).any fun x => gangOf x.ag == gid then s else
        match List.find? (fun (e : Nat × Latch) => e.2.set == set) mine, List.head? mine with
        | some (k, l), _ =>
          let ok := l.tag == tag && l.rows == rows && (msetMembers even set).contains (w.linear, g.num)
          let t := s.breakLatches fun x => isMine x && x.set != set
          { t with latches := t.latches.put k { l with flights := l.flights ++ [fl], broken := l.broken || !ok } }
        | none, some (k, l) =>
          let t := s.breakLatches isMine
          { t with latches := t.latches.put k { l with flights := l.flights ++ [fl], broken := true } }
        | none, none =>
          { s with
            nextId := s.nextId + 1,
            latches := s.latches.put s.nextId
              { grid := w.grid, set := set, evenWg := even, tag := tag, rows := rows, flights := [fl],
                broken := elsewhere || !((msetMembers even set).contains (w.linear, g.num)) || (msetMembers even set).length < 2,
                running := false } }

/-- A gang's oldest joint operation that has not started, if no latch has it. -/
def State.relatch (s : State) (gid : Nat) : State :=
  match (s.mshPending gid).find? fun f => isMmaJ f.instr && (f.kept keyJoint).isEmpty with
  | some f => if s.latches.any fun e => e.2.flights.contains f.id then s else s.latchJoint f.id
  | none => s

/-! ### MMA -/

/-- The cases of ILLOP that 04 R116 and 07 R196 give. -/
def mmaBad (x : W32) (grouped held : Bool) (planeFmt koff m width t : Nat) : Bool :=
  let a := fmtA x
  let b := fmtB x
  (fmtIsInt a != fmtIsInt b) || (fmtIsInt a && fmtIsInt b && !(fmtAcc x)) ||
    (!(fmtIsInt a) && !(fmtIsInt b) && fmtAcc x) || (!grouped && (!held || planeFmt ≠ b)) ||
    !(rowsOk m width t) || decide ((koff + 1) * kpOf x > fmtDepth b)

/-- The effect of every MMA form (14 R406-R408). -/
def mmaEffect (i : Instr) (o : Opw) (s : State) (is : Issue) : State :=
  mshEffect s is fun g gid =>
    let x := s.fmtOf is.ag
    let grouped := isMmaG i
    let p := s.planesAt g gid
    let gs := if grouped then s.groupsAt g gid else []
    let m := if grouped then gs.foldl (fun a e => a + e.1) 0 else uniVal s is o (shape false i).c o.c 3
    let t := tileOf o.dst
    let koff := o.imm.toNat / 256 % 16
    let rb := actBytes x / 4
    let vbase := o.a.toNat % 256
    let isV := mashKind o == 3
    if mmaBad x grouped p.1.1 p.1.2 koff m g.width t || (grouped && gs.isEmpty) then
      s.causeAt is o cILLOP
    else
      let rows := rowLanes g.width is.mask m
      let lw := (if isV then vRange s is o vbase rb rows else []) ++
        (if grouped then [(keyGroups, gs.flatMap fun e => [e.1, e.2])] else [])
      let blocks := gs.map fun e => (e.2, blockBytes (fmtB x) (fmtBsm x))
      mshOperand i o .read (fun a => [(a, m * actBytes x)]) blocks s is fun u a pages =>
        let v := u.issueMsh is (mshFlight u is i true false
          [t, koff, m, mashKind o, a, o.imm.toNat % 256, g.mset.toNat] lw pages)
        if isMmaJ i then v.relatch gid else v

/-- The registers that hold a lane's row in the V kind (14 R406). -/
def mmaRows (o : Opw) (s : State) (is : Issue) : Nat × Nat := (o.a.toNat % 256, actBytes (s.fmtOf is.ag) / 4)

/-- A V range past V255 (14 R398). -/
def mmaPast (o : Opw) (s : State) (is : Issue) : Bool :=
  mashKind o == 3 && decide ((mmaRows o s is).1 + (mmaRows o s is).2 > 256)

/-- The registers of a V range (14 R398, R406). -/
def mmaReads (o : Opw) (s : State) (is : Issue) : List RegId :=
  if mashKind o = 3 then (List.range (mmaRows o s is).2).map fun k => .v ((mmaRows o s is).1 + k) else []

/-- The frame of an MMA form. -/
def mmaOp (i : Instr) (o : Opw) (s : State) : OutC :=
  issueOp i o s (mmaPast o s) (mmaReads o s) (mashPort o 1 s) fun is => if anyGuard s is o then mmaEffect i o s is else s

/-- MMA (14 R406, R407). -/
def execMma (o : Opw) (s : State) : OutC := mmaOp (.mma o) o s

/-- MMA.G (14 R406, R407). -/
def execMmaG (o : Opw) (s : State) : OutC := mmaOp (.mmaG o) o s

/-- MMA.J (14 R406, R408). -/
def execMmaJ (o : Opw) (s : State) : OutC := mmaOp (.mmaJ o) o s

/-- MMA.G.J (14 R406-R408). -/
def execMmaGJ (o : Opw) (s : State) : OutC := mmaOp (.mmaGJ o) o s

/-! ### Tiles of the accumulator store -/

/-- The core of a gang. -/
def State.coreOf (s : State) (gid : Nat) : Nat := ((s.gang? gid).map (·.core)).getD offCore

/-- A tile bound to a physical tile (07 R191): the store frees the least recently used tile of a gang of the core that has
no unfinished MSH operation; nothing when every one is busy. -/
def State.bindTile (s : State) (gid tile : Nat) : Option State :=
  let rest := s.tiles.filter fun e => e != (gid, tile)
  let here := rest.filter fun e => s.coreOf e.1 == s.coreOf gid
  if rest.length < s.tiles.length then some { s with tiles := (gid, tile) :: rest }
  else if here.length < 8 then some { s.tilePoison gid tile with tiles := (gid, tile) :: rest }
  else
    match (here.filter fun e => (s.mshOps e.1).isEmpty).getLast? with
    | none => none
    | some v =>
      some { ((s.saveTile v.1 v.2).tilePoison gid tile) with tiles := (gid, tile) :: rest.filter fun e => e != v }

/-- A tile row's words. -/
def Gang.tileRow (g : Gang) (t m : Nat) : List Nat :=
  (List.range 64).map fun n => (Tab.get 0 g.a (8192 * (t + m / 128) + 64 * (m % 128) + n)).toNat

/-- A tile row written. -/
def Gang.setTileRow (g : Gang) (t m : Nat) (ws : List Nat) : Gang :=
  { g with a := ws.zipIdx.foldl (fun a e =>
      Tab.set 0 a (8192 * (t + m / 128) + 64 * (m % 128) + e.2) (BitVec.ofNat 32 e.1)) g.a }

/-- The number of a tile row's first sector. -/
def rowSector (t m : Nat) : Nat := 1024 * (t + m / 128) + 8 * (m % 128)

/-- Is word `n` of a tile row poisoned (10 R290)? -/
def Gang.wordBad (g : Gang) (t m n : Nat) : Bool := g.abad.has (rowSector t m + n / 8)

/-- Is a word of a tile row poisoned? -/
def Gang.rowBad (g : Gang) (t m : Nat) : Bool := (List.range 8).any fun k => g.abad.has (rowSector t m + k)

/-- A tile row written whole: its sectors are poisoned no longer (log entry 10). -/
def Gang.putTileRow (g : Gang) (t m : Nat) (ws : List Nat) : Gang :=
  { g.setTileRow t m ws with abad := (List.range 8).foldl (fun b k => NSet.era b (rowSector t m + k)) g.abad }

/-! ### The steps of an operation -/

/-- An operation's record changed. -/
def State.updFlight (s : State) (fl : Nat) (f : Flight → Flight) : State := { s with flights := s.flights.upd f fl }

/-- An MSH operation is over: every access done, its grants returned. -/
def State.mshDone (s : State) (fl : Nat) : State :=
  match s.flights.find? fl with
  | none => s
  | some f =>
    let c := clusterOf (s.coreOf (gangOf f.ag))
    ((s.updFlight fl fun x => { x with accs := x.accs.map fun a => { a with done := true } }).kilnDrop c (kilnOp fl)).kilnDrop c
      (kilnLoad fl)

/-- A queue's words replaced. -/
def State.setQueue (s : State) (gid q : Nat) (ws : List W32) : State :=
  s.updGang gid fun g => g.setWords q ws

/-- Words taken from the front of a gang's queue. -/
def State.popQueue (s : State) (gid q n : Nat) : List Nat × State :=
  match s.gang? gid with
  | none => ([], s)
  | some g =>
    (((g.qwords q).take n).map (·.toNat), s.setQueue gid q ((g.qwords q).drop n))

/-- Words put at the end of a gang's queue. -/
def State.pushQueue (s : State) (gid q : Nat) (ws : List Nat) : State :=
  match s.gang? gid with
  | none => s
  | some g => s.setQueue gid q (g.qwords q ++ ws.map (BitVec.ofNat 32))

/-- The words a gang's queue holds. -/
def State.queueLen (s : State) (gid q : Nat) : Nat := ((s.gang? gid).map fun g => (g.qwords q).length).getD 0

/-- Words as bytes. -/
def wordBytes (l : List Nat) : List Byte := l.flatMap fun w => toBytes 4 w

/-- Bytes as words. -/
def byteWords (b : List Byte) : List Nat := (List.range (b.length / 4)).map fun i => numAt b (4 * i) 4

/-- The workgroup of an operation's gang. -/
def State.widOf (s : State) (f : Flight) : Nat := ((s.gang? (gangOf f.ag)).map (·.wid)).getD 0

/-- Bytes of a memory, scratchpad or V operand of an operation as its path finds them, and whether they are poisoned. -/
def State.operandBytes (s : State) (f : Flight) (kind a off n lane : Nat) : List Byte × Bool :=
  match kind with
  | 0 => s.readPages f.ag f.pages (a + off) n
  | 1 => let v := s.pathScr f.ag 4 (s.widOf f) (a + off) n; (toBytes n v.1, v.2)
  | _ => (wordBytes (f.kept lane), false)

/-- The state after they have been read: poison that was met is an asynchronous cause (09 R250). -/
def State.operandRead (s : State) (f : Flight) (kind a off n lane : Nat) : State :=
  let t := match kind with
    | 0 => (f.pages.find? fun g => g.vpage == (a + off) / 4096).elim id (fun g u => State.countXfer u (g.key + (a + off) % 4096))
        (s.afterPages f.ag f.pages (a + off) n)
    | 1 => s.afterScr f.ag 4 (s.widOf f) (a + off) n
    | _ => s
  if (s.operandBytes f kind a off n lane).2 then t.addAsync f.ag (f.asyncBits cPOISON) else t

/-- The words of a queue that the next row, or the scales, of an MLDW take; 0 when it has them all. -/
def Flight.mldwWant (f : Flight) : Nat :=
  let b := fmtB f.fmt
  let have_ := (f.kept keyWords).length
  let rw := rowBytes b (fmtDepth b) / 4
  if have_ < 64 * rw then rw else blockBytes b (fmtBsm f.fmt) / 4 - have_

/-- Need an MLDW not wait for words of its queue? -/
def State.mldwReady (s : State) (f : Flight) : Bool :=
  f.sw.getD 0 0 ≠ 2 || decide (s.queueLen (gangOf f.ag) (f.sw.getD 1 0) ≥ f.mldwWant)

/-- MLDW's step: under its grant (07 R217) the block's rows are drawn from a queue as they come (07 R189; log entry 39), and the plane is
loaded when all are there. -/
def State.mldwStep (s : State) (f : Flight) : State :=
  let gid := gangOf f.ag
  let b := fmtB f.fmt
  let len := blockBytes b (fmtBsm f.fmt)
  let kind := f.sw.getD 0 0
  let a := f.sw.getD 1 0
  let c := clusterOf (s.coreOf gid)
  let load := fun (t : State) (data : List Byte) =>
    (t.updGang gid fun g => { g with shadow :=
      { fmt := b, src := if kind = 0 then a else 0, held := true, stale := false, data := data, bad := [] } }).mshDone f.id
  if !(s.kilnHas c (kilnOp f.id)) then s.kilnAsk c (kilnOp f.id) 1
  else if kind = 2 then
    if f.mldwWant = 0 then load s (wordBytes (f.kept keyWords))
    else if !(s.mldwReady f) then s.kilnStall c (kilnOp f.id) true
    else
      let r := (s.kilnStall c (kilnOp f.id) false).popQueue gid a f.mldwWant
      r.2.updFlight f.id fun x => { x with lw := x.lw.put keyWords (x.kept keyWords ++ r.1) }
  else load (s.operandRead f kind a 0 len 0) (s.operandBytes f kind a 0 len 0).1

/-- The group that holds a row: index, block, first row and the row after its last. -/
def groupAt (m : Nat) : List (Nat × Nat) → Nat → Nat → Option (Nat × Nat × Nat × Nat)
  | [], _, _ => none
  | e :: t, i, base => if m < base + e.1 then some (i, e.2, base, base + e.1) else groupAt m t (i + 1) (base + e.1)

/-- The block of the next group with rows after group `i`. -/
def nextGroup (i : Nat) (l : List (Nat × Nat)) : Option Nat := ((l.drop (i + 1)).find? fun (e : Nat × Nat) => e.1 ≠ 0).map fun e => e.2

/-- The weights of the next row put in place (07 R198): for the grouped forms the group's block in the active plane and the next group's
pre-loaded in the shadow plane, each load under a grant of its own; a group's pre-loaded block becomes active. The state, and whether all
is in place. -/
def State.mmaWeights (s : State) (f : Flight) : State × Bool :=
  if !(isMmaG f.instr) then (s, true) else
  match groupAt f.cur (groupsOf (f.kept keyGroups)) 0 0 with
  | none => (s, true)
  | some (i, blk, _, _) =>
    let gid := gangOf f.ag
    let c := clusterOf (s.coreOf gid)
    let got := f.kept keyLoaded
    let mark := fun (l : List Nat) (t : State) => t.updFlight f.id fun x => { x with lw := x.lw.put keyLoaded l }
    let load := fun (b : Nat) =>
      let n := blockBytes (fmtB f.fmt) (fmtBsm f.fmt)
      let p : Plane := { fmt := fmtB f.fmt, src := b, held := true, stale := false, data := (s.operandBytes f 0 b 0 n 0).1, bad := [] }
      (p, (s.operandRead f 0 b 0 n 0).kilnDrop c (kilnLoad f.id))
    if got = [i + 1, 1] then (s, true)
    else if got = [i + 1] then
      match nextGroup i (groupsOf (f.kept keyGroups)) with
      | none => (mark [i + 1, 1] s, true)
      | some b =>
        if !(s.kilnHas c (kilnLoad f.id)) then (s.kilnAsk c (kilnLoad f.id) 1, false)
        else (mark [i + 1, 1] ((load b).2.updGang gid fun g => { g with shadow := (load b).1 }), true)
    else if !got.isEmpty then
      (mark [i + 1] (s.updGang gid fun g => { g with active := g.shadow, shadow := Plane.none }), false)
    else if !(s.kilnHas c (kilnLoad f.id)) then (s.kilnAsk c (kilnLoad f.id) 1, false)
    else (mark [i + 1] ((load blk).2.updGang gid fun g => { g with active := (load blk).1, shadow := Plane.none }), false)

/-- A scale of a row or block at a byte offset; one that was not loaded is not stated and is a free number. -/
def scaleAtByte (c : Nat) (b : List Byte) (off fresh : Nat) : RVal :=
  if off + fmtScaleBytes c > b.length then scaleVal (fmtScale c) (Config.freeNat fresh (2 ^ 42 + off) % 2 ^ (8 * fmtScaleBytes c))
  else scaleVal (fmtScale c) (numAt b off (fmtScaleBytes c))

/-- The elements of an activation row with their scales (07 R195). -/
def actElems (x : W32) (row : List Byte) (fresh : Nat) : List RVal :=
  let a := fmtA x
  (List.range (kpOf x)).map fun (k : Nat) =>
    let e := rowElem a [] row k
    if fmtScale a = 0 ∨ fmtAsm x = 1 then e
    else scaledVal e (scaleAtByte a row (actElemBytes x + scalePos a k * fmtScaleBytes a) fresh)

/-- A plane's elements of one column, from a position on (07 R193). -/
def planeElems (x : W32) (p : Plane) (codebook : List Byte) (col first fresh : Nat) : List RVal :=
  let b := fmtB x
  let rb := rowBytes b (fmtDepth b)
  let row := (p.data.drop (rb * col)).take rb
  (List.range (kpOf x)).map fun (k : Nat) =>
    let e := rowElem b codebook row (first + k)
    if fmtScale b = 0 ∨ fmtBsm x = 1 then e
    else scaledVal e (scaleAtByte b p.data
      (64 * rb + (scalesInRow b (fmtDepth b) * col + scalePos b (first + k)) * fmtScaleBytes b) fresh)

/-- Is a byte of a plane poisoned among those that a column's elements from a position on take: the elements', and their scales'? -/
def planeBad (x : W32) (p : Plane) (col first : Nat) : Bool :=
  if p.bad.isEmpty then false else
  let b := fmtB x
  let rb := rowBytes b (fmtDepth b)
  let bit := rb * 8 / fmtDepth b
  let sc := fun (k : Nat) => 64 * rb + (scalesInRow b (fmtDepth b) * col + scalePos b k) * fmtScaleBytes b
  let hit := fun (lo hi : Nat) => p.bad.any fun s => decide (s * 32 < hi ∧ lo < s * 32 + 32)
  hit (rb * col + first * bit / 8) (rb * col + ceilDiv ((first + kpOf x) * bit) 8) ||
    !(fmtScale b == 0 || fmtBsm x == 1) && hit (sc first) (sc (first + kpOf x - 1) + fmtScaleBytes b)

/-- A list cut into pieces of `g`. -/
def cutBy {α : Type} (g : Nat) : Nat → List α → List (List α)
  | 0, _ => []
  | n + 1, l => if l.isEmpty then [] else l.take g :: cutBy g n (l.drop g)

/-- One output element (04 R118). -/
def mmaElement (x : W32) (a b : List RVal) (acc : Nat) : Nat :=
  let g := min (fmtGroup (fmtA x)) (fmtGroup (fmtB x))
  mmaGroups (fmtAcc x) (fmtSat x) (cutBy g (a.length + 1) (a.zip b)) acc

/-- One row of a member: written when its lane was active (07 R196). An element that stands in a poisoned sector, or takes poisoned weights,
stays as it is, and POISON is raised (05 R131, 10 R290). -/
def State.mmaRow (s : State) (f : Flight) (elems : List RVal) (m : Nat) : State :=
  let t := f.sw.getD 0 0
  let koff := f.sw.getD 1 0
  if !(f.mask.getLsbD m) then s else
  let keep := fun (g : Gang) (x : Flight) => if isMmaJ x.instr then { x with lw := x.lw.put (keyOldRow + m) (g.tileRow t m) } else x
  let s1 : State := match s.gang? (gangOf f.ag) with | some g => s.updFlight f.id (keep g) | none => s
  let bad := fun (g : Gang) (n : Nat) => g.wordBad t m n || planeBad f.fmt g.active n (koff * kpOf f.fmt)
  let s2 := s1.updGang (gangOf f.ag) fun g =>
    g.setTileRow t m ((g.tileRow t m).zipIdx.map fun e =>
      if bad g e.2 then e.1
      else mmaElement f.fmt elems (planeElems f.fmt g.active g.codebook e.2 (koff * kpOf f.fmt) s.fresh) e.1)
  if (s.gang? (gangOf f.ag)).any fun g => (List.range 64).any (bad g) then s2.addAsync f.ag (f.asyncBits cPOISON) else s2

/-- The activation row of a member (07 R195): its bytes, taken from its queue if it has one. -/
def State.fetchRow (s : State) (f : Flight) (m : Nat) : List Byte × State :=
  let n := actBytes f.fmt
  let kind := f.sw.getD 3 0
  let a := f.sw.getD 4 0
  if kind = 2 then
    let r := s.popQueue (gangOf f.ag) a (n / 4)
    (wordBytes r.1, r.2)
  else ((s.operandBytes f kind a (m * n) n m).1, s.operandRead f kind a (m * n) n m)

/-- Is a member's next row there? -/
def State.rowReady (s : State) (f : Flight) : Bool :=
  f.sw.getD 3 0 ≠ 2 || decide (s.queueLen (gangOf f.ag) (f.sw.getD 4 0) ≥ actBytes f.fmt / 4)

/-- Rows `m` and after, `n` of them, of a list of members: the first supplies the activations (07 R203). -/
def State.mmaRows (s : State) (fs : List Flight) : Nat → Nat → State
  | _, 0 => s
  | m, n + 1 =>
    match fs with
    | [] => s
    | lead :: _ =>
      let row := s.fetchRow lead m
      let t := (fs.drop 1).foldl (fun (t : State) f => (t.fetchRow f m).2) row.2
      let es := if lead.mask.getLsbD m then actElems lead.fmt row.1 s.fresh
        else (List.range (kpOf lead.fmt)).map fun _ => RVal.fin false 0 1
      (fs.foldl (fun (t : State) f => t.mmaRow f es m) t).mmaRows fs (m + 1) n

/-- The tiles of rows bound for every member. -/
def State.bindRows (s : State) (m : Nat) : List Flight → Option State
  | [] => some s
  | f :: t =>
    match s.bindTile (gangOf f.ag) (f.sw.getD 0 0 + m / 128) with
    | none => none
    | some s' => s'.bindRows m t

/-- The members of an operation: itself, or its joint group, first member first. -/
def State.mmaMembers (s : State) (f : Flight) : List Flight :=
  if isMmaJ f.instr then (f.kept keyJoint).filterMap fun i => s.flights.find? i else [f]

/-- The grants of an MMA's members: each asks its own kiln, the higher-numbered cluster last (07 R217). -/
def State.mmaGrants (s : State) (fs : List Flight) : State × Bool :=
  let c := fun (f : Flight) => clusterOf (s.coreOf (gangOf f.ag))
  let lo := (fs.map c).min?.getD 0
  let low := fs.filter fun f => c f == lo
  let high := fs.filter fun f => c f != lo
  let has := fun (f : Flight) => s.kilnHas (c f) (kilnOp f.id)
  let ask := fun (s : State) (l : List Flight) => l.foldl (fun (t : State) f => t.kilnAsk (c f) (kilnOp f.id) 4) s
  if !(low.all has) then (ask s low, false)
  else if !(high.all has) then (ask s high, false)
  else (s, true)

/-- The weights of all members. -/
def State.allWeights (s : State) : List Flight → State × Bool
  | [] => (s, true)
  | f :: t =>
    let r := s.mmaWeights f
    let q := r.1.allWeights t
    (q.1, r.2 && q.2)

/-- The next step of an MMA: weights, draw, then rows up to the next multiple of 128, the end of the group, or the end; a
queue gives one row at a time. A joint operation moves by its first member. -/
def State.mmaStep (s : State) (f : Flight) : State :=
  let fs := s.mmaMembers f
  match fs with
  | [] => s
  | lead :: _ =>
    let up := fs.all fun x => match s.gang? (gangOf x.ag) with
      | some g => (s.wgOf g).any (·.onChip) && !x.withdrawn
      | none => false
    if lead.id ≠ f.id ∨ !up ∨ (s.latches.any fun e => e.2.flights.contains f.id && s.latchBad e.2) then s else
    let w := s.allWeights fs
    let at_ := fun (x : Flight) => clusterOf (s.coreOf (gangOf x.ag))
    let stall := fun (b : Bool) (t : State) => fs.foldl (fun (u : State) x => u.kilnStall (at_ x) (kilnOp x.id) b) t
    if !w.2 then stall true w.1 else
    let m := f.sw.getD 2 0
    let gr := if m ≥ 64 then w.1.mmaGrants fs else (w.1, true)
    if !gr.2 then gr.1 else
    let begun := if isMmaJ f.instr && (f.kept keyBegun).isEmpty then
        fs.foldl (fun (u : State) x => (u.kilnBegin (at_ x) (kilnOp x.id)).updFlight x.id fun y => { y with lw := y.lw.put keyBegun [1] })
          gr.1
      else gr.1
    match begun.bindRows f.cur fs with
    | none => stall true begun
    | some t =>
      if !(fs.all t.rowReady) then stall true t else
      let t := stall false t
      let stop := match groupAt f.cur (groupsOf (f.kept keyGroups)) 0 0 with
        | some (_, _, _, e) => min m (min e ((f.cur / 128 + 1) * 128))
        | none => min m ((f.cur / 128 + 1) * 128)
      let n := if fs.any fun x => x.sw.getD 3 0 == 2 then 1 else stop - f.cur
      let u := t.mmaRows fs f.cur n
      let next := f.cur + n
      fs.foldl (fun (u : State) x =>
        let u := u.updFlight x.id fun y => { y with cur := next }
        if next ≥ m then { u.mshDone x.id with latches := (u.mshDone x.id).latches.filter fun e => !(e.2.running && e.2.flights.contains x.id) }
        else u) u

/-- Bytes written by an operation's pages; the state, and whether a sector was poisoned. -/
def State.writePages (s : State) (f : Flight) (va : Nat) (b : List Byte) : State × Bool :=
  (devPieces va b.length).foldl (fun (acc : State × Bool) p =>
    match f.pages.find? fun g => g.vpage == p.1 / 4096 with
    | some g =>
      let k := g.key + p.1 % 4096
      let r := acc.1.spotPut f (.mem k g.zb) p.2 (numAt b (p.1 - va) p.2) 0
      let t := r.1
      (if !r.2 && keyTier k == 2 then t.sendReq f.slot 4 (peerOf k) f.id msgRequest [k, 4] else t, acc.2 || r.2)
    | none => acc) (s, false)

/-- The next row of an MRD, MWR or MCLR (14 R404). A poisoned row that MRD reads raises POISON: its poisoned words read as 0 in registers and
queues, and memory and scratchpad stay as they are (log entry 10). -/
def State.rowStep (s : State) (f : Flight) : State :=
  let gid := gangOf f.ag
  let kind := f.sw.getD 0 0
  let a := f.sw.getD 1 0
  let t := f.sw.getD 2 0
  let n := f.sw.getD 3 0
  let m := f.cur
  let act := f.mask.getLsbD m
  match s.bindTile gid (t + m / 128) with
  | none => s
  | some s1 =>
    let bad := (s1.gang? gid).any fun g => g.rowBad t m
    let row := ((s1.gang? gid).map fun g => (g.tileRow t m).zipIdx.map fun e => if g.wordBad t m e.2 then 0 else e.1).getD []
    let go := fun (u : State) =>
      let u := u.updFlight f.id fun x => { x with cur := m + 1 }
      if m + 1 ≥ n then u.mshDone f.id else u
    let put := fun (u : State) (ws : List Nat) => if act then u.updGang gid fun g => g.putTileRow t m ws else u
    match f.instr with
    | .mclr _ => go (put s1 (List.replicate 64 0))
    | .mwr _ =>
      if kind = 2 then
        if s1.queueLen gid a < 64 then s1 else
        let r := s1.popQueue gid a 64
        go (put r.2 r.1)
      else if !act then go s1
      else go (put (s1.operandRead f kind a (256 * m) 256 m) (byteWords (s1.operandBytes f kind a (256 * m) 256 m).1))
    | _ =>
      let seen := if bad && (act || kind == 2) then s1.addAsync f.ag (f.asyncBits cPOISON) else s1
      if kind = 2 then
        if s1.queueLen gid a + 64 > 256 then s1
        else go (seen.pushQueue gid a row)
      else if !act then go s1
      else match kind with
        | 0 =>
          if bad then go seen else
          let r := s1.writePages f (a + 256 * m) (wordBytes row)
          go (if r.2 then r.1.addAsync f.ag (f.asyncBits cPOISON) else r.1)
        | 1 =>
          if bad then go seen else
          let r := s1.spotPut f (.scr (s1.widOf f) (a + 256 * m)) 256 (leBytes (wordBytes row)) 0
          go (if r.2 then r.1.addAsync f.ag (f.asyncBits cPOISON) else r.1)
        | _ => go (seen.updFlight f.id fun x => { x with accs := x.accs.map fun (c : Acc) =>
            if c.lane = m then { c with res := row.foldr (fun w acc => w + 2 ^ 32 * acc) 0, done := true } else c })

/-- Is a port that an operation's pages use held while its region retrains (10 R287)? -/
def State.pagesHeld (s : State) (f : Flight) : Bool :=
  f.pages.any fun g => (List.range 32).any fun i => s.portHeld (g.key + 128 * i) s.cycle

/-- The next step of an MSH operation, the oldest of its gang that has not applied; none while the gang is parked (07 R217), nor, but to reach
the place where it stops (R205), while its workgroup is saved. -/
def State.mshStep (s : State) (f : Flight) : State :=
  let gid := gangOf f.ag
  if (s.mshPending gid).head?.map (·.id) ≠ some f.id || f.withdrawn then s else
  let stopping := match (s.gang? gid).bind fun g => (s.wgOf g).map (·.stat) with
    | some (.swapping k) => k != 3
    | some (.away _) => true
    | _ => false
  if (((s.gang? gid).bind s.wgOf).any fun w => w.stat == .parked) then s
  else if stopping && !(isMma f.instr && f.cur % 128 ≠ 0) && !(!(isMma f.instr) && s.kilnHas (clusterOf (s.coreOf gid)) (kilnOp f.id)) then s else
  match s.reloadPlanes f.ag (f.asyncBits cPOISON) with
  | none => s
  | some s =>
    match f.instr with
    | .mldw _ => s.mldwStep f
    | .mswap _ => (s.updGang gid fun g => { g with active := g.shadow, shadow := g.active }).mshDone f.id
    | .mcbt _ =>
      let d := s.operandBytes f (f.sw.getD 0 0) (f.sw.getD 1 0) 0 512 0
      ((s.operandRead f (f.sw.getD 0 0) (f.sw.getD 1 0) 0 512 0).updGang gid fun g => { g with codebook := d.1 }).mshDone f.id
    | .mgrp _ => (s.updGang gid fun g => { g with groups := groupsOf (f.kept keyGroups) }).mshDone f.id
    | .mma _ => s.mmaStep f
    | .mmaG _ => s.mmaStep f
    | .mmaJ _ => s.mmaStep f
    | .mmaGJ _ => s.mmaStep f
    | .mrd _ => s.rowStep f
    | .mwr _ => s.rowStep f
    | .mclr _ => s.rowStep f
    | _ => s

/-! ### Events -/

/-- The flights of a latch, in the order of the set's members; nothing while one is missing or not ready. -/
def State.latchReady (s : State) (l : Latch) : Option (List Nat) :=
  let ids := (l.all s).map fun m => match m with
    | .here gid wid =>
      match l.flights.filterMap (fun i => s.flights.find? i) |>.find? fun f => gangOf f.ag == gid with
      | some f =>
        if (s.wgs.find? wid).any (·.onChip) && !f.withdrawn && (s.mshPending gid).head?.map (·.id) == some f.id then some f.id
        else none
      | none => none
    | _ => none
  if ids.all (·.isSome) && !ids.isEmpty then some (ids.filterMap id) else none

/-- JOINT_START (07 R203): the latch releases, and its operations run. -/
def execJointStart (latch : Nat) (s : State) : OutC :=
  match s.latches.find? latch with
  | none => runEv s s
  | some l =>
    if l.running || s.latchBad l then runEv s s else
    match s.latchReady l with
    | none => runEv s s
    | some ids =>
      let t := { s with latches := s.latches.put latch { l with running := true, flights := ids } }
      let t := ids.foldl (fun (t : State) i => t.updFlight i fun f => { f with lw := f.lw.put keyJoint ids }) t
      let gs := ids.filterMap fun i => (s.flights.find? i).map fun f => gangOf f.ag
      runEv s (gs.foldl (fun (t : State) g => t.relatch g) t)

/-- Does a joint operation name a latch's set (07 R201)? -/
def State.inSet (s : State) (l : Latch) (f : Flight) : Bool :=
  isMmaJ f.instr && match s.gang? (gangOf f.ag) with
    | some g => (s.wgOf g).any fun w => w.grid == l.grid && w.linear / 2 * 2 == l.evenWg &&
        msetAbs w.linear (BitVec.ofNat 32 (f.sw.getD 6 0)) == l.set
    | none => false

/-- The joint operations that a latch's abort completes: those that it runs, or every pending one of its set (07 R203). -/
def State.abortOps (s : State) (l : Latch) : List Nat :=
  if l.running then l.flights else
  (l.flights ++ (s.flights.filter fun e => s.inSet l e.2 && (e.2.kept keyJoint).isEmpty && e.2.accs.any fun a => !a.done).map (·.1)).eraseDups

/-- An aborted joint operation completes with no effect on any tile: the rows it wrote stand as they were. -/
def State.abortOp (s : State) (fl : Nat) : State :=
  match s.flights.find? fl with
  | none => s
  | some f =>
    (s.updGang (gangOf f.ag) fun g => f.lw.foldl (fun (g : Gang) e =>
      if e.1 ≥ keyOldRow then g.setTileRow (f.sw.getD 0 0) (e.1 - keyOldRow) e.2 else g) g).mshDone fl

/-- JOINT_ABORT (07 R203, 09 R267): the pending joint operations of the set, or those that run, complete without effect, and every member
that has not exited takes ENGFAULT. -/
def execJointAbort (latch : Nat) (s : State) : OutC :=
  match s.latches.find? latch with
  | none => runEv s s
  | some l =>
    if !(s.latchBad l) then runEv s s else
    let t := { s with latches := s.latches.del latch }
    let t := (s.abortOps l).foldl (fun (t : State) i => t.abortOp i) t
    let gangs := ((l.all s).filterMap fun m => match m with | .here g _ => some g | _ => none) ++
      l.flights.filterMap fun i => (s.flights.find? i).map fun f => gangOf f.ag
    let t := gangs.eraseDups.foldl (fun (t : State) gid =>
      match t.gang? gid with
      | none => t
      | some g =>
        if g.frags.isEmpty then t else
        let own := l.flights.filterMap (fun i => s.flights.find? i) |>.find? fun f => gangOf f.ag == gid
        let fid := match own with
          | some f => (match f.ag with | .gang _ x => x | _ => 0)
          | none => (g.frags.keys.head?).getD 0
        t.addAsync (.gang gid fid) (match own with | some f => f.asyncBits cENGFAULT | none => cENGFAULT)) t
    runEv s (gangs.eraseDups.foldl (fun (t : State) g => t.relatch g) t)

/-- Is a grant held for a joint operation that waits for other members' grants (07 R217)? -/
def State.kilnKept (s : State) (who : Nat) : Bool :=
  decide (who % 4 = 0) && (s.flights.find? (who / 4)).any fun f => isMmaJ f.instr && (f.kept keyBegun).isEmpty

/-- A grant returned for a new request at the back of the order; the members of a joint operation return theirs together, and ask again in
their order (07 R217). -/
def State.kilnReturn (s : State) (c who units : Nat) : State :=
  let alone := (s.kilnDrop c who).kilnAsk c who units
  match s.flights.find? (who / 4) with
  | none => alone
  | some f =>
    if who % 4 = 0 ∧ isMmaJ f.instr then
      (s.mmaMembers f).foldl (fun (t : State) x =>
        (t.kilnDrop (clusterOf (s.coreOf (gangOf x.ag))) (kilnOp x.id)).updFlight x.id fun y =>
          { y with lw := y.lw.filter fun e => e.1 != keyBegun }) s
    else alone

/-- KILN_PERIOD_EXPIRE (07 R217): after 256 cycles of work, or a wait longer than 64, the grant returns and the request
joins the back of the order; a member of a set keeps its grant while the others wait for theirs. -/
def execKilnPeriodExpire (cluster holder : Nat) (waited : Bool) (s : State) : OutC :=
  match (s.kilnOf cluster).1.find? fun r => r.who == holder with
  | none => runEv s s
  | some r =>
    let gone := if waited then r.stalled ≠ 0 && decide (s.cycle > r.stalled - 1 + 64) else decide (s.cycle ≥ r.since + 256)
    runEv s (if gone && !(s.kilnKept holder) then s.kilnReturn cluster holder r.units else s)

/-- MTAG_RETIRE (07 R200, 14 R415): the binding's counter is decremented once every earlier MSH operation of the gang has
completed, and all that the MTAG follows by a fence or an acquire is applied (06 R170, R177). -/
def execMtagRetire (fl : Nat) (s : State) : OutC :=
  match s.flights.find? fl with
  | none => runEv s s
  | some f =>
    let gid := gangOf f.ag
    if !isMtag f.instr || f.withdrawn || !(s.mayApply f) || (s.mshOps gid).any fun e => decide (e.id < fl) then runEv s s
    else
      devEv s ((s.dcDecrement (f.sw.getD 1 0) 1).bind fun _ t =>
        .ok () (({ t with flights := t.flights.del fl }).reap gid))

end Sys2Proof.Machine
end

