-- ==== Sys2Proof/Machine/Raster.lean ====
section
/-!
DEFINITION. Visibility passes (08 R219-R241): the pass descriptor, tile status and pins, the rasteriser and its merges,
the classify engine, material bins, and the end of a pass; the instructions RASTQ, RFLUSH, VBWR and TLREL (14 R432, R433;
15 R467, R469, R470).
-/
namespace Sys2Proof.Machine

/-! ### The pass descriptor -/

/-- A pass descriptor (08 Table 8.1). -/
structure Pass where
  addr : Nat
  pasid : Nat
  part : Nat
  unit : Nat
  tiles : Nat
  tw : Nat
  th : Nat
  pflags : Nat
  clear : Nat
  param : Nat
  tstat : Nat
  inst : Nat
  clus : Nat
  matmap : Nat
  bins : Nat
  ovr : Nat
  hits : Nat
  hitcap : Nat
  view : List Nat
  missbin : Nat
  close : Nat
  bad : Bool
deriving DecidableEq, Repr

/-- The descriptor of 128 bytes; `bad`: every operation that names it only sets ERRS bit 4 (08 R219). -/
def parsePass (addr pasid part unit x : Nat) : Pass :=
  let f := fun (off n : Nat) => x / 256 ^ off % 256 ^ n
  { addr := addr, pasid := pasid, part := part, unit := unit, tiles := f 0 8, tw := f 8 2, th := f 10 2, pflags := f 12 4,
    clear := f 16 4, param := f 24 8, tstat := f 32 8, inst := f 40 8, clus := f 48 8, matmap := f 56 8, bins := f 64 8,
    ovr := f 72 8, hits := f 80 8, hitcap := f 88 4, view := (List.range 4).map fun i => f (96 + 4 * i) 4,
    missbin := f 112 2, close := f 116 4,
    bad := f 8 2 == 0 || decide (f 8 2 > 1024) || f 10 2 == 0 || decide (f 10 2 > 1024) || addr % 128 ≠ 0 ||
      f 0 8 % 16384 ≠ 0 || f 24 8 % 64 ≠ 0 || f 32 8 % 8 ≠ 0 || f 80 8 % 32 ≠ 0 || f 114 2 ≠ 0 || f 124 4 ≠ 0 ||
      decide (f 12 4 ≥ 2) }

/-- The tiles of a pass. -/
def Pass.count (p : Pass) : Nat := p.tw * p.th

/-- Bits set in ERRS; when it cannot be written, a device error record says so (08 R219). -/
def State.passErr (s : State) (unit pasid part addr bits : Nat) : DRes Unit :=
  match s.devUpdate unit pasid part (addr + 20) 4 fun x => x ||| bits with
  | .ok _ t => .ok () t
  | .fault _ t => .ok () (t.devErr part addr 36 0 bits)
  | .wait w => .wait w

/-- A pass is one the device knows of. -/
def State.notePass (s : State) (pasid part addr : Nat) : State :=
  if s.passes.any fun p => p.addr == addr && p.pasid == pasid then s
  else { s with passes := s.passes ++ [{ addr := addr, pasid := pasid, part := part, closing := false }] }

/-- A pass descriptor read at use (08 R219); none, with ERRS bit 4 set, when it is bad or cannot be read. -/
def State.passAt (s : State) (unit pasid part addr : Nat) : DRes (Option Pass) :=
  match s.devRead unit pasid part addr 128 with
  | .wait w => .wait w
  | .fault _ t => (t.passErr unit pasid part addr 16).bind fun _ u => .ok none u
  | .ok x t =>
    let p := parsePass addr pasid part unit x
    if p.bad then (t.passErr unit pasid part addr 16).bind fun _ u => .ok none u
    else .ok (some p) (t.notePass pasid part addr)

/-- What is done for a pass, if its descriptor is good. -/
def State.withPass (s : State) (unit pasid part addr : Nat) (k : Pass → State → DRes Unit) : DRes Unit :=
  (s.passAt unit pasid part addr).bind fun p t => match p with
    | some q => k q t
    | none => .ok () t

/-- An engine's operation for a pass which ends with `fin`: a fault sets ERRS bit 4 (08 Table 8.1) and ends the whole operation, with its seal
or the rest of its scan (log entry 84). -/
def Pass.ended (p : Pass) (fin : State → State) (r : DRes Unit) : DRes Unit :=
  match r with
  | .fault _ t => (t.passErr p.unit p.pasid p.part p.addr 16).bind fun _ u => .ok () (fin u)
  | r => r

/-- The outcome of an engine's event for a pass: a bad descriptor only ends it. -/
def passRes (s : State) (unit pasid part addr : Nat) (fin : State → State) (k : Pass → State → DRes Unit) : DRes Unit :=
  (s.passAt unit pasid part addr).bind fun p t => match p with
    | some q => q.ended fin (k q t)
    | none => .ok () (fin t)

/-- The same as an event. -/
def passEv (s : State) (unit pasid part addr : Nat) (fin : State → State) (k : Pass → State → DRes Unit) : OutC :=
  devEv s (passRes s unit pasid part addr fin k)

/-- An engine's access for a pass: a fault sets ERRS bit 4 and ends the operation (08 Table 8.1). -/
def Pass.use {α : Type} (p : Pass) (r : DRes α) (k : α → State → DRes Unit) : DRes Unit :=
  match r with
  | .ok a s => k a s
  | .fault _ s => s.passErr p.unit p.pasid p.part p.addr 16
  | .wait w => .wait w

/-- An engine's read for a pass. -/
def Pass.read (p : Pass) (s : State) (va n : Nat) : DRes Nat := s.devRead p.unit p.pasid p.part va n

/-- An engine's write for a pass. -/
def Pass.write (p : Pass) (s : State) (va n v : Nat) : DRes Unit := s.devWrite p.unit p.pasid p.part va n v

/-! ### Tile status and pins -/

/-- STATE of a tile status word (08 Table 8.7). -/
def tsState (x : Nat) : Nat := x % 4
/-- REFS of a tile status word. -/
def tsRefs (x : Nat) : Nat := x / 2 ^ 32 % 2 ^ 32
/-- A tile status word with its STATE replaced. -/
def tsSet (x st : Nat) : Nat := x / 4 * 4 + st

/-- The slices of a tile's lines, one element for each line. -/
def State.pinSlices (s : State) (p : Pin) : List Nat :=
  p.keys.flatMap fun k => (List.range 32).map fun i => s.homeOf (k + 128 * i)

/-- Does a partition's shadow region hold swapped state (10 R279, R292): workgroups of its own, or what emptied cores held? -/
def State.holdsShadow (s : State) (n : Nat) : Bool :=
  s.swapped.has n || s.wgs.any fun e => (e.2.emptied.getD []).any fun x => x.1 / 32 == n

/-- The pinned lines that a slice admits (08 R235, 10 R279). -/
def State.sliceLimit (s : State) (slice : Nat) : Nat :=
  let lim := min s.dev.pinmax.toNat 12288
  if (List.range 8).any fun n => s.holdsShadow n && slice / 160 == n / 4 && slice % 160 / 40 == n % 4 && decide (slice % 40 < 20)
  then min lim 2048 else lim

/-- The slices that an opening tile would take beyond their limit. -/
def State.pinOver (s : State) (p : Pin) : List Nat :=
  let mine := s.pinSlices p
  mine.eraseDups.filter fun k =>
    decide ((mine.filter (· == k)).length + (s.pins.foldl (fun a q => a + ((s.pinSlices q).filter (· == k)).length) 0) >
      s.sliceLimit k)

/-- Is a pin that of a tile? -/
def Pin.isOf (p : Pin) (pass pasid tile : Nat) : Bool := p.pass == pass && p.pasid == pasid && p.tile == tile

/-- A tile unpinned. -/
def State.unpin (s : State) (pass pasid tile : Nat) : State :=
  { s with pins := s.pins.filter fun q => !(q.isOf pass pasid tile) }

/-- A tile changed: its pin is the most recently changed. -/
def State.touchPin (s : State) (pass pasid tile : Nat) : State :=
  { s with pins := (s.pins.filter fun q => q.isOf pass pasid tile) ++ s.pins.filter fun q => !(q.isOf pass pasid tile) }

/-- The pass of the bin that a gang was launched for. -/
def State.binPass (s : State) (g : Gang) : Option Nat :=
  (s.gridOf g).bind fun r => match r.kind with | .bin _ p _ => some p | _ => none

/-- Is a workgroup swapped or parked, so that the tiles of its gangs carry FAULTPIN? One that is only pre-empted is not (08 R236). -/
def Wg.faultHeld (w : Wg) : Bool :=
  match w.stat with
  | .away 1 => w.swapo || w.emptied.isSome
  | .away _ => true
  | .parked => true
  | _ => false

/-- Does a gang that is swapped, parked or stopped on an escalated page fault hold raster entries of a tile (08 R236)? The bit in memory
follows, by a notice when its word cannot be reached at once. -/
def State.faultHolds (s : State) (pass pasid tile : Nat) : Bool :=
  s.gangs.any fun e => (e.2.entryRefs.any fun r => r.2 == tile) && s.binPass e.2 == some pass &&
    s.pasidOf (.gang e.1 0) == pasid && (e.2.esc == 1 || (s.wgOf e.2).any Wg.faultHeld)

/-- A tile's status word. -/
def Pass.stat (p : Pass) (s : State) (t : Nat) : DRes Nat := p.read s (p.tstat + 8 * t) 8

/-- A tile's status word written; a RELEASED tile is unpinned (08 Table 8.8). -/
def Pass.setStat (p : Pass) (s : State) (t x : Nat) : DRes Unit :=
  (p.write s (p.tstat + 8 * t) 8 x).bind fun _ s1 =>
    .ok () (if tsState x = 0 then s1.unpin p.addr p.pasid t else s1.touchPin p.addr p.pasid t)

/-- The keys of a tile's pages. -/
def Pass.tileKeys (p : Pass) (s : State) (t : Nat) : List Nat :=
  (List.range 4).filterMap fun (i : Nat) =>
    match s.translate p.unit p.pasid p.part (p.tiles + 16384 * t + 4096 * i) .read false with
    | .ok r => some r.key
    | _ => none

/-- Entries of a tile's first open (08 Table 8.8): ID 0, DEPTH CLEAR, CFLAGS 0. -/
def clearTile (clear : Nat) : Nat → Nat
  | 0 => 0
  | n + 1 => clear * 2 ^ 64 + 2 ^ 128 * clearTile clear n

/-- What a raster request or merge finds at a tile. -/
inductive TileAt where
  | opened
  | shut
  | wait
deriving DecidableEq, Repr

/-- A raster request or merge reaches a tile (08 Table 8.8, R235): a RELEASED tile opens, pinned, unless its pins must
wait. -/
def Pass.openTile (p : Pass) (s : State) (t : Nat) : DRes TileAt :=
  (p.stat s t).bind fun x s1 =>
    if tsState x = 1 then .ok .opened s1
    else if tsState x ≠ 0 then .ok .shut s1
    else
      let pin : Pin := { pass := p.addr, pasid := p.pasid, part := p.part, tile := t, keys := p.tileKeys s1 t }
      let w := s1.pinWait.find? fun w => w.pin.isOf p.addr p.pasid t
      let full := !(s1.pinOver pin).isEmpty
      let free := w.any (·.free)
      if full && !free then
        .ok .wait (if w.isSome then s1 else { s1 with pinWait := s1.pinWait ++ [{ pin := pin, since := s.cycle, free := false }] })
      else
        let s2 := { s1 with
          pinWait := s1.pinWait.filter fun w => !(w.pin.isOf p.addr p.pasid t),
          pins := if full then s1.pins else pin :: s1.pins }
        let fill := if x.testBit 4 then DRes.ok () s2
          else p.write s2 (p.tiles + 16384 * t) 16384 (clearTile p.clear 1024)
        fill.bind fun _ s3 =>
          (p.setStat s3 t ((tsSet (x ||| 16) 1) &&& (2 ^ 64 - 1 - 64))).bind fun _ s4 => .ok .opened s4

/-! ### The merge -/

/-- vis_merge (08 R231) on an entry of 16 bytes: ID, DEPTH, CFLAGS. -/
def visMerge (greater : Bool) (d id fl e : Nat) : Nat :=
  let d := if d = 0x80000000 then 0 else d
  let i := e % 2 ^ 64
  let dd := e / 2 ^ 64 % 2 ^ 32
  let f := e / 2 ^ 96
  let key := fun (k : Nat) => if k = 0 then 2 ^ 64 else k
  match fp32.decode d with
  | .nan _ _ => e
  | v =>
    if id = 0 then e else
    let c := v.cmp (fp32.decode dd)
    let less := match c with | some k => if greater then decide (k > 0) else decide (k < 0) | none => false
    let eq := c == some 0
    if less || (eq && decide (id < key i)) then id + 2 ^ 64 * d + 2 ^ 96 * ((fl ||| 1) % 2 ^ 32)
    else if eq && id == i then i + 2 ^ 64 * dd + 2 ^ 96 * (f ||| fl) else e

/-- The address of a pixel's entry in a tile (08 R229). -/
def Pass.entryAt (p : Pass) (t px py : Nat) : Nat := p.tiles + 16384 * t + 16 * (32 * py + px)

/-- The tile of a screen pixel. -/
def Pass.tileOfPixel (p : Pass) (x y : Nat) : Nat := y / 32 * p.tw + x / 32

/-- A merge applied at its entry's home (08 R231-R234): dropped at a SEALED or SHADING tile. The answer says that it
need not wait. -/
def Pass.mergeAt (p : Pass) (s : State) (x y d id fl : Nat) : DRes Bool :=
  let t := p.tileOfPixel x y
  (p.openTile s t).bind fun r s1 =>
    match r with
    | .wait => .ok false s1
    | .shut => (s1.passErr p.unit p.pasid p.part p.addr 2).bind fun _ s2 => .ok true s2
    | .opened =>
      let va := p.entryAt t (x % 32) (y % 32)
      (p.read s1 va 16).bind fun e s2 =>
        (p.write s2 va 16 (visMerge (p.pflags.testBit 0) d id fl e)).bind fun _ s3 => .ok true s3

/-! ### Rasterising -/

/-- A triangle record: three vertex words and the ID (08 R222). -/
abbrev TriRec := List Nat

/-- A vertex's x, y and z (08 Table 8.4). -/
def vtx (w : Nat) : Int × Int × Nat := (sextNat w 24, sextNat (w / 2 ^ 24) 24, natBits w 63 48)

/-- The edge value from one vertex to another at a point (08 R226). -/
def edgeAt (i j : Int × Int × Nat) (px py : Int) : Int :=
  (j.1 - i.1) * (py - i.2.1) - (j.2.1 - i.2.1) * (px - i.1)

/-- Is the edge from i to j a top-left one? -/
def topLeft (i j : Int × Int × Nat) : Bool :=
  decide (j.2.1 - i.2.1 < 0) || (decide (j.2.1 - i.2.1 = 0) && decide (j.1 - i.1 > 0))

/-- Coverage and depth of a pixel under a record (08 R226, R227): the depth and whether it faces away. -/
def coverAt (r : TriRec) (x y : Nat) : Option (Nat × Bool) :=
  let v0 := vtx (r.getD 0 0)
  let v1 := vtx (r.getD 1 0)
  let v2 := vtx (r.getD 2 0)
  let a := (v1.1 - v0.1) * (v2.2.1 - v0.2.1) - (v2.1 - v0.1) * (v1.2.1 - v0.2.1)
  if a = 0 then none else
  let back := decide (a < 0)
  let w1 := if back then v2 else v1
  let w2 := if back then v1 else v2
  let px : Int := 256 * x + 128
  let py : Int := 256 * y + 128
  let e0 := edgeAt w1 w2 px py
  let e1 := edgeAt w2 v0 px py
  let e2 := edgeAt v0 w1 px py
  let inE := fun (e : Int) (i j : Int × Int × Nat) => decide (e > 0) || (decide (e = 0) && topLeft i j)
  if inE e0 w1 w2 && inE e1 w2 v0 && inE e2 v0 w1 then
    let num := e0.toNat * v0.2.2 + e1.toNat * w1.2.2 + e2.toNat * w2.2.2
    let den := 65535 * (e0 + e1 + e2).toNat
    some ((fp32.convert 0 false (.fin false num den)).1, back)
  else none

/-- A record's merges into the entries of a tile, given as one number. -/
def rasterRec (p : Pass) (t : Nat) (r : TriRec) (x : Nat) : Nat :=
  (List.range 1024).foldr (fun (k : Nat) (acc : Nat) =>
    let e := x / 2 ^ (128 * k) % 2 ^ 128
    let e' := match coverAt r (t % p.tw * 32 + k % 32) (t / p.tw * 32 + k / 32) with
      | some (d, b) => visMerge (p.pflags.testBit 0) d (r.getD 3 0) (if b then 2 else 0) e
      | none => e
    e' + 2 ^ 128 * acc) 0

/-- The list walk of a tile (08 R223): unit indexes of the records met, and whether it stopped at an error. -/
def walkList (p : Pass) (uoff top : Nat) : Nat → Nat → State → DRes (List Nat × Bool)
  | 0, _, s => .ok ([], false) s
  | fuel + 1, e, s =>
    if e = 0xFFFFFFFF then .ok ([], false) s
    else if e + 1 > top then .ok ([], true) s
    else
      (p.read s (uoff + 8 * e) 8).bind fun w s1 =>
        let r := w % 2 ^ 32
        if r + 4 > top then .ok ([], true) s1
        else (walkList p uoff top fuel (w / 2 ^ 32) s1).bind fun l s2 => .ok (r :: l.1, l.2) s2

/-- A number put into a rising list. -/
def insertSorted (x : Nat) : List Nat → List Nat
  | [] => [x]
  | y :: t => if x ≤ y then x :: y :: t else y :: insertSorted x t

/-- Records read from their unit indexes. -/
def readRecs (p : Pass) (uoff : Nat) : List Nat → State → DRes (List TriRec)
  | [], s => .ok [] s
  | u :: t, s =>
    (p.read s (uoff + 8 * u) 32).bind fun x s1 =>
      (readRecs p uoff t s1).bind fun l s2 =>
        .ok (((List.range 4).map fun i => x / 2 ^ (64 * i) % 2 ^ 64) :: l) s2

/-- The address of the units of parameter memory (08 Table 8.3). -/
def Pass.units (p : Pass) : Nat := p.param + alignUp (64 + 4 * p.count) 64

/-- A tile's list rasterised (08 R225): the answer says that the tile did not have to wait. A request that reaches a SEALED or SHADING tile
sets ERRS bit 1 and changes nothing (Table 8.8). -/
def Pass.rasterTile (p : Pass) (s : State) (t : Nat) : DRes Bool :=
  (p.openTile s t).bind fun o s1 =>
    if o = .wait then .ok false s1 else
    (p.read s1 p.param 8).bind fun tc s2 =>
      (p.read s2 (p.param + 64 + 4 * t) 4).bind fun h s3 =>
        (walkList p p.units (tc % 2 ^ 32) (tc / 2 ^ 32) h s3).bind fun l s4 =>
          (if l.2 then s4.passErr p.unit p.pasid p.part p.addr 1 else .ok () s4).bind fun _ s5 =>
            (readRecs p p.units (l.1.foldr insertSorted []) s5).bind fun recs s6 =>
              if o = .shut then (s6.passErr p.unit p.pasid p.part p.addr 2).bind fun _ s7 => .ok true s7
              else
                (p.read s6 (p.tiles + 16384 * t) 16384).bind fun x s7 =>
                  let y := recs.foldl (fun x r => rasterRec p t r x) x
                  (if y = x then .ok () s7 else p.write s7 (p.tiles + 16384 * t) 16384 y).bind fun _ s8 => .ok true s8

/-- The requests of a cluster's rasteriser, its seals and its scans. -/
def State.rastOf (s : State) (c : Nat) : List RastReq := Tab.get [] s.rast c
def State.sealsOf (s : State) (c : Nat) : List RastReq := Tab.get [] s.seals c
def State.scansOf (s : State) (c : Nat) : List RastReq := Tab.get [] s.scans c

/-- Every raster request that is not finished. -/
def State.allRast (s : State) : List RastReq := (s.rast.flatMap (·.2)) ++ s.seals.flatMap (·.2)

/-- Does an earlier request for the same tile stand before one (08 R225)? -/
def State.rastBefore (s : State) (r : RastReq) : Bool :=
  s.allRast.any fun q => decide (q.id < r.id) && q.pass == r.pass && q.pasid == r.pasid &&
    (q.flush || r.flush || q.tile == r.tile)

/-- The unit that serves a cluster's engines. -/
def clusterUnit (c : Nat) : Nat := 256 + c

/-- The head request of a rasteriser that may be processed: its releases applied, its tile's turn come. -/
def State.rastHead (s : State) (c : Nat) (flush : Bool) : Option RastReq :=
  match s.rastOf c with
  | r :: _ => if r.flush == flush && r.cons.all s.applied && !(s.rastBefore r) then some r else none
  | [] => none

/-- The head request of a rasteriser leaves it. -/
def State.rastPop (s : State) (c : Nat) : State :=
  ({ s with rast := Tab.set [] s.rast c (s.rastOf c).tail }).kilnDrop c kilnRaster

/-- The outcome of a rasteriser's event; one that waits for a page holds its grant idle, as one that waits for its tile's pins does (07 R217). -/
def rastEv (s : State) (c : Nat) (r : DRes Unit) : OutC :=
  match r with
  | .wait w => runEv s ((s.askAts w).kilnStall c kilnRaster true)
  | _ => devEv s r

/-- RASTER_REQUEST (08 R224-R227): a SEAL request goes on to seal its tile. -/
def execRasterRequest (cluster : Nat) (s : State) : OutC :=
  match s.rastHead cluster false with
  | none => runEv s s
  | some r =>
    if !(s.kilnHas cluster kilnRaster) then runEv s (s.kilnAsk cluster kilnRaster 2) else
    let done := fun (t : State) =>
      let u := t.rastPop cluster
      if r.sealIt then { u with seals := Tab.set [] u.seals cluster (u.sealsOf cluster ++ [r]) } else u
    rastEv s cluster (passRes s (clusterUnit cluster) r.pasid r.part r.pass (fun t => t.rastPop cluster) fun p t =>
      if r.tile ≥ p.count then
        (t.passErr p.unit p.pasid p.part p.addr 1).bind fun _ u => .ok () (u.rastPop cluster)
      else (p.rasterTile t r.tile).bind fun ok u => .ok () (if ok then done u else u.kilnStall cluster kilnRaster true))

/-- Are merges into a tile of a pass still on their way (08 R225 step 4)? -/
def State.mergesPending (s : State) (p : Pass) (t : Nat) : Bool :=
  s.flights.any fun e => e.2.pasid == p.pasid && e.2.accs.any fun a => !a.done &&
    match a.op with
    | .merge pass _ px _ _ _ => pass == p.addr && p.tileOfPixel (px % 65536) (px / 65536) == t
    | _ => false

/-- TILE_SEAL (08 R225 step 4): a tile still OPEN becomes SEALED and joins the cluster's scans. -/
def execTileSeal (cluster : Nat) (s : State) : OutC :=
  match s.sealsOf cluster with
  | [] => runEv s s
  | r :: rest =>
    let fin := fun (t : State) => { t with seals := Tab.set [] t.seals cluster rest }
    passEv s (clusterUnit cluster) r.pasid r.part r.pass fin fun p t =>
      if s.mergesPending p r.tile then .ok () t
      else
        (p.stat t r.tile).bind fun x t1 =>
          if tsState x ≠ 1 then .ok () (fin t1)
          else (p.setStat t1 r.tile (tsSet x 2)).bind fun _ t2 =>
            let u := fin t2
            .ok () { u with scans := Tab.set [] u.scans cluster (u.scansOf cluster ++ [{ r with cur := 0 }]) }

/-- The tiles of a flush, rasterised one after the other (08 R228 steps 1-3): false when one has to wait. -/
def flushTiles (p : Pass) : List Nat → State → DRes Bool
  | [], s => .ok true s
  | t :: rest, s =>
    (p.read s (p.param + 64 + 4 * t) 4).bind fun h s1 =>
      if h = 0xFFFFFFFF then flushTiles p rest s1
      else (p.rasterTile s1 t).bind fun ok s2 => if ok then flushTiles p rest s2 else .ok false s2

/-- RFLUSH_PROCESS (08 R228). -/
def execRflushProcess (cluster : Nat) (s : State) : OutC :=
  match s.rastHead cluster true with
  | none => runEv s s
  | some r =>
    if !(s.kilnHas cluster kilnRaster) then runEv s (s.kilnAsk cluster kilnRaster 2) else
    rastEv s cluster (passRes s (clusterUnit cluster) r.pasid r.part r.pass (fun t => t.rastPop cluster) fun p t =>
      (flushTiles p (List.range p.count) t).bind fun ok u =>
        if !ok then .ok () (u.kilnStall cluster kilnRaster true)
        else
          (p.write u (p.param + 64) (4 * p.count) (2 ^ (32 * p.count) - 1)).bind fun _ u1 =>
            (p.write u1 p.param 4 0).bind fun _ u2 =>
              (u2.devUpdate p.unit p.pasid p.part (p.param + 8) 4 (· + 1)).bind fun _ u3 => .ok () (u3.rastPop cluster))

/-- The statuses of the pinned tiles of a slice that may be unpinned (08 R235), least recently changed first: those in a
state. -/
def State.spillFor (s : State) (slice st : Nat) : Option Pin :=
  s.pins.reverse.find? fun q => (s.pinSlices q).contains slice &&
    match s.devRead (256 + 4 * q.part) q.pasid q.part q.pass 128 with
    | .ok x _ =>
      (match s.devRead (256 + 4 * q.part) q.pasid q.part (x / 2 ^ 256 % 2 ^ 64 + 8 * q.tile) 8 with
        | .ok w _ => tsState w == st && !(w.testBit 5) && !(s.faultHolds q.pass q.pasid q.tile)
        | _ => false)
    | _ => false

/-- A pinned tile's status word written with SPILLED, and the tile unpinned (08 R235), unless FAULTPIN holds it. When the word cannot be
reached ERRS bit 4 is set (08 Table 8.1) and the tile only loses its pin, which changes timing alone. -/
def State.spillPin (s : State) (q : Pin) : DRes Unit :=
  let unit := 256 + 4 * q.part
  let r := (s.devRead unit q.pasid q.part q.pass 128).bind fun x t =>
    let va := x / 2 ^ 256 % 2 ^ 64 + 8 * q.tile
    (t.devRead unit q.pasid q.part va 8).bind fun w u =>
      if w.testBit 5 || u.faultHolds q.pass q.pasid q.tile then .ok () u
      else (u.devWrite unit q.pasid q.part va 8 (w ||| 64)).bind fun _ v => .ok () (v.unpin q.pass q.pasid q.tile)
  match r with
  | .fault _ t => (t.passErr unit q.pasid q.part q.pass 16).bind fun _ u => .ok () (u.unpin q.pass q.pasid q.tile)
  | r => r

/-- A notice of the device's own for a tile of a PASID's pass, applied by a later HOME_APPLY (log entry 7). -/
def State.tileNotice (s : State) (pasid : Nat) (op : HomeOp) : State :=
  let id := s.nextId
  let t := s.devFlight farAgent .dev op
  { t with flights := t.flights.upd (fun (f : Flight) => { f with pasid := pasid, core := devUnit }) id }

/-- PIN_SPILL_TIMEOUT (08 R235): after 4,096 cycles of waiting the home unpins one tile, or lets the new one open
unpinned. -/
def execPinSpillTimeout (slice : Nat) (s : State) : OutC :=
  match s.pinWait.find? fun w => !w.free && decide (s.cycle ≥ w.since + 4096) && (s.pinOver w.pin).contains slice with
  | none => runEv s s
  | some w =>
    match (match s.spillFor slice 3 with | some q => some q | none => s.spillFor slice 2) with
    | none => runEv s { s with pinWait := s.pinWait.map fun x => if x.pin = w.pin then { x with free := true } else x }
    | some q => devEv s (s.spillPin q)

/-! ### Bins -/

/-- A bin descriptor (08 Table 8.9). -/
structure BinDesc where
  khdr : Nat
  ring : Nat
  rlog2 : Nat
  prio : Nat
  width : Nat
  bflags : Nat
  arg : Nat
deriving DecidableEq, Repr

/-- A bin descriptor's fields; RLOG2 is used as it stands and reserved bytes are ignored, whatever they hold (08 R238; DESIGN CHOICE:
log entry 85). -/
def parseBin (x : Nat) : BinDesc :=
  let f := fun (off n : Nat) => x / 256 ^ off % 256 ^ n
  { khdr := f 0 8, ring := f 8 8, rlog2 := f 16 1, prio := f 17 1, width := f 18 2, bflags := f 20 1, arg := f 24 8 }

/-- A bin's descriptor read. -/
def Pass.bin (p : Pass) (s : State) (b : Nat) : DRes BinDesc := (p.read s (p.bins + 32 * b) 32).bind fun x t => .ok (parseBin x) t

/-- The state of a bin's ring on a cluster. -/
def State.binSt (s : State) (cluster : Nat) (p : Pass) (b : Nat) : BinSt :=
  (s.bins.find? fun x => x.cluster == cluster && x.pass == p.addr && x.pasid == p.pasid && x.bin == b).getD
    { cluster := cluster, pass := p.addr, bin := b, pasid := p.pasid, part := p.part, appended := 0, launched := 0, last := 0 }

/-- The state of a ring replaced. -/
def State.putBin (s : State) (x : BinSt) : State :=
  { s with bins := x :: s.bins.filter fun y =>
      !(y.cluster == x.cluster && y.pass == x.pass && y.pasid == x.pasid && y.bin == x.bin) }

/-- Entries of a ring from index `i` on, `n` of them. -/
def ringRead (p : Pass) (d : BinDesc) (cluster : Nat) : Nat → Nat → State → DRes (List Nat)
  | _, 0, s => .ok [] s
  | i, n + 1, s =>
    (p.read s (d.ring + 8 * 2 ^ d.rlog2 * cluster + 8 * (i % 2 ^ d.rlog2)) 8).bind fun x t =>
      (ringRead p d cluster (i + 1) n t).bind fun l u => .ok (x :: l) u

/-- The longest prefix of entries that fits in a number of lanes. -/
def binPrefix (width : Nat) : Nat → List Nat → List Nat
  | _, [] => []
  | used, x :: t =>
    let n := if isRay x then 1 else 4
    if used + n ≤ width then x :: binPrefix width (used + n) t else []

/-- The lanes that entries take. -/
def entryLanes (l : List Nat) : Nat := l.foldl (fun a x => a + if isRay x then 1 else 4) 0

/-- A raster entry's pixel, the first of its quad, as x + 65536·y. -/
def entryPixel (p : Pass) (x : Nat) : Nat :=
  let t := natBits x 31 12
  let q := natBits x 11 4
  (t % p.tw * 32 + 2 * (q % 16)) + 65536 * (t / p.tw * 32 + 2 * (q / 16))

/-- References on a tile fall (08 R236, R239): at 0 in SHADING it is released, unless FAULTPIN holds it. -/
def Pass.dropRefs (p : Pass) (s : State) (t n : Nat) : DRes Unit :=
  (p.stat s t).bind fun x s1 =>
    let r := tsRefs x - n
    let y := x % 2 ^ 32 + 2 ^ 32 * r
    p.setStat s1 t (if r = 0 ∧ tsState x = 3 ∧ !(x.testBit 5) ∧ !(s.faultHolds p.addr p.pasid t) then tsSet y 0 else y)

/-- The references of raster entries fall. -/
def dropEntries (p : Pass) : List Nat → State → DRes Unit
  | [], s => .ok () s
  | x :: t, s => if isRay x then dropEntries p t s else (p.dropRefs s (natBits x 31 12) 1).bind fun _ u => dropEntries p t u

/-- A material gang launched for a prefix of a bin's entries (08 R239); a rejected launch is reported and its entries
release their references. -/
def Pass.launchBin (p : Pass) (s : State) (cluster b : Nat) (d : BinDesc) (ents : List Nat) : DRes Unit :=
  let st := s.binSt cluster p b
  let s := s.putBin { st with launched := st.launched + ents.length }
  let part := partOfCluster cluster
  let lr : Launch := { addr := 0, tag := 0, khdr := d.khdr, gx := 1, gy := 1, gz := 1, gangs := 1, width := d.width,
                       prio := d.prio, lflags := d.bflags % 4, part := part, dcId := 0, cflags := 0, arg := d.arg,
                       cohort := 0, nmAddr := 0, nmAddend := 0, chipset := 0, gen := 0, graph := 0 }
  let fail := fun (t : State) (code : Nat) =>
    (dropEntries p ents t).bind fun _ u => .ok () (u.devErr part 0 code 0 noLinear)
  if d.khdr % 256 ≠ 0 ∨ d.khdr ≥ 2 ^ 57 ∨ d.prio > 15 ∨ d.bflags ≥ 4 then fail s 1
  else if d.width = 0 ∨ d.width % 8 ≠ 0 ∨ d.width > 1024 then fail s 3
  else if d.prio > 14 then fail s 5
  else if !((s.part part).pen.getLsbD 0) then fail s 6
  else
    (s.readKhdr p.pasid part d.khdr).bind fun h t =>
      if h.1 ≠ 0 then fail t h.1
      else if (needOf lr h.2).tooMuch then fail t 4
      else
        .ok () (t.addGrid lr h.2 (.bin cluster p.addr b) p.pasid 0 1 [] 0 (entryLanes ents)
          (ents.map fun x => x + 2 ^ 64 * entryPixel p x))

/-- The unlaunched entries of a bin, and a launch when they fill WIDTH lanes, or in any case with `all_`. -/
def Pass.tryLaunch (p : Pass) (s : State) (cluster b : Nat) (d : BinDesc) (all_ : Bool) : DRes Unit :=
  let st := s.binSt cluster p b
  (ringRead p d cluster st.launched (st.appended - st.launched) s).bind fun l t =>
    if l.isEmpty then .ok () t
    else if entryLanes l ≥ d.width || all_ then
      let pre := binPrefix d.width 0 l
      p.launchBin t cluster b d (if pre.isEmpty then l.take 1 else pre)
    else .ok () t

/-- An entry appended to a bin's ring (08 R238, R239); false when the ring is full. -/
def Pass.append (p : Pass) (s : State) (cluster b x : Nat) : DRes Bool :=
  (p.bin s b).bind fun d t =>
    let st := t.binSt cluster p b
    if st.appended - st.launched ≥ 2 ^ d.rlog2 then .ok false t
    else
      (p.write t (d.ring + 8 * 2 ^ d.rlog2 * cluster + 8 * (st.appended % 2 ^ d.rlog2)) 8 x).bind fun _ u =>
        let u := u.putBin { st with appended := st.appended + 1, last := u.cycle }
        (p.tryLaunch u cluster b d false).bind fun _ v => .ok true v

/-- The bin of a material on a cluster (08 R237): 0xFFFF drops, 4,096 and above is an error. -/
def Pass.binOf (p : Pass) (s : State) (cluster inst : Nat) : DRes Nat :=
  let map := fun (t : State) =>
    (p.read t (p.inst + 64 * inst + 61) 3).bind fun m u => p.read u (p.matmap + 2 * (m % 2 ^ 20)) 2
  if p.ovr = 0 then map s
  else (p.read s (p.ovr + 4 * cluster) 4).bind fun w t => if w.testBit 31 then .ok (w % 4096) t else map t

/-- The bin of a pixel's material in a scan: a faulting read drops the pixel and sets ERRS bit 4 (08 Table 8.1). -/
def Pass.scanBin (p : Pass) (s : State) (cluster inst : Nat) : DRes Nat :=
  match p.binOf s cluster inst with
  | .fault _ t => (t.passErr p.unit p.pasid p.part p.addr 16).bind fun _ u => .ok 0xFFFF u
  | r => r

/-- The bins of a quad's pixels: for each shaded pixel j its bin; and whether a bin number was out of range. -/
def quadBins (p : Pass) (cluster tile : Nat) (tileBits q : Nat) : List Nat → State → DRes (List (Nat × Nat) × Bool)
  | [], s => .ok ([], false) s
  | j :: rest, s =>
    let k := 32 * (2 * (q / 16) + j / 2) + 2 * (q % 16) + j % 2
    let e := tileBits / 2 ^ (128 * k) % 2 ^ 128
    if (e / 2 ^ 96) % 2 = 0 ∨ e % 2 ^ 64 = 0 then quadBins p cluster tile tileBits q rest s
    else
      (p.scanBin s cluster (natBits e 63 36)).bind fun b t =>
        (quadBins p cluster tile tileBits q rest t).bind fun l u =>
          if b = 0xFFFF then .ok l u
          else if b ≥ 4096 then .ok (l.1, true) u
          else .ok ((b, j) :: l.1, l.2) u

/-- The entries that a scan appends (08 R237), in order: bin and entry; and whether a bin number was out of range. -/
def scanEntries (p : Pass) (cluster tile tileBits : Nat) : List Nat → State → DRes (List (Nat × Nat) × Bool)
  | [], s => .ok ([], false) s
  | q :: rest, s =>
    (quadBins p cluster tile tileBits q (List.range 4) s).bind fun b t =>
      let bins := (b.1.map (·.1)).foldr insertSorted [] |>.eraseDups
      let es := bins.map fun n =>
        (n, (b.1.filter fun e => e.1 == n).foldl (fun a e => a + 2 ^ e.2) 0 + 16 * q + 2 ^ 12 * tile)
      (scanEntries p cluster tile tileBits rest t).bind fun l u => .ok (es ++ l.1, b.2 || l.2) u

/-- Entries appended one after the other, each adding a reference (08 R237); the number appended, the last answer being
whether none had to wait. -/
def appendAll (p : Pass) (cluster tile : Nat) : List (Nat × Nat) → State → DRes (Nat × Bool)
  | [], s => .ok (0, true) s
  | e :: rest, s =>
    (p.stat s tile).bind fun x s1 =>
      (p.setStat s1 tile (x + 2 ^ 32)).bind fun _ s2 =>
        (p.append s2 cluster e.1 e.2).bind fun ok s3 =>
          if !ok then (p.setStat s3 tile x).bind fun _ s4 => .ok (0, false) s4
          else (appendAll p cluster tile rest s3).bind fun r s4 => .ok (r.1 + 1, r.2) s4

/-- CLASSIFY_SCAN (08 R237): the oldest sealed tile of a cluster is scanned; a full ring stops the scan until there is
room. A tile whose entries cannot be read stays SEALED, its scan given up (log entry 84). -/
def execClassifyScan (cluster : Nat) (s : State) : OutC :=
  match s.scansOf cluster with
  | [] => runEv s s
  | r :: rest =>
    let fin := fun (t : State) => { t with scans := Tab.set [] t.scans cluster rest }
    passEv s (clusterUnit cluster) r.pasid r.part r.pass fin fun p s0 =>
      (p.read s0 (p.tiles + 16384 * r.tile) 16384).bind fun bits s1 =>
        (scanEntries p cluster r.tile bits (List.range 256) s1).bind fun es s2 =>
          (if es.2 then s2.passErr p.unit p.pasid p.part p.addr 4 else .ok () s2).bind fun _ s3 =>
            (appendAll p cluster r.tile (es.1.drop r.cur) s3).bind fun n s4 =>
              if !n.2 then
                .ok () { s4 with scans := Tab.set [] s4.scans cluster ({ r with cur := r.cur + n.1 } :: rest) }
              else
                (p.stat s4 r.tile).bind fun w s5 =>
                  (p.setStat s5 r.tile (tsSet w (if tsRefs w = 0 then 0 else 3))).bind fun _ s6 => .ok () (fin s6)

/-- An event on a bin of a pass. -/
def State.binEv (s : State) (x : BinSt) (f : Pass → BinDesc → State → DRes Unit) : DRes Unit :=
  s.withPass (clusterUnit x.cluster) x.pasid x.part x.pass fun p t => p.use (p.bin t x.bin) fun d u => f p d u

/-- BIN_TIMEOUT (08 R239): 4,096 cycles after the last append, what the ring holds is launched. -/
def execBinTimeout (cluster pass bin : Nat) (s : State) : OutC :=
  match s.bins.find? fun x => x.cluster == cluster && x.pass == pass && x.bin == bin && decide (x.launched < x.appended) with
  | none => runEv s s
  | some x =>
    if s.cycle < x.last + 4096 then runEv s s
    else devEv s (s.binEv x fun p d t => p.use (p.tryLaunch t cluster bin d true) fun _ u => .ok () u)

/-- Every bin of a pass that holds entries is launched. -/
def closeBins : List BinSt → State → DRes Unit
  | [], s => .ok () s
  | x :: rest, s =>
    (if x.launched < x.appended then s.binEv x fun p d t => p.use (p.tryLaunch t x.cluster x.bin d true) fun _ u => .ok () u
     else .ok () s).bind fun _ t => closeBins rest t

/-- Has a pass scans, seals or rays still to be worked off? -/
def State.passBusy (s : State) (p : PassSt) : Bool :=
  (s.scans.flatMap (·.2)).any (fun r => r.pass == p.addr && r.pasid == p.pasid) ||
    s.rays.any fun e => match s.flights.find? e.2.fl with
      | some f => f.pasid == p.pasid && f.sw.getD 1 0 == p.addr
      | none => false

/-- PASS_CLOSE (08 R241): CLOSE reads as 1, the scans and deliveries are over, and every bin with entries is launched.
`pass` is the place of the pass among those the device knows. -/
def execPassClose (pass : Nat) (s : State) : OutC :=
  match s.passes[pass]? with
  | none => runEv s s
  | some q =>
    if s.passBusy q then runEv s s
    else
      devEv s (s.withPass (256 + 4 * q.part) q.pasid q.part q.addr fun p t =>
        if p.close ≠ 1 then .ok () t
        else
          (closeBins (t.bins.filter fun x => x.pass == q.addr && x.pasid == q.pasid) t).bind fun _ u =>
            .ok () { u with passes := u.passes.map fun y => if y.addr = q.addr ∧ y.pasid = q.pasid then { y with closing := true } else y })

/-- Is a tile of a pass SEALED or SHADING, from the `n` tiles below? -/
def anyShading (p : Pass) : Nat → State → DRes Bool
  | 0, s => .ok false s
  | n + 1, s => (p.stat s n).bind fun x t => if tsState x ≥ 2 then .ok true t else anyShading p n t

/-- PASS_DONE (08 R241): every ring empty, every material gang gone, no tile SEALED or SHADING. -/
def execPassDone (pass : Nat) (s : State) : OutC :=
  match s.passes[pass]? with
  | none => runEv s s
  | some q =>
    let rings := s.bins.any fun x => x.pass == q.addr && x.pasid == q.pasid && decide (x.launched < x.appended)
    let gangs := s.grids.any fun g => g.2.pasid == q.pasid && match g.2.kind with | .bin _ a _ => a == q.addr | _ => false
    if !q.closing || rings || gangs || s.passBusy q then runEv s s
    else
      devEv s (s.withPass (256 + 4 * q.part) q.pasid q.part q.addr fun p t =>
        p.use (anyShading p p.count t) fun sh u =>
          if sh then .ok () u
          else
            let gone := fun (v : State) =>
              { v with passes := v.passes.filter (fun y => !(y.addr == q.addr && y.pasid == q.pasid)),
                       bins := v.bins.filter fun x => !(x.pass == q.addr && x.pasid == q.pasid) }
            match p.write u (p.addr + 120) 4 1 with
            | .ok _ v => .ok () (gone v)
            | .fault _ v => .ok () (gone (v.devErr p.part p.addr 36 0 noLinear))
            | .wait w => .wait w)

/-! ### References of material gangs -/

/-- The tiles whose entries end when lanes leave a gang (08 R240): one for each entry none of whose lanes is left. -/
def Gang.endedEntries (g : Gang) (lanes : LaneMask) : List Nat :=
  let left := g.entryRefs.filter fun e => !(lanes.getLsbD e.1)
  let quads := (g.entryRefs.map fun e => (e.1 / 4, e.2)).eraseDups
  (quads.filter fun q => !(left.any fun e => e.1 / 4 == q.1)).map (·.2)

/-- The lanes give up their entries' references. -/
def Gang.dropEntries (g : Gang) (lanes : LaneMask) : Gang := { g with entryRefs := g.entryRefs.filter fun e => !(lanes.getLsbD e.1) }

/-- FAULTPIN of a tile brought to what the gangs that hold its entries make it (08 R236): a tile in SHADING that it no longer holds, and
whose references are all gone, is released. -/
def Pass.pinBit (p : Pass) (s : State) (tile : Nat) : DRes Unit :=
  (p.stat s tile).bind fun w t =>
    let w' := if t.faultHolds p.addr p.pasid tile then w ||| 32 else w &&& (2 ^ 64 - 1 - 32)
    p.setStat t tile (if !(w'.testBit 5) ∧ tsState w' = 3 ∧ tsRefs w' = 0 then tsSet w' 0 else w')

/-- The same for a tile of a pass at an address. -/
def State.pinBit (s : State) (pasid part pass tile : Nat) : DRes Unit :=
  passRes s devUnit pasid part pass id fun p t => p.pinBit t tile

/-- FAULTPIN of the tiles that a gang's lanes hold, after the gang has stopped or resumed (08 R236): at once, or by a notice where the word
cannot be reached yet. -/
def State.faultPin (s : State) (gid : Nat) : State :=
  match s.gang? gid with
  | none => s
  | some g =>
    match s.binPass g with
    | none => s
    | some pass =>
      let pasid := s.pasidOf (.gang gid 0)
      let part := s.partOf (.gang gid 0)
      (g.entryRefs.map (·.2)).eraseDups.foldl (fun (t : State) tile =>
        match t.pinBit pasid part pass tile with
        | .ok _ u => u
        | .fault _ u => u
        | .wait w => (t.askAts w).tileNotice pasid (.pinBit pass part tile)) s

/-! ### RASTQ, RFLUSH, VBWR, TLREL -/

/-- The pass address of a gang (08 R220). -/
def Gang.passAddr (g : Gang) : Nat := g.vplo.toNat + 2 ^ 32 * g.vphi.toNat

/-- A request put into the intake of the cluster's rasteriser (08 R224, R228). -/
def rastOp (i : Instr) (o : Opw) (tile : Nat) (sealIt flush : Bool) (s : State) (is : Issue) : State :=
  match is.ag with
  | .ctx _ => s
  | .gang gid _ =>
    match s.gang? gid with
    | none => s
    | some g =>
      let c := clusterOf g.core
      if g.passAddr = 0 then s.causeAt is o cPROT
      else if s.counterFull is.ag 6 then s.blockRetry is.ag .inflight
      else if (s.rastOf c).length ≥ 64 then s.blockRetry is.ag .rastq
      else
        let r : RastReq := { id := s.nextId, pass := g.passAddr, tile := tile, sealIt := sealIt, flush := flush,
                             pasid := s.pasidOf is.ag, part := s.partOf is.ag, cur := 0, cons := s.allEarlier is.ag }
        quickFlight i { s with rast := Tab.set [] s.rast c (s.rastOf c ++ [r]), nextId := s.nextId + 1 } is 6 none 0

/-- RASTQ (14 R432, R433). -/
def execRastq (o : Opw) (s : State) : OutC :=
  onceOp (.rastq o) o s fun s is =>
    rastOp (.rastq o) o (uniVal s is o (shape false (.rastq o)).a o.a 1) (o.sub == 1) false s is

/-- RFLUSH (14 R432, R433). -/
def execRflush (o : Opw) (s : State) : OutC := onceOp (.rflush o) o s (rastOp (.rflush o) o 0 false true)

/-- The accesses of a VBWR lane (08 R232): the tile's status word and the pixel's entry; PROT outside the pass's tiles. -/
def vbwrReqs (p : Pass) (x y lane reason : Nat) : List AReq :=
  if x ≥ 32 * p.tw ∨ y ≥ 32 * p.th then [protReq lane .rmw reason]
  else
    let t := p.tileOfPixel x y
    [{ lane := lane, va := p.tstat + 8 * t, size := 8, acc := .rmw }, { lane := lane, va := p.entryAt t (x % 32) (y % 32), size := 16, acc := .rmw, slot := 1 }]

/-- VBWR's effect (15 R469, 08 R232). -/
def vbwrEffect (o : Opw) (s : State) (is : Issue) : State :=
  let sh := shape false (.vbwr o)
  let gm := guardMask s is o
  let pp := takePops s is sh o
  match is.ag with
  | .ctx _ => s
  | .gang gid _ =>
    match s.gang? gid with
    | none => s
    | some g =>
      if gm = 0 then pp.2
      else if g.passAddr = 0 then s.causeAt is o cPROT
      else if s.counterFull is.ag 6 then s.blockRetry is.ag .inflight
      else
        let lanes := s.lanesAg is.ag (actLanes s is o)
        let px := fun l => srcVal s is o sh.a o.a .raw 1 pp.1.1 l % 2 ^ 32
        match s.devRead (s.unitOf is.ag) (s.pasidOf is.ag) (s.partOf is.ag) g.passAddr 128 with
        | .wait w => s.waitAts is.ag (w.map (·.2)).toList
        | r =>
          let p := match r with
            | .ok x _ => parsePass g.passAddr (s.pasidOf is.ag) (s.partOf is.ag) (s.unitOf is.ag) x
            | _ => { parsePass 1 0 0 0 0 with bad := true }
          if p.bad then
            pp.2.issueFlight { newFlight pp.2 is (.vbwr o) 6 with wr := true, accs := [devAcc (.errs g.passAddr (s.partOf is.ag) 16)] }
          else
            let fl := if o.sub = 1 then 6 else 4
            let reqs := lanes.flatMap fun l => vbwrReqs p (px l % 65536) (px l / 65536) l (Config.freeNat s.fresh 3 % 8)
            memAccess s is 6 0 noReg reqs (fun t done =>
              let m := performed lanes reqs done
              t.issueFlight { newFlight t is (.vbwr o) 6 with
                wr := true, mask := m,
                accs := (lanes.filter fun l => m.getLsbD l).map fun l =>
                  { devAcc (.merge g.passAddr (s.partOf is.ag) (px l) (BitVec.ofNat 32 (srcVal s is o sh.b o.b .raw 2 pp.1.2.1 l))
                      (srcVal s is o sh.c o.c .raw 3 pp.1.2.2 l) fl) with
                    lane := l, loc := (done.find? fun e => e.1.lane == l && e.1.slot == 1).elim .dev fun e => e.2.loc 0 } }) (popped (.vbwr o) o · is)

/-- VBWR (15 R469). -/
def execVbwr (o : Opw) (s : State) : OutC := issueOp (.vbwr o) o s noBad noRd noMore (vbwrEffect o s)

/-- Where the status word of a tile lies, when the pass that a gang names can be read and the word translated as the bundle issues. -/
def State.tileWord (s : State) (ag : Agent) (pass : Nat) (d : DRes Nat) (t : Nat) : Loc :=
  match d with
  | .ok x _ =>
    let p := parsePass pass (s.pasidOf ag) (s.partOf ag) (s.unitOf ag) x
    if p.bad then .dev else
    match s.translate p.unit p.pasid p.part (p.tstat + 8 * t) .rmw false with
    | .ok r => r.loc 0
    | _ => .dev
  | _ => .dev

/-- TLREL's effect (15 R467; 08 R220): the references of the entries whose last lane gives up, in the pass that the registers name. -/
def tlrelEffect (o : Opw) (s : State) (is : Issue) : State :=
  match is.ag with
  | .ctx _ => s
  | .gang gid _ =>
    match s.gang? gid with
    | none => s
    | some g =>
      if s.counterFull is.ag 6 then s.blockRetry is.ag .inflight else
      let m := guardMask s is o
      let pass := g.passAddr
      let earlier := s.allEarlier is.ag
      let desc := s.devRead (s.unitOf is.ag) (s.pasidOf is.ag) (s.partOf is.ag) pass 128
      let accs := (g.endedEntries m).map fun t => { devAcc (.refsDec pass (s.partOf is.ag) t) with loc := s.tileWord is.ag pass desc t }
      let t := s.issueFlight { newFlight s is (.tlrel o) 6 with wr := true, rel := true, accs := accs }
      let t := { t with flights := t.flights.upd (fun (f : Flight) => { f with after := (f.after ++ earlier).eraseDups }) s.nextId }
      t.updGang gid fun g => g.dropEntries m

/-- TLREL (15 R467). -/
def execTlrel (o : Opw) (s : State) : OutC := issueOp (.tlrel o) o s noBad noRd noMore (tlrelEffect o s)

end Sys2Proof.Machine
end

