-- ==== Sys2Proof/Machine/Ray.lean ====
section
/-!
DEFINITION. The ray traversal unit (07 R213-R216; 08 R242; 14 R438, R439): RTRACE and the delivery of its hits.
-/
namespace Sys2Proof.Machine

/-- A point or direction in units of 2^-298. -/
structure Vec where
  x : Int
  y : Int
  z : Int
deriving DecidableEq, Repr

def Vec.sub (a b : Vec) : Vec := { x := a.x - b.x, y := a.y - b.y, z := a.z - b.z }
def Vec.dot (a b : Vec) : Int := a.x * b.x + a.y * b.y + a.z * b.z
def Vec.cross (a b : Vec) : Vec :=
  { x := a.y * b.z - a.z * b.y, y := a.z * b.x - a.x * b.z, z := a.x * b.y - a.y * b.x }

/-- A finite FP32 value in units of 2^-149; 0 for an infinity or a NaN. -/
def fx32 (x : Nat) : Int :=
  match fp32.decode x with
  | .fin neg n d => signed neg (n * 2 ^ 149 / d)
  | _ => 0

/-- Is an FP32 word a NaN, or infinite? -/
def isNan32 (x : Nat) : Bool := match fp32.decode x with | .nan _ _ => true | _ => false
def isInf32 (x : Nat) : Bool := match fp32.decode x with | .inf _ => true | _ => false

/-- A bound of a parameter interval: minus infinity, a quotient with a positive denominator, or plus infinity. `lvl` says how FP32
arithmetic finds the quotient: 0 exactly, 1 within its roundings, 2 not to be told. -/
inductive Bound where
  | neg
  | at (n : Int) (d lvl : Nat)
  | pos
deriving DecidableEq, Repr

/-- Is one bound at most another? -/
def Bound.le : Bound → Bound → Bool
  | .neg, _ => true
  | _, .pos => true
  | .at n d _, .at m e _ => decide (n * e ≤ m * d)
  | _, _ => false

/-- The level of a bound. -/
def Bound.lvl : Bound → Nat
  | .at _ _ l => l
  | _ => 0

/-- A bound at a level or above it. -/
def Bound.atLeast (b : Bound) (l : Nat) : Bound := match b with | .at n d k => .at n d (max k l) | b => b

/-- An FP32 word as a bound. -/
def Bound.of32 (x : Nat) : Bound :=
  match fp32.decode x with
  | .inf true => .neg
  | .inf false => .pos
  | _ => .at (fx32 x) (2 ^ 149) 0

/-- Is a quotient of integers an FP32 value? -/
def fits32 (n : Int) (d : Nat) : Bool :=
  match fp32.decode (fp32.convert 0 false (RVal.fin (decide (n < 0)) n.natAbs d)).1 with
  | .fin _ m e => decide (m * d = n.natAbs * e)
  | _ => false

/-- A ray in some space, with its interval. `eo` and `ed` bound, per axis, how far FP32 arithmetic may find its origin and direction from
the exact ones; 0 where it finds them exactly. -/
structure Ray where
  o : Vec
  d : Vec
  lo : Bound
  hi : Bound
  eo : Vec
  ed : Vec
deriving DecidableEq, Repr

/-- Is one bound at most another, as FP32 arithmetic with its roundings finds it (07 R216)? Nothing where roundings can decide. -/
def Bound.le32 (a b : Bound) : Option Bool :=
  match a, b with
  | .at n d p, .at m e q =>
    let x := n * e
    let y := m * d
    let far := (x - y).natAbs
    if p = 0 ∧ q = 0 then some (decide (x ≤ y))
    else if p < 2 ∧ q < 2 ∧ far * 2 ^ 19 > x.natAbs + y.natAbs ∧ far * 2 ^ 140 > d * e ∧
        (n.natAbs < 2 ^ 127 * d ∨ m.natAbs < 2 ^ 127 * e) then some (decide (x ≤ y))
    else none
  | a, b => if a.lvl = 2 ∨ b.lvl = 2 then none else some (a.le b)

/-- The greater of two bounds, or with `up` false the smaller; where roundings can decide which, its level says so. -/
def Bound.pick (up : Bool) (a b : Bound) : Bound :=
  let c := if a.le b == up then b else a
  if (a.le32 b).isSome then c else c.atLeast (max 1 (max a.lvl b.lvl))

/-- The parameter at which a ray reaches a plane of an axis: FP32 finds it exactly when its difference and its quotient are FP32 values
and its divisor is a power of two, whose reciprocal is exact too (log entry 86). -/
def planeAt (o d : Int) (eo ed : Nat) (b : Bound) : Bound :=
  match b with
  | .at n e _ =>
    let diff := n * 2 ^ 298 / e - o
    let lvl : Nat :=
      if diff.natAbs ≤ 2 ^ 22 * eo ∧ eo ≠ 0 ∨ d.natAbs ≤ 2 ^ 22 * ed ∧ ed ≠ 0 ∨ diff.natAbs ≥ 2 ^ (298 + 127) ∨
        d.natAbs < 2 ^ (298 - 126) then 2
      else if eo = 0 ∧ ed = 0 ∧ 2 ^ d.natAbs.log2 = d.natAbs ∧ fits32 diff (2 ^ 298) ∧ fits32 (if d > 0 then diff else -diff) d.natAbs then 0
      else 1
    if d > 0 then .at diff d.toNat lvl else .at (-diff) (-d).toNat lvl
  | .neg => if d > 0 then .neg else .pos
  | .pos => if d > 0 then .pos else .neg

/-- One axis of the slab test (07 R216): the interval narrowed, or nothing where the ray lies outside and parallel. -/
def slab (o d eo ed : Int) (lo hi l h : Bound) : Option (Bound × Bound) :=
  if d = 0 then
    if ed ≠ 0 ∨ eo ≠ 0 then some (l.atLeast 2, h.atLeast 2)
    else if lo.le (.at o (2 ^ 298) 0) && (Bound.at o (2 ^ 298) 0).le hi then some (l, h) else none
  else
    some (Bound.pick true l (planeAt o d eo.natAbs ed.natAbs (if d > 0 then lo else hi)),
      Bound.pick false h (planeAt o d eo.natAbs ed.natAbs (if d > 0 then hi else lo)))

/-- The bound of a child box on an axis (07 R214): the origin plus `q` quanta, rounded down or up. -/
def childBound (origin exp q : Nat) (up : Bool) : Option Bound :=
  match fp32.decode origin with
  | .fin neg n d =>
    let e := scale2 q ((exp : Int) - 127)
    let r := (RVal.fin neg n d).add (if up then 2 else 3) (.fin false e.1 e.2)
    some (Bound.of32 (fp32.convert (if up then 2 else 3) false r.1).1)
  | _ => none

/-- Does a ray meet child `i` of a box node of 128 bytes? Nothing where the roundings of the FP32 test decide (07 R216), and for an ORIGIN
that is infinite or a NaN, of which the spec says nothing (log entry 86). -/
def hitsChild (r : Ray) (x i : Nat) : Option Bool :=
  let f := fun (off n : Nat) => x / 256 ^ off % 256 ^ n
  let axis := fun (a : Nat) =>
    match childBound (f (4 * a) 4) (f (12 + a) 1) (f (16 + 8 * a + i) 1) false,
        childBound (f (4 * a) 4) (f (12 + a) 1) (f (40 + 8 * a + i) 1 + 1) true with
    | some lo, some hi => some (lo, hi)
    | _, _ => none
  match axis 0, axis 1, axis 2 with
  | some bx, some by_, some bz =>
    match (slab r.o.x r.d.x r.eo.x r.ed.x bx.1 bx.2 r.lo r.hi).bind fun t1 =>
        (slab r.o.y r.d.y r.eo.y r.ed.y by_.1 by_.2 t1.1 t1.2).bind fun t2 =>
          slab r.o.z r.d.z r.eo.z r.ed.z bz.1 bz.2 t2.1 t2.2 with
    | none => some false
    | some t => t.1.le32 t.2
  | _, _, _ => none

/-- A hit: T, U and V as quotients over one positive denominator, the identifier, and the orientation. -/
structure Hit where
  t : Int
  u : Int
  v : Int
  den : Nat
  id : Nat
  back : Bool
deriving DecidableEq, Repr

/-- Which orientation of a triangle faces away from a ray: the spec fixes none, so it is a free bit of the device. -/
def backSign : Bool := Config.freeBit 0 7

/-- The exact intersection of a ray and a triangle, its edges included (07 R216). -/
def hitTri (r : Ray) (v0 v1 v2 : Vec) (id : Nat) : Option Hit :=
  let e1 := v1.sub v0
  let e2 := v2.sub v0
  let p := r.d.cross e2
  let det := e1.dot p
  if det = 0 then none else
  let tv := r.o.sub v0
  let q := tv.cross e1
  let sg : Int := if det > 0 then 1 else -1
  let u := tv.dot p * sg
  let v := r.d.dot q * sg
  let t := e2.dot q * sg
  let den := det.natAbs
  let tb := Bound.at t den 0
  if u < 0 ∨ v < 0 ∨ u + v > den ∨ !(r.lo.le tb) ∨ !(tb.le r.hi) then none
  else some { t := t, u := u, v := v, den := den, id := id, back := decide (det < 0) != backSign }

/-- An instance that a traversal is inside: the ray in its space, its number. -/
structure Inst where
  ray : Ray
  num : Nat
deriving DecidableEq, Repr

/-- A node or leaf to visit. -/
structure Visit where
  kind : Nat
  addr : Nat
  inst : Option Inst
deriving DecidableEq, Repr

/-- A finite FP32 value in units of 2^-149. Of one that is infinite or a NaN the spec says nothing here: a free word gives it a value
(log entry 86). -/
def fxAny (fresh key x : Nat) : Int :=
  match fp32.decode x with
  | .fin _ _ _ => fx32 x
  | _ => fx32 (Config.freeWord fresh (2 ^ 61 + key)).toNat

/-- The ray in an instance's space (07 R215), from the matrix at an address. -/
def Ray.into (r : Ray) (fresh addr x : Nat) : Ray :=
  let m := fun (i j : Nat) => fxAny fresh (4096 * addr + 4 * i + j) (x / 2 ^ (32 * (4 * i + j)) % 2 ^ 32)
  let terms := fun (i : Nat) (v : Vec) => [m i 0 * v.x, m i 1 * v.y, m i 2 * v.z]
  let sum := fun (l : List Int) => l.foldl (· + ·) 0 / 2 ^ 149
  let err := fun (l : List Int) => (show Nat from
    let l := l.filter (· ≠ 0)
    if l.length ≤ 1 ∧ l.all (fun x => fits32 x (2 ^ 447)) then 0 else l.foldl (fun (a : Nat) (x : Int) => a + x.natAbs) 0 / 2 ^ 170 + 1)
  let o := fun (i : Nat) => terms i r.o ++ [m i 3 * 2 ^ 298]
  let d := fun (i : Nat) => terms i r.d
  let vec := fun (f : Nat → Int) => ({ x := f 0, y := f 1, z := f 2 } : Vec)
  { r with
    o := vec fun i => sum (o i), d := vec fun i => sum (d i),
    eo := vec fun i => (err (o i) : Int), ed := vec fun i => (err (d i) : Int) }

/-- What a fetch gives: bytes, or a fault, which poison may be. -/
inductive RayGot where
  | got (x : Nat)
  | bad (poison : Bool)
deriving DecidableEq, Repr

/-- How a traversal reads memory. -/
abbrev Fetch := State → Nat → Nat → DRes RayGot

/-- What a traversal has found: hits, and whether a fetch faulted, or met poison. -/
structure Found where
  hits : List Hit
  bad : Bool
  poison : Bool
deriving DecidableEq, Repr

/-- Nothing found. -/
def Found.none : Found := { hits := [], bad := false, poison := false }

/-- A fetch that faulted. -/
def Found.fault (r : Found) (poison : Bool) : Found := { r with bad := true, poison := r.poison || poison }

/-- A vertex position at an address: three FP32 words; one that is infinite or a NaN is a free value (log entry 86). -/
def vecOf (fresh addr x : Nat) : Vec :=
  let w := fun (i : Nat) => fxAny fresh (4096 * addr + i) (x / 2 ^ (32 * i) % 2 ^ 32) * 2 ^ 149
  { x := w 0, y := w 1, z := w 2 }

/-- The triangle of three fetched vertices at their addresses. -/
def triOf (r : Ray) (cull id fresh : Nat) (l : List (Nat × RayGot)) (found : Found) : Found :=
  match l with
  | [(i, .got a), (j, .got b), (k, .got c)] =>
    match hitTri r (vecOf fresh i a) (vecOf fresh j b) (vecOf fresh k c) id with
    | some h => if (h.back && cull.testBit 1) || (!h.back && cull.testBit 2) then found else { found with hits := found.hits ++ [h] }
    | none => found
  | l => l.foldl (fun f e => match e.2 with | .bad p => f.fault p | .got _ => f) found

/-- The hits of a cluster leaf's triangles (07 R215), from triangle `k` on. -/
def leafTris (rd : Fetch) (r : Ray) (cull : Nat) (verts indices id vcount : Nat) : Nat → Nat → Found → State → DRes Found
  | _, 0, found, s => .ok found s
  | k, n + 1, found, s =>
    (rd s (indices + 3 * k) 3).bind fun ix s1 =>
      match ix with
      | .bad p => leafTris rd r cull verts indices id vcount (k + 1) n (found.fault p) s1
      | .got ix =>
        let i := fun (j : Nat) => ix / 256 ^ j % 256
        let at_ := fun (j : Nat) => verts + 12 * i j
        if i 0 > vcount ∨ i 1 > vcount ∨ i 2 > vcount then leafTris rd r cull verts indices id vcount (k + 1) n found s1
        else
          (rd s1 (at_ 0) 12).bind fun a s2 => (rd s2 (at_ 1) 12).bind fun b s3 => (rd s3 (at_ 2) 12).bind fun c s4 =>
            leafTris rd r cull verts indices id vcount (k + 1) n
              (triOf r cull (id + k) s.fresh [(at_ 0, a), (at_ 1, b), (at_ 2, c)] found) s4

/-- The visits that the children of a box node at an address ask for (07 R214). -/
def boxVisits (r : Ray) (fresh addr x : Nat) (inst : Option Inst) : List Visit :=
  (List.range 8).filterMap fun (i : Nat) =>
    let c := x / 256 ^ (64 + 8 * i) % 2 ^ 64
    let k := c / 2 ^ 62
    if !((x / 256 ^ 15).testBit i) || k == 3 || !((hitsChild r x i).getD (Config.freeBit fresh (2 ^ 60 + 8 * addr + i))) then none
    else some { kind := k, addr := c % 2 ^ 50 * (if k = 0 then 128 else 64), inst := inst }

/-- The traversal (07 R214-R216): every hit, and every fetch that faults. One that leads on for 2^100 visits, as only a structure that leads
back into itself does, has not ended. -/
def traverse (rd : Fetch) (world : Ray) (rflags : Nat) : Nat → List Visit → Found → State → DRes Found
  | _, [], found, s => .ok found s
  | 0, _ :: _, _, _ => .wait none
  | fuel + 1, v :: rest, found, s =>
    let r := (v.inst.map (·.ray)).getD world
    if (v.kind = 1 ∧ v.inst.isNone) ∨ (v.kind ≥ 2 ∧ v.inst.isSome) then traverse rd world rflags fuel rest found s
    else
      (rd s v.addr (if v.kind = 0 then 128 else 64)).bind fun y s1 =>
        match y with
        | .bad p => traverse rd world rflags fuel rest (found.fault p) s1
        | .got x =>
          let f := fun (off n : Nat) => x / 256 ^ off % 256 ^ n
          if v.kind = 0 then traverse rd world rflags fuel (boxVisits r s.fresh v.addr x v.inst ++ rest) found s1
          else if v.kind = 1 then
            (leafTris rd r rflags (f 0 8) (f 8 8) (2 ^ 36 * ((v.inst.map (·.num)).getD 0) + 2 ^ 8 * (f 16 4 % 2 ^ 28)) (f 21 1) 0
              (f 20 1 + 1) found s1).bind fun l s2 => traverse rd world rflags fuel rest l s2
          else if (f 60 1) &&& (rflags / 256 % 256) = 0 then traverse rd world rflags fuel rest found s1
          else
            traverse rd world rflags fuel
              ({ kind := 0, addr := f 48 8, inst := some { ray := world.into s.fresh v.addr x, num := f 56 4 % 2 ^ 28 } } :: rest) found s1

/-- Is one hit nearer than another (07 R216): the smallest T, then the smaller identifier? -/
def Hit.before (a b : Hit) : Bool :=
  decide (a.t * b.den < b.t * a.den) || (decide (a.t * b.den = b.t * a.den) && decide (a.id < b.id))

/-- The nearest of a list of hits. -/
def nearest : List Hit → Option Hit
  | [] => none
  | h :: t => match nearest t with
    | none => some h
    | some g => if g.before h then some g else some h

/-- The ray of 12 words (07 Table 7.9). -/
def rayOf (fresh : Nat) (w : List Nat) : Ray :=
  let v := fun (i : Nat) => fxAny fresh (2 ^ 70 + i) (w.getD i 0) * 2 ^ 149
  let zero : Vec := { x := 0, y := 0, z := 0 }
  { o := { x := v 0, y := v 1, z := v 2 }, d := { x := v 4, y := v 5, z := v 6 },
    lo := Bound.of32 (w.getD 3 0), hi := Bound.of32 (w.getD 7 0), eo := zero, ed := zero }

/-- A malformed ray (14 R439). The components that may be a NaN are those of ORIGIN and DIR, with TMIN and TMAX; CONE_W and CONE_S are not
counted: the model's choice (log entry 86). -/
def rayBad (w : List Nat) : Bool :=
  let f := w.getD 10 0
  ([0, 1, 2, 3, 4, 5, 6, 7].any fun i => isNan32 (w.getD i 0)) ||
    ([4, 5, 6].all fun i => w.getD i 0 % 2 ^ 31 = 0) ||
    ((fp32.decode (w.getD 7 0)).cmp (fp32.decode (w.getD 3 0))).any (fun c => decide (c < 0)) ||
    natBits f 7 4 ≠ 0 || natBits f 31 16 ≠ 0

/-- The cone's width at a record's T (07 Table 7.10): CONE_W + CONE_S · T, rounded RNE. -/
def coneAt (w : List Nat) (t : Nat) : Nat :=
  (fp32.finish 0 ((fp32.decode (w.getD 9 0)).fma 0 (fp32.decode t) (fp32.decode (w.getD 8 0)))).1

/-- A hit record (07 Table 7.10) as words. T, U and V lie within 2 ulp of the exact ones (07 R216). -/
def hitRecord (w : List Nat) (h : Hit) : List Nat :=
  let near := fun (fn : Nat) (n : Int) =>
    approxIn fn (h.id :: w) n h.den (2 * ulp32 n.natAbs h.den) (2 ^ 149)
  let t := near 0x50 h.t
  [h.id % 2 ^ 32, h.id / 2 ^ 32, t, near 0x51 h.u, near 0x52 h.v, w.getD 11 0, coneAt w t, 1 + if h.back then 4 else 0]

/-- The record of a ray without a hit: T, U and V, which the spec leaves open, are free words. -/
def noHit (s : State) (w : List Nat) (status : Nat) : List Nat :=
  let fw := fun (k : Nat) => (Config.freeWord s.fresh (2 ^ 20 + k)).toNat
  [0, 0, fw 0, fw 1, fw 2, w.getD 11 0, coneAt w (fw 0), status]

/-- Does an operation's access to a range touch a TSO page? -/
def State.rangeTso (s : State) (f : Flight) (va n : Nat) (acc : Access) : Bool :=
  (devPieces va n).any fun p => match s.translate (s.unitOf f.ag) f.pasid (s.partOf f.ag) p.1 acc f.sup with | .ok r => r.tso | _ => false

/-- A fetch of the ray unit for an operation, in the mode of its gang (09 Table 9.5): one of a TSO page waits for the agent's earlier TSO
accesses (06 R181). -/
def State.rayFetch (s : State) (f : Flight) : Fetch := fun t va n =>
  let unit := s.unitOf f.ag
  let part := s.partOf f.ag
  if t.rangeTso f va n .read && s.tsoWait f true then .wait none else
  match t.devReadAs (some f) unit f.pasid part va n with
  | .ok x u => .ok (.got x) u
  | .wait p => .wait p
  | .fault a u => .ok (.bad (match u.translate unit f.pasid part a .read f.sup with | .ok _ => true | _ => false)) u

/-- A ray's record (14 R439), and whether a poisoned sector was met. A fault ends the ray with STATUS 2; with RFLAGS[0] a hit may be found
before it, in an order that is not specified: a free bit (log entry 86). -/
def State.traceRay (s : State) (f : Flight) (w : List Nat) : DRes (List Nat × Nat × Bool) :=
  if rayBad w then .ok (noHit s w 2, 0, false) s
  else
    (traverse (s.rayFetch f) (rayOf s.fresh w) (w.getD 10 0) (2 ^ 100) [{ kind := 0, addr := f.sw.getD 0 0, inst := none }] Found.none s).bind
      fun r t =>
        let hit := fun (h : Hit) => DRes.ok (hitRecord w h, h.id / 2 ^ 36, false) t
        let any := (w.getD 10 0).testBit 0
        if r.bad && !(any && !r.hits.isEmpty && s.pick (2 ^ 22)) then .ok (noHit s w 2, 0, r.poison) t
        else
          match if any then r.hits[Config.freeNat s.fresh (2 ^ 21) % r.hits.length]? else nearest r.hits with
          | some h => hit h
          | none => .ok (noHit s w 0, 0, false) t

/-! ### RTRACE -/

/-- Does the traversal of a ray, as memory stands, fetch from a TSO page, or wait for a page that it does not know? The first such fetch
ends the probe. -/
def State.rayTso (s : State) (f : Flight) (w : List Nat) : Bool :=
  if rayBad w then false else
  let probe : Fetch := fun t va n => if t.rangeTso f va n .read then .fault va t else s.rayFetch f t va n
  match traverse probe (rayOf s.fresh w) (w.getD 10 0) (2 ^ 100) [{ kind := 0, addr := f.sw.getD 0 0, inst := none }] Found.none s with
  | .ok _ _ => false
  | _ => true

/-- May one of the next `n` hit records of an operation's pass stand on a TSO page? -/
def State.hitsTso (s : State) (f : Flight) (n : Nat) : Bool :=
  let unit := clusterUnit (clusterOf (s.coreOf (gangOf f.ag)))
  match (s.passAt unit f.pasid (s.partOf f.ag) (f.sw.getD 1 0)).bind fun p t => match p with
      | none => .ok none t
      | some p => (p.read t (p.addr + 92) 4).bind fun h u => .ok (some (p.hits + 32 * h)) u with
  | .ok (some va) t => t.rangeTso f va (32 * n) .write
  | .ok none _ => false
  | .fault _ _ => false
  | .wait _ => true

/-- QBIND for a destination that is neither V registers nor a queue bound to RAY_HITS (14 R438). -/
def rtracePort (o : Opw) (s : State) (is : Issue) : Nat :=
  match opnd o.dst, is.ag with
  | .v n, _ => if n % 8 = 0 then 0 else cQBIND
  | .q n, .gang gid _ => if (s.gang? gid).any fun g => g.port n == 5 then 0 else cQBIND
  | _, _ => cQBIND

/-- RTRACE's effect (14 R438, R439): the rays are read at issue; each goes on its own way. Later TSO accesses follow it when its traversals, as
memory stands at issue, or its hit records touch a TSO page (06 R181, log entry 8). A misaligned root and a pass address of 0 are found
together (09 R250); the FSUB of the latter names the path, its access and reason being free. -/
def rtraceEffect (o : Opw) (s : State) (is : Issue) : State :=
  let sh := shape false (.rtrace o)
  let gm := guardMask s is o
  if gm = 0 then s else
  match is.ag with
  | .ctx _ => s
  | .gang gid _ =>
    match s.gang? gid with
    | none => s
    | some g =>
      let root := uniVal s is o sh.b o.b 2
      let lanes := s.lanesAg is.ag gm
      let rays := lanes.map fun l =>
        let x := srcVal s is o (.reg 1 12 4) o.a .raw 1 [] l
        (l, (List.range 12).map fun (i : Nat) => x / 2 ^ (32 * i) % 2 ^ 32)
      let toBins := rays.filter fun r => !((r.2.getD 10 0).testBit 3)
      if s.counterFull is.ag 3 then s.blockRetry is.ag .inflight
      else if root % 128 ≠ 0 then
        s.takeCause is.ag .fault
          { causes := cMISALIGN + if !toBins.isEmpty && g.passAddr == 0 then cPROT else 0, faddr := root, fsub := 256 * 3, fmask := gm }
      else if !toBins.isEmpty && g.passAddr == 0 then
        s.takeCause is.ag .fault
          { causes := cPROT, faddr := 0, fsub := Config.freeNat s.fresh 1 % 2 ^ 8 + 256 * 3, fmask := maskOf (toBins.map (·.1)) }
      else
        let dest := match opnd o.dst with | .v b => Dest.v b 8 0 | .q n => .q n 8 | _ => .none
        let toReg := maskOf ((rays.filter fun r => (r.2.getD 10 0).testBit 3).map (·.1))
        let f := { newFlight s is (.rtrace o) 3 with
                   rd := true, dest := dest, mask := toReg, sw := [root, g.passAddr, (s.isSup is.ag).toNat], lw := rays,
                   accs := lanes.map fun l => { devAcc .none with lane := l } }
        let tso := (rays.any fun r => s.rayTso f r.2) || (!toBins.isEmpty && s.hitsTso f toBins.length)
        let t := s.issueFlight { f with pages := if tso then [{ vpage := 0, key := 0, tso := true, zb := false }] else [] }
        lanes.foldl (fun (t : State) l =>
          { t with rays := t.rays.put t.nextId { fl := f.id, lane := l }, nextId := t.nextId + 1 }) t

/-- RTRACE (14 R438, R439). -/
def execRtrace (o : Opw) (s : State) : OutC := issueOp (.rtrace o) o s noBad noRd (rtracePort o s) (rtraceEffect o s)

/-- A ray's record is delivered: its access is done. -/
def State.rayDone (s : State) (k : Nat) (h : RayHit) (res : Nat) (poisoned : Bool) : State :=
  { (s.updFlight h.fl fun f => { f with accs := f.accs.map fun (a : Acc) =>
      if a.lane = h.lane then { a with res := res, done := true, poisoned := poisoned } else a }) with rays := s.rays.del k }

/-- Words as one number. -/
def wordsNum (l : List Nat) : Nat := l.foldr (fun w a => w + 2 ^ 32 * a) 0

/-- The delivery of an operation's record to the bins (08 R242), its hit written on the RAY path (06 Table 6.5), on a TSO page after the agent's
earlier TSO accesses (06 R181): false when the bin's ring is full. -/
def Pass.deliver (p : Pass) (s : State) (f : Flight) (cluster inst : Nat) (r : List Nat) : DRes Bool :=
  (p.read s (p.addr + 92) 4).bind fun h s1 =>
    if h ≥ p.hitcap then (s1.passErr p.unit p.pasid p.part p.addr 8).bind fun _ s2 => .ok true s2
    else if s1.rangeTso f (p.hits + 32 * h) 32 .write && s1.tsoWait f false then .wait none
    else
      (s1.devWriteAs (some f) p.unit p.pasid p.part (p.hits + 32 * h) 32 (wordsNum r)).bind fun _ s2 =>
        let top : DRes Unit := match p.write s2 (p.addr + 92) 4 (h + 1) with
          | .fault _ t => .ok () (t.devErr p.part p.addr 36 0 noLinear)
          | x => x
        top.bind fun _ s3 =>
          (if r.getD 7 0 % 4 = 1 then p.binOf s3 cluster inst else .ok p.missbin s3).bind fun b s4 =>
            if b = 0xFFFF then .ok true s4
            else if b ≥ 4096 then (s4.passErr p.unit p.pasid p.part p.addr 4).bind fun _ s5 => .ok true s5
            else p.append s4 cluster b (2 ^ 62 + h)

/-- Has an earlier RTRACE of the gang rays still to be traced? The unit's reads of one location stay in order (06 R170, log entry 86). -/
def State.raysBefore (s : State) (f : Flight) : Bool :=
  s.flights.any fun e => decide (e.1 < f.id) && e.2.path == 3 && !e.2.withdrawn && sameMemAgent e.2.ag f.ag && e.2.accs.any fun a => !a.done

/-- RAY_DELIVERY (08 R242, 14 R439): one ray is traversed and its record delivered; a full queue or ring makes it wait. -/
def execRayDelivery (k : Nat) (s : State) : OutC :=
  match s.rays.find? k with
  | none => runEv s s
  | some h =>
    match s.flights.find? h.fl with
    | none => runEv s { s with rays := s.rays.del k }
    | some f =>
      let w := f.kept h.lane
      if f.withdrawn || !(f.after.all s.applied) || s.raysBefore f then runEv s s else
      devEv s ((s.traceRay f w).bind fun r t =>
        let t := if r.2.2 then t.addAsync f.ag (f.asyncBits cPOISON) else t
        if (w.getD 10 0).testBit 3 then
          match f.dest with
          | .q n _ =>
            if t.queueLen (gangOf f.ag) n + 8 > 256 then .ok () s
            else .ok () ((t.pushQueue (gangOf f.ag) n r.1).rayDone k h 0 false)
          | _ => .ok () (t.rayDone k h (wordsNum r.1) false)
        else
          let cluster := clusterOf (t.coreOf (gangOf f.ag))
          let unit := clusterUnit cluster
          (t.passAt unit f.pasid (t.partOf f.ag) (f.sw.getD 1 0)).bind fun p u => match p with
            | none => .ok () (u.rayDone k h 0 false)
            | some p =>
              match p.deliver u f cluster r.2.1 r.1 with
              | .ok true v => .ok () (v.rayDone k h 0 false)
              | .ok false _ => .ok () s
              | .fault _ v => (v.passErr p.unit p.pasid p.part p.addr 16).bind fun _ x => .ok () (x.rayDone k h 0 false)
              | .wait w => .wait w)

end Sys2Proof.Machine
end

