-- ==== Sys2Proof/Machine/Attr.lean ====
section
/-!
DEFINITION. The attribute engine (08 R243-R245; 12 R329, R330) and pixel-order interlocks (08 R246; 14 R422, R423).
-/
namespace Sys2Proof.Machine

/-! ### Fetches of an engine on behalf of a lane -/

/-- What an engine's fetch for a lane gives. -/
inductive FRes (α : Type) where
  | ok (a : α) (s : State)
  | fault (f : LaneFault) (s : State)
  | poison (s : State)
  | ats (page : Nat) (s : State)
  /-- It waits for earlier accesses of the agent (06 R180, R181), or for a port whose region retrains (10 R287). -/
  | drain (fls : List Nat) (s : State)

/-- A fetch followed by a further step. -/
def FRes.bind {α β : Type} (r : FRes α) (f : α → State → FRes β) : FRes β :=
  match r with
  | .ok a s => f a s
  | .fault x s => .fault x s
  | .poison s => .poison s
  | .ats p s => .ats p s
  | .drain l s => .drain l s

/-- The state that a fetch ends in. -/
def FRes.after {α : Type} (r : FRes α) : State :=
  match r with
  | .ok _ s => s
  | .fault _ s => s
  | .poison s => s
  | .ats _ s => s
  | .drain _ s => s

/-- The state after fetches that come to nothing: their translations are noted (09 R258), what they read is not. -/
def State.tried (s t : State) : State := { t with older := s.older, hostSeen := s.hostSeen }

/-- Pieces read one after the other with the agent's permissions, on a path, behind the agent's earlier accesses of the path to the same
lines (06 R180) and on a TSO page behind its earlier TSO accesses (06 R181). -/
def agFetchGo (ag : Agent) (path lane : Nat) : List (Nat × Nat) → State → FRes Nat
  | [], s => .ok 0 s
  | (va, n) :: rest, s =>
    match s.checkLane ag noReg { lane := lane, va := va, size := n, acc := .read } with
    | .fault f => .fault f s
    | .ats p => .ats p s
    | .hold _ => .ok 0 s
    | .ok _ t =>
      let s1 := s.noteUse ag t
      match s.farGate (s.unitOf ag) (s.pasidOf ag) t.key with
      | some none => .poison (s1.dropFar (s.pasidOf ag))
      | some (some p) => .ats p s1
      | none =>
        let wait := (s.lineWait ag path ((t.loc 0).lines n) ++ (if t.tso then s.tsoReads ag else [])).eraseDups
        if !wait.isEmpty || s.portHeld t.key s.cycle then .drain wait s1
        else
          let v := s1.pathRead ag path t.tso t.zb t.key n
          let s2 := (s1.afterPath ag path t.tso t.zb t.key n).countXfer t.key
          if v.2 then .poison s2
          else (agFetchGo ag path lane rest s2).bind fun x s' => .ok (v.1 + 256 ^ n * x) s'

/-- `n` bytes fetched by an engine for a lane on a path. -/
def State.agFetch (s : State) (ag : Agent) (path lane va n : Nat) : FRes Nat := agFetchGo ag path lane (devPieces va n) s

/-- An element through a buffer record, converted (05 R151-R153): a raw record has no elements and raises PROT. -/
def State.recElem (s : State) (ag : Agent) (lane : Nat) (r : BufRec) (x : Nat) : FRes Nat :=
  let prot : LaneFault := { lane := lane, cause := cPROT, va := 0, acc := 0, reason := Config.freeNat s.fresh 3 % 8 }
  if r.bad || r.raw then .fault prot s else
  match r.elem x with
  | .prot => .fault prot s
  | .drop => .ok 0 s
  | .at p =>
    let sp := r.span p
    (s.agFetch ag 2 lane (r.base + sp.1) sp.2.1).bind fun d s1 =>
      let scale : FRes Nat :=
        if r.scale = 2 then s1.agFetch ag 2 lane r.scaleBase 4
        else if r.scale = 1 ∧ fmtScale r.fmt ≠ 0 then
          s1.agFetch ag 2 lane (r.scaleBase + r.scaleAt p * fmtScaleBytes r.fmt) (fmtScaleBytes r.fmt)
        else .ok 0 s1
      scale.bind fun sc s2 =>
        let table : FRes Nat := if isCb2 r.fmt then s2.agFetch ag 2 lane r.table 512 else .ok 0 s2
        table.bind fun cb s3 =>
          .ok (deliver r.fmt r.scale (toBytes 512 cb) d sp.2.2 sc (Config.freeWord s.fresh (2 ^ 22 + lane))) s3

/-- Elements from one number on. -/
def recElems (ag : Agent) (lane : Nat) (r : BufRec) : Nat → Nat → State → FRes (List Nat)
  | _, 0, s => .ok [] s
  | x, n + 1, s => (s.recElem ag lane r x).bind fun v t => (recElems ag lane r (x + 1) n t).bind fun l u => .ok (v :: l) u

/-! ### FP32 on words, each operation rounded once (08 R245) -/

def wAdd (a b : Nat) : Nat := (fp32.finish 0 ((fp32.decode a).add 0 (fp32.decode b))).1
def wNeg (a : Nat) : Nat := if isNan32 a then 0x7FC00000 else a ^^^ 0x80000000
def wSub (a b : Nat) : Nat := wAdd a (wNeg b)
def wMul (a b : Nat) : Nat := (fp32.finish 0 ((fp32.decode a).mul (fp32.decode b))).1
def wFma (a b c : Nat) : Nat := (fp32.finish 0 ((fp32.decode a).fma 0 (fp32.decode b) (fp32.decode c))).1
def wDiv (a b : Nat) : Nat := (fp32.finish 0 ((fp32.decode a).div (fp32.decode b))).1
def wSqrt (a : Nat) : Nat := (fp32.finish 0 (fp32.decode a).sqrt).1
def wOne : Nat := 0x3F800000

/-- Barycentrics with their derivatives by x and by y. -/
structure Bary where
  b : List Nat
  dx : List Nat
  dy : List Nat
deriving DecidableEq, Repr

/-- attr_raster (08 R245): clip-space vertices, view words, pixel. -/
def attrRaster (v : List (List Nat)) (view : List Nat) (x y : Nat) : Bary :=
  let at_ := fun (l : List Nat) (i : Nat) => l.getD i 0
  let c := fun (i k : Nat) => (v.getD i []).getD k 0
  let half := fun (n : Nat) => (fp32.convert 0 false (.fin false (2 * n + 1) 2)).1
  let three := fun (f : Nat → Nat) => (List.range 3).map f
  let q := three fun i => wDiv wOne (c i 3)
  let sx := three fun i => wFma (wMul (c i 0) (at_ q i)) (at_ view 0) (at_ view 1)
  let sy := three fun i => wFma (wMul (c i 1) (at_ q i)) (at_ view 2) (at_ view 3)
  let dx := three fun i => wSub (at_ sx i) (half x)
  let dy := three fun i => wSub (at_ sy i) (half y)
  let e := three fun i =>
    let j := (i + 1) % 3
    let k := (i + 2) % 3
    wFma (at_ dx j) (at_ dy k) (wNeg (wMul (at_ dx k) (at_ dy j)))
  let ga := three fun i => wSub (at_ sy ((i + 1) % 3)) (at_ sy ((i + 2) % 3))
  let gb := three fun i => wSub (at_ sx ((i + 2) % 3)) (at_ sx ((i + 1) % 3))
  let f := three fun i => wMul (at_ e i) (at_ q i)
  let ha := three fun i => wMul (at_ ga i) (at_ q i)
  let hb := three fun i => wMul (at_ gb i) (at_ q i)
  let sum := fun (l : List Nat) => wAdd (wAdd (at_ l 0) (at_ l 1)) (at_ l 2)
  let rs := wDiv wOne (sum f)
  let b := three fun i => wMul (at_ f i) rs
  { b := b, dx := three fun i => wMul (wFma (wNeg (at_ b i)) (sum ha) (at_ ha i)) rs,
    dy := three fun i => wMul (wFma (wNeg (at_ b i)) (sum hb) (at_ hb i)) rs }

/-- attr_ray (08 R245): object-space positions, U, V and CONE. -/
def attrRay (p : List (List Nat)) (u v cone : Nat) : Bary :=
  let c := fun (i k : Nat) => (p.getD i []).getD k 0
  let len := fun (i : Nat) =>
    let d := fun (k : Nat) => wSub (c i k) (c 0 k)
    wSqrt (wFma (d 2) (d 2) (wFma (d 1) (d 1) (wMul (d 0) (d 0))))
  let k1 := wDiv cone (len 1)
  let k2 := wDiv cone (len 2)
  { b := [wSub (wSub wOne u) v, u, v], dx := [wNeg k1, k1, 0], dy := [wNeg k2, 0, k2] }

/-- A component of an attribute from its three vertex values (08 R245). -/
def wInterp (b : List Nat) (a0 a1 a2 : Nat) : Nat :=
  wFma (b.getD 2 0) a2 (wFma (b.getD 1 0) a1 (wMul (b.getD 0 0) a0))

/-! ### ATTR -/

/-- The words of an attribute record (08 Table 8.11). -/
def attrWords (na : Nat) (deriv : Bool) : Nat := 10 + (if deriv then 12 else 4) * na

/-- The attributes of a lane: each vertex's four components through the attribute's record, combined. -/
def attrRest (ag : Agent) (lane : Nat) (by_ : Bary) (deriv : Bool) (idx : List Nat) : List BufRec → State → FRes (List Nat)
  | [], s => .ok [] s
  | r :: rest, s =>
    (recElems ag lane r (4 * idx.getD 0 0) 4 s).bind fun a0 s1 =>
      (recElems ag lane r (4 * idx.getD 1 0) 4 s1).bind fun a1 s2 =>
        (recElems ag lane r (4 * idx.getD 2 0) 4 s2).bind fun a2 s3 =>
          let comb := fun (b : List Nat) => (List.range 4).map fun k => wInterp b (a0.getD k 0) (a1.getD k 0) (a2.getD k 0)
          (attrRest ag lane by_ deriv idx rest s3).bind fun l s4 =>
            .ok (comb by_.b ++ (if deriv then comb by_.dx ++ comb by_.dy else []) ++ l) s4

/-- A lane's record (08 R243, R244). An entry of the reserved KINDs 2 and 3 is taken as a raster entry: the model's choice (log
entry 99). `recs`: the record of clip-space positions, then those of the attributes. The covered pixels of a helper's quad are those of its entry's MASK (log entry 83). -/
def State.attrLane (s : State) (ag : Agent) (p : Pass) (recs : List BufRec) (deriv : Bool) (lane ent xy : Nat) :
    FRes (List Nat) :=
  let na := recs.length - 1
  let nan := List.replicate (attrWords na deriv) 0x7FC00000
  let x := xy % 65536
  let y := xy / 65536
  let ray := ent / 2 ^ 62 == 1
  -- the entry's identifier, its last word 9, and U, V, CONE of a ray
  let head : FRes (Nat × Nat × List Nat) :=
    if ray then
      (s.agFetch ag 2 lane (p.hits + 32 * (ent % 2 ^ 32)) 32).bind fun h s1 =>
        let w := fun (i : Nat) => h / 2 ^ (32 * i) % 2 ^ 32
        .ok (h % 2 ^ 64, w 2, [w 3, w 4, w 6]) s1
    else
      let t := natBits ent 31 12
      let q := natBits ent 11 4
      let m := ent % 16
      let own := x % 2 + 2 * (y % 2)
      let j := if m.testBit own then own else ((List.range 4).find? fun k => m.testBit k).getD own
      (s.agFetch ag 2 lane (p.entryAt t (2 * (q % 16) + j % 2) (2 * (q / 16) + j / 2)) 8).bind fun id s1 =>
        (s1.agFetch ag 2 lane (p.entryAt t (x % 32) (y % 32) + 8) 4).bind fun d s2 => .ok (id, d, []) s2
  head.bind fun hd s1 =>
    (s1.agFetch ag 2 lane (p.clus + 64 * natBits hd.1 35 8) 28).bind fun c s2 =>
      let f := fun (off n : Nat) => c / 256 ^ off % 256 ^ n
      let tri := hd.1 % 256
      if tri > f 20 1 then .ok nan s2
      else
        (s2.agFetch ag 2 lane (f 8 8 + 3 * tri) 3).bind fun ix s3 =>
          let i := (List.range 3).map fun (k : Nat) => ix / 256 ^ k % 256
          if i.any fun k => decide (k > f 21 1) then .ok nan s3
          else
            let g := i.map fun k => f 24 4 + k
            let bary : FRes Bary :=
              if ray then
                let pos := fun (k : Nat) (t : State) => (t.agFetch ag 2 lane (f 0 8 + 12 * i.getD k 0) 12).bind fun v u =>
                  FRes.ok ((List.range 3).map fun (n : Nat) => v / 2 ^ (32 * n) % 2 ^ 32) u
                (pos 0 s3).bind fun a t1 => (pos 1 t1).bind fun b t2 => (pos 2 t2).bind fun d t3 =>
                  .ok (attrRay [a, b, d] (hd.2.2.getD 0 0) (hd.2.2.getD 1 0) (hd.2.2.getD 2 0)) t3
              else
                match recs with
                | [] => .ok (attrRaster [] p.view x y) s3
                | r :: _ =>
                  (recElems ag lane r (4 * g.getD 0 0) 4 s3).bind fun a t1 =>
                    (recElems ag lane r (4 * g.getD 1 0) 4 t1).bind fun b t2 =>
                      (recElems ag lane r (4 * g.getD 2 0) 4 t2).bind fun d t3 => .ok (attrRaster [a, b, d] p.view x y) t3
            bary.bind fun by_ s4 =>
              (attrRest ag lane by_ deriv g (recs.drop 1) s4).bind fun l s5 =>
                .ok (by_.b ++ by_.dx ++ by_.dy ++ [hd.2.1] ++ l) s5

/-- The records of an ATTR, read in their order. -/
def attrRecs (is : Issue) (gm : LaneMask) : Nat → Nat → State → Except RecRes (List BufRec × State)
  | _, 0, s => .ok ([], s)
  | b, n + 1, s =>
    match s.bufRec is b 2 gm with
    | .ok r t => match attrRecs is gm (b + 1) n t with
      | .ok l => .ok (r :: l.1, l.2)
      | .error e => .error e
    | e => .error e

/-- The lanes' words, and the faults, translations and earlier accesses that they await; `stall`: a lane waits for such accesses or for a
port. -/
structure AttrOut where
  vals : List (Nat × List Nat × Bool)
  faults : List LaneFault
  ats : List Nat
  drains : List Nat
  stall : Bool

/-- The lanes of an engine's operation worked out one after the other, each to its words; a poisoned lane's are `zeros`. -/
def lanesAll (zeros : List Nat) (f : Nat → State → FRes (List Nat)) : List Nat → State → AttrOut × State
  | [], s => ({ vals := [], faults := [], ats := [], drains := [], stall := false }, s)
  | l :: rest, s =>
    let r := f l s
    let q := lanesAll zeros f rest r.after
    match r with
    | .ok v _ => ({ q.1 with vals := (l, v, false) :: q.1.vals }, q.2)
    | .fault x _ => ({ q.1 with faults := x :: q.1.faults }, q.2)
    | .poison _ => ({ q.1 with vals := (l, zeros, true) :: q.1.vals }, q.2)
    | .ats p _ => ({ q.1 with ats := p :: q.1.ats }, q.2)
    | .drain w _ => ({ q.1 with drains := w ++ q.1.drains, stall := true }, q.2)

/-- Every requesting lane worked out. -/
def attrAll (ag : Agent) (p : Pass) (recs : List BufRec) (deriv : Bool) (ent xy : Nat → Nat) (lanes : List Nat) (s : State) :
    AttrOut × State :=
  lanesAll (List.replicate (attrWords (recs.length - 1) deriv) 0) (fun l t => t.attrLane ag p recs deriv l (ent l) (xy l)) lanes s

/-- An engine's operation whose lanes cannot all be performed, which then performs none (09 R250): a trap, or a wait for translations or
for earlier accesses. -/
def State.engineStop (s : State) (is : Issue) (path : Nat) (r : AttrOut) : State :=
  if !r.faults.isEmpty then
    let ti := trapOfLanes r.faults path 0
    (s.dropRefusals ti).takeCause is.ag .fault ti
  else if !r.ats.isEmpty then s.waitAts is.ag r.ats.eraseDups
  else s.blockRetry is.ag (.drain r.drains.eraseDups)

/-- Is every lane worked out? -/
def AttrOut.all (r : AttrOut) : Bool := r.faults.isEmpty && r.ats.isEmpty && !r.stall

/-- An ATTR's operation with its records. -/
def attrFlight (o : Opw) (s : State) (is : Issue) (vals : List (Nat × List Nat × Bool)) (n : Nat) (extra : List Acc) : State :=
  let toQ := match opnd o.dst with | .q _ => true | _ => false
  let dest := match opnd o.dst with | .v b => Dest.v b n 0 | .q k => .q k n | _ => .none
  s.issueFlight { newFlight s is (.attr o) 2 with
    rd := true, dest := dest, mask := maskOf (vals.map (·.1)),
    accs := extra ++ vals.map fun e =>
      { devAcc .none with lane := e.1, res := wordsNum e.2.1, done := !toQ, poisoned := e.2.2 } }

/-- ATTR's effect (12 R329, R330). -/
def attrEffect (o : Opw) (s : State) (is : Issue) : State :=
  let gm := guardMask s is o
  if gm = 0 then s else
  match is.ag with
  | .ctx _ => s
  | .gang gid _ =>
    match s.gang? gid with
    | none => s
    | some g =>
      let b := o.imm.toNat % 256
      let na := o.imm.toNat / 256 % 32
      let deriv := o.imm.getLsbD 13
      let lanes := s.lanesAg is.ag gm
      let wait := s.ordWait is.ag 2 true false
      if s.counterFull is.ag 2 then s.blockRetry is.ag .inflight
      else if g.passAddr = 0 then s.causeAt is o cPROT
      else if !wait.isEmpty then s.blockRetry is.ag (.drain wait)
      else
        match s.agFetch is.ag 2 0 g.passAddr 128 with
        | .ats pg t => (s.tried t).waitAts is.ag [pg]
        | .drain l t => (s.tried t).blockRetry is.ag (.drain l)
        | .fault fa t => (t.dropRefusals (trapOfLanes [fa] 2 0)).takeCause is.ag .fault { trapOfLanes [fa] 2 0 with fmask := gm }
        | .poison t =>
          (attrFlight o t is (lanes.map fun l => (l, List.replicate (attrWords na deriv) 0, true)) (attrWords na deriv) [])
        | .ok x t =>
          let p := parsePass g.passAddr (s.pasidOf is.ag) (s.partOf is.ag) (s.unitOf is.ag) x
          if p.bad then
            attrFlight o t is (lanes.map fun l => (l, List.replicate (attrWords na deriv) 0x7FC00000, false))
              (attrWords na deriv) [devAcc (.errs g.passAddr (s.partOf is.ag) 16)]
          else
            match attrRecs is gm b (na + 1) t with
            | .error (.trap ti u) => ((s.tried u).dropRefusals ti).takeCause is.ag .fault ti
            | .error (.ats ps u) => (s.tried u).waitAts is.ag ps
            | .error (.drain fls u) => (s.tried u).blockRetry is.ag (.drain fls)
            | .error (.poison u) =>
              attrFlight o u is (lanes.map fun l => (l, List.replicate (attrWords na deriv) 0, true)) (attrWords na deriv) []
            | .error (.ok _ _) => s
            | .ok (recs, t1) =>
              let v := fun (n l : Nat) => srcVal s is o (.reg 1 1 1) (BitVec.ofNat 10 n) .raw 1 [] l
              let r := attrAll is.ag p recs deriv (fun l => v 0 l + 2 ^ 32 * v 1 l) (v 2) lanes t1
              if r.1.all then attrFlight o r.2 is r.1.vals (attrWords na deriv) [] else (s.tried r.2).engineStop is 2 r.1

/-- ILLOP of ATTR beyond its shape (12 R329): a scalar destination, or records beyond the table. -/
def attrBad (o : Opw) (s : State) (is : Issue) : Bool :=
  (match opnd o.dst with | .v _ => false | .q _ => false | _ => true) ||
    match is.ag with
    | .gang gid _ => (s.gang? gid).any fun g => decide (o.imm.toNat % 256 + o.imm.toNat / 256 % 32 ≥ (s.khOf g).bufcnt)
    | .ctx _ => true

/-- QBIND for a queue that is not bound to ATTR_RES. -/
def attrPort (o : Opw) (s : State) (is : Issue) : Nat :=
  match opnd o.dst, is.ag with
  | .q n, .gang gid _ => if (s.gang? gid).any fun g => g.port n == 4 then 0 else cQBIND
  | _, _ => 0

/-- ATTR (12 R329, R330): V0 to V2 are read besides the operands. -/
def execAttr (o : Opw) (s : State) : OutC :=
  issueOp (.attr o) o s (attrBad o s) (fun _ => [.v 0, .v 1, .v 2]) (attrPort o s) (attrEffect o s)

/-! ### PIXLK and PIXUL -/

/-- The requests of PIXLK and PIXUL: one word per lane. -/
def pixReqs (i : Instr) (o : Opw) (s : State) (is : Issue) (acc : Access) (lanes : List Nat) (pp : List W32 × List W32 × List W32) :
    List AReq :=
  let sh := shape false i
  lanes.map fun l =>
    { lane := l, va := genAddr o (srcVal s is o sh.a o.a .raw 1 pp.1 l) (srcVal s is o sh.b o.b .raw 2 pp.2.1 l),
      size := 4, align := 4, acc := acc }

/-- PIXLK's effect (08 R246, 14 R422): the words are translated at once; the fragment is held until every one equals its
ticket. -/
def pixlkEffect (o : Opw) (s : State) (is : Issue) : State :=
  let sh := shape false (.pixlk o)
  let gm := guardMask s is o
  let pp := takePops s is sh o
  if gm = 0 then pp.2 else
  let lanes := s.lanesAg is.ag gm
  let reqs := pixReqs (.pixlk o) o s is .rmw lanes pp.1
  let s0 := s.noteTried is.ag reqs
  match s.checkAll is.ag 6 0 noReg reqs with
  | .trap ti => (s0.dropRefusals ti).takeCause is.ag .fault ti
  | .ats ps => s0.waitAts is.ag ps
  | .hold va m => s0.waitHold is va 6 .rmw m
  | .ok l =>
    let t := (takePops (((s.noteAll is.ag l).dropHold is.ag).dropFar (s.pasidOf is.ag)) is sh o).2
    let f := t.inOrder { newFlight t is (.pixlk o) 6 with
               cnt := false, rd := true, accs := l.map fun (e : AReq × TrOk) => accOf t is e.1 e.2 (.rd 4),
               lw := lanes.map fun k => (k, [srcVal s is o sh.c o.c .raw 3 pp.1.2.2 k % 2 ^ 32]) }
    ({ t with flights := t.flights.put f.id f, nextId := t.nextId + 1 }).blockAfter is.ag .pixlk

/-- PIXLK (14 R422). -/
def execPixlk (o : Opw) (s : State) : OutC := issueOp (.pixlk o) o s noBad noRd noMore (pixlkEffect o s)

/-- The wait of a fragment at PIXLK. -/
def State.pixWait (s : State) (gid fid : Nat) : Option Flight :=
  (s.flights.filter fun e => e.2.ag == .gang gid fid &&
    match e.2.instr with | .pixlk _ => true | _ => false).head?.map (·.2)

/-- PIXUL's effect (08 R246, 14 R422): k + 1 is written after every earlier access of the fragment on any path. -/
def pixulEffect (o : Opw) (s : State) (is : Issue) : State :=
  let sh := shape false (.pixul o)
  let gm := guardMask s is o
  let pp := takePops s is sh o
  if s.counterFull is.ag 6 then s.blockRetry is.ag .inflight else
  let lanes := s.lanesAg is.ag gm
  let earlier := s.allEarlier is.ag
  let reqs := pixReqs (.pixul o) o s is .write lanes pp.1
  memAccess s is 6 0 (regAccess 4) reqs (fun t l =>
    let u := t.issueFlight { newFlight t is (.pixul o) 6 with
      wr := true, rel := true, mask := performed lanes reqs l,
      accs := l.map fun e => accOf t is e.1 e.2
        (.wr 4 ((srcVal s is o sh.c o.c .raw 3 pp.1.2.2 e.1.lane + 1) % 2 ^ 32) 0) }
    { u with flights := u.flights.upd (fun (f : Flight) => { f with after := (f.after ++ earlier).eraseDups }) t.nextId })
    (fun t => (takePops t is sh o).2)

/-- PIXUL (14 R422). -/
def execPixul (o : Opw) (s : State) : OutC := issueOp (.pixul o) o s noBad noRd noMore (pixulEffect o s)

end Sys2Proof.Machine
end

