-- ==== Sys2Proof/Machine/Reset.lean ====
section
/-!
DEFINITION. The resets of Table 10.7 (10 R294-R297).
-/
namespace Sys2Proof.Machine

/-- Operations whose agents are gone: their writes are still applied (06 R179), as notices without an agent; the others, and
what is left of mash and tensor-movement operations, are dropped. -/
def State.orphan (s : State) (gone : Agent → Bool) : State :=
  { s with flights := s.flights.filterMap fun e =>
      if !(gone e.2.ag) || e.2.path == 8 then some e
      else if e.2.wr && e.2.accs.all (fun a => decide (a.lane < 1024)) && (e.2.path == 0 || e.2.path == 5 || e.2.path == 6) && e.2.accs.any (fun a => !a.done) then
        let f : Flight := { e.2 with path := 8, cnt := false, dest := .none, invals := [], acq := false, grant := 0,
                                     withdrawn := false, clash := [] }
        some (e.1, f)
      else none }

/-- Is an agent one of a partition's? -/
def State.agentIn (s : State) (part : Nat) : Agent → Bool
  | .gang gid _ => match s.gang? gid with
    | some g => ((s.wgOf g).map (·.part)) == some part
    | none => false
  | .ctx n => partOfCluster (ctxCluster n) == part

/-- A partition reset (10 R294, Table 10.7). Its queues are those that its partition alone may use: one whose PART_MASK names several keeps its
enable, the model's choice (log entry 42). -/
def State.partitionReset (s : State) (n : Nat) : State :=
  let mine := fun (cluster : Nat) => partOfCluster cluster == n
  let s1 := s.orphan (s.agentIn n)
  let wgs := s1.wgs.filter fun e => e.2.part != n
  let gangs := s1.gangs.filter fun e => (Tab.find? wgs e.2.wid).isSome
  let pins := s1.pins.filter fun p => p.part == n
  { s1 with
    wgs := wgs, gangs := gangs,
    grids := s1.grids.filter fun e => e.2.lr.part != n,
    entries := s1.entries.filter fun e => e.part != n,
    images := s1.images.filter fun x => x.1 != n,
    swapped := s1.swapped.era n, shadows := s1.shadows.del n,
    queues := s1.queues.map fun e =>
      (e.1, if e.2.partMask % 256 == 2 ^ n then { e.2 with qflags := e.2.qflags &&& ~~~1#32, enabling := none } else e.2),
    dcs := s1.dcs.clear (512 * n) 512,
    ctxs := s1.ctxs.filter fun e => !(mine (ctxCluster e.1)),
    cmdqs := s1.cmdqs.filter fun e => !(mine (e.1 / 4)),
    lfHeld := s1.lfHeld.filter fun r => r.part != n,
    pending := s1.pending.filter fun p => p.part != n,
    graphs := s1.graphs.filter fun e => e.2.part != n,
    mcs := s1.mcs.filter fun m => m.part != n,
    hubs := s1.hubs.filter fun h => h.part != n,
    gens := s1.gens.filter fun e => e.2.1 != n,
    latches := s1.latches.filter fun e => match s1.grids.find? e.2.grid with | some g => g.lr.part != n | none => false,
    kilns := s1.kilns.filter fun e => !(mine e.1),
    rast := s1.rast.filter fun e => !(mine e.1),
    seals := s1.seals.filter fun e => !(mine e.1),
    scans := s1.scans.filter fun e => !(mine e.1),
    bins := s1.bins.filter fun b => !(mine b.cluster),
    pins := s1.pins.filter fun p => p.part != n,
    pinWait := s1.pinWait.filter fun w => w.pin.part != n,
    l2old := s1.l2old.filter fun e => !(pins.any fun p => p.keys.any fun k => decide (k ≤ e.1 ∧ e.1 < k + 4096)),
    tiles := s1.tiles.filter fun t => (Tab.find? gangs t.1).isSome,
    rays := s1.rays.filter fun r => (Tab.find? s1.flights r.2.fl).isSome,
    issue := none,
    latch := match s1.latch with | some a => if s.agentIn n a then none else some a | none => none }

/-- The repair record in use (10 R295): the valid copy with the higher sequence number. -/
def bestRecord (l : List RepairRec) : Option RepairRec := maxBy (fun r => r.seq) (l.filter (·.valid))

/-- The soft-repair settings after a reset (10 R295): from the record; with none, the regions in need of a repair
schedule it from their canaries. -/
def State.applyRecord (old : State) (t : State) : State :=
  match bestRecord old.repair with
  | some r =>
    { t with soft := r.spares, regions := r.spares.map fun e => (e.1, { Region.reset with spares := e.2 }) }
  | none =>
    let need := old.regions.filter fun e => e.2.spares > 0 || e.2.scheduled
    { t with
      dev := { t.dev with recbad := true },
      regions := need.map fun e => (e.1, { Region.reset with scheduled := true }) }

/-- What every reset keeps of the device block (10 R294, Table 10.6): the retired units and the regions without spares;
RECOVERY follows the boot ROM's check of the image (10 R296). -/
def State.keepHealth (old : State) (t : State) : State :=
  { t with
    cores := old.cores, slices := old.slices, retiredCores := old.retiredCores, retiredSlices := old.retiredSlices,
    repair := old.repair, flash := old.flash, flashOk := old.flashOk, flashNew := old.flashNew,
    dev := { t.dev with replace := old.dev.replace, nospare := old.dev.nospare, recovery := !old.flashOk },
    hostWrites := old.hostWrites, hostSeen := old.hostSeen, agenda := old.agenda, fresh := old.fresh, nextId := old.nextId, journal := old.journal }

/-- Retained lines whose routes may depend on soft repairs become poison when no valid record is left (10 R295): of tiers 0 and 1, any line of
such a slice that L2 holds. -/
def State.poisonRetained (old : State) (t : State) : State :=
  if !t.dev.recbad || !(old.regions.any fun e => e.2.spares > 0) then t else
  let lines := [0, 1].flatMap fun tier => (List.range (2 ^ 45)).map fun i => tier * 2 ^ 53 + i
  let bad := lines.filter fun x => (old.regions.any fun e => e.1 / 10 == old.homeOf (x * 128) && e.2.spares > 0) &&
    old.pick (2 ^ 54 + x)
  { t with poison := bad.foldl (fun p x => (List.range 4).foldl (fun q i => NSet.ins q (4 * x + i)) p) t.poison }

/-- The lines that are dirty when L2 is lost: any of those written, but no slice holds more than its 2 MiB (01 R18), 16,384 lines; the others
were written back before (05 R132). -/
def State.lostLines (s : State) : List Nat :=
  let l := (s.l2old.map fun e => e.1 / 128).eraseDups.filter fun x => s.pick (2 ^ 42 + x)
  if l.length ≤ 16384 then l
  else (List.range 320).flatMap fun k => (l.filter fun x => s.homeOf (x * 128) == k).take 16384

/-- The bytes that GDDR holds for lines dirty in L2 come back when L2 is lost (05 R132, 10 R294). -/
def State.loseL2 (s : State) : List JW :=
  let lost := s.lostLines
  s.l2old.filterMap fun e => if lost.contains (e.1 / 128) then some (.back e.1 e.2) else none

/-- A warm reset (10 R294, R295); `retain`: L2 data are kept. -/
def State.warmReset (s : State) (retain : Bool) : State :=
  let t0 : State := { State.reset with mem := s.mem, poison := s.poison, zbBlocks := s.zbBlocks,
                                       l2old := if retain then s.l2old else [] }
  let t1 := State.applyRecord s (State.keepHealth s t0)
  let t2 : State := { t1 with dev := { t1.dev with chipid := s.dev.chipid, stepping := s.dev.stepping, fwver := s.dev.fwver } }
  if retain then State.poisonRetained s t2 else { t2 with journal := s.loseL2 ++ t2.journal }

/-- A cold reset (10 R294, R296): everything outside flash is cleared, and a new image takes effect. -/
def State.coldReset (s : State) : State :=
  let t0 : State := { State.reset with mem := s.mem }
  let t1 := State.applyRecord s (State.keepHealth s t0)
  let img := s.flashNew.getD s.flash
  let ok := match s.flashNew with | some i => Config.imageValid i | none => s.flashOk
  { t1 with
    flash := img, flashOk := ok, flashNew := none,
    poison := s.poison.filter fun p => decide (p * 32 ≥ 2 ^ 61),
    dev := { t1.dev with stepping := s.dev.stepping, fwver := s.dev.fwver, recovery := !ok },
    journal := .lose 0 (2 ^ 61) :: t1.journal }

/-- COLD_RESET (10 R294). -/
def execColdReset (s : State) : OutC := runEv s s.coldReset

/-- WARM_RESET (10 R294): PCIe hot reset, PERST# with power held, or the watchdog. -/
def execWarmReset (s : State) : OutC := runEv s (s.warmReset (s.dev.devctl.getLsbD 1))

/-- FUNCTION_LEVEL_RESET (10 R294): as warm, with RETAIN ignored. -/
def execFunctionLevelReset (s : State) : OutC := runEv s (s.warmReset false)

/-- THERMAL_TRIP (10 R289): a junction above 115 °C forces a cold reset. -/
def execThermalTrip (celsius : Nat) (s : State) : OutC := if celsius > 115 then runEv s s.coldReset else .next s

end Sys2Proof.Machine
end

