-- ==== Sys2Proof/Machine/Home.lean ====
section
/-!
DEFINITION. What an access does where it acts: at its home, in an L1, or in scratchpad (05 R129-R134, R140-R142, R154;
06 R180-R185; 10 R283, R284).
-/
namespace Sys2Proof.Machine

/-! ### Home operations -/

/-- The types of Table 12.1 as the reductions number them; packed halves apart. -/
def Ty.code : Ty → Nat
  | .s32 => 0
  | .z32 => 1
  | .f32 => 2
  | .s64 => 3
  | .z64 => 4
  | .f64 => 5
  | .bf2 => 6
  | .hf2 => 7

/-- A sum of two packed halves, each alone (05 Table 5.2). -/
def halfSum (f : FFmt) (x y : Nat) : Nat :=
  (fpAdd f 0 (x % 2 ^ 16) (y % 2 ^ 16)).1 + 2 ^ 16 * (fpAdd f 0 (x / 2 ^ 16) (y / 2 ^ 16)).1

/-- A home operation (05 Table 5.2, 12 R326): the new value and the value returned. `x` and `y` are the operands in the order
SRCC holds them. -/
def homeFn (f : HomeFn) (old x y : Nat) : Nat × Nat :=
  match f with
  | .add w => ((old + x) % 2 ^ w, old)
  | .addLim w => if old + x > y then (old, 2 ^ w - 1) else ((old + x) % 2 ^ w, old)
  | .fadd .bf2 => (halfSum bf16 old x, old)
  | .fadd .hf2 => (halfSum fp16 old x, old)
  | .fadd t => ((redOp 0 (Ty.code t) 0 old x).1, old)
  | .min t => ((redOp 1 (Ty.code t) 0 old x).1, old)
  | .max t => ((redOp 2 (Ty.code t) 0 old x).1, old)
  | .cas _ => (if old = x then y else old, old)
  | .exch _ => (x, old)
  | .scaleAcc t =>
    let g := redFmt (Ty.code t)
    ((g.finish 0 ((g.decode x).fma 0 (g.decode y) (g.decode old))).1, old)
  | .gath8 => (old, old)

/-- The bytes of a home operation's operand. -/
def HomeFn.bytes : HomeFn → Nat
  | .add w => w / 8
  | .addLim w => w / 8
  | .fadd t => redW (Ty.code t % 6) / 8
  | .min t => redW (Ty.code t) / 8
  | .max t => redW (Ty.code t) / 8
  | .cas w => w / 8
  | .exch w => w / 8
  | .scaleAcc t => redW (Ty.code t) / 8
  | .gath8 => 128

/-- A count barrier's fields (05 Table 5.4) as one number of 32 bytes, from PHASE, ARRIVE_EXPECT, ARRIVE_COUNT, the reserved
word, BYTES_EXPECT and BYTES_DONE. -/
def cbPack (phase ae ac rsv be bd : Nat) : Nat :=
  phase % 2 ^ 32 + 2 ^ 32 * (ae % 2 ^ 32) + 2 ^ 64 * (ac % 2 ^ 32) + 2 ^ 96 * (rsv % 2 ^ 32) + 2 ^ 128 * (be % 2 ^ 64) +
    2 ^ 192 * (bd % 2 ^ 64)

/-- CBINIT on a count barrier's bytes (05 Table 5.5). -/
def cbInitFn (x ae be : Nat) : Nat := cbPack x ae 0 (x / 2 ^ 96) be 0

/-- An arrival on a count barrier's bytes, and the completion of its phase (05 Table 5.5). -/
def cbArriveFn (x n bytes : Nat) : Nat :=
  let ae := natBits x 63 32
  let be := natBits x 191 128
  let ac := min (natBits x 95 64 + n) (2 ^ 32 - 1)
  let bd := min (natBits x 255 192 + bytes) (2 ^ 64 - 1)
  if ac ≥ ae ∧ bd ≥ be then cbPack (x % 2 ^ 32 + 1) ae 0 (x / 2 ^ 96) be 0
  else cbPack x ae ac (x / 2 ^ 96) be bd

/-! ### Operations at a location -/

/-- A read-modify-write at a spot's home: the state, the result, and whether it met poison. -/
def State.spotUpdate (s : State) (p : Spot) (n : Nat) (f : Nat → Nat × Nat) : State × Nat × Bool :=
  let r := s.spotRead p n
  if r.2 then (s, 0, true)
  else
    let v := f r.1
    let w := s.spotWrite p n (v.1 % 256 ^ n) 0 true
    if w.2 then (s, 0, true) else (w.1, v.2, false)

/-- A count-barrier operation at a spot's home: after it the barrier is in use, unless it has completed its phase (log entry 81). -/
def State.cbUpdate (s : State) (p : Spot) (f : Nat → Nat) : State × Nat × Bool :=
  let old := (s.spotRead p 32).1
  let r := s.spotUpdate p 32 fun x => (f x, 0)
  if r.2.2 then r else
  match p with
  | .mem k _ =>
    let gone := decide ((f old) % 2 ^ 32 ≠ old % 2 ^ 32)
    ({ r.1 with cbUse := if gone then r.1.cbUse.era (k / 32) else r.1.cbUse.ins (k / 32) }, r.2)
  | .scr _ _ => r

/-- Bits [off + len - 1 : off] of a number replaced. -/
def putBits (x off len v : Nat) : Nat :=
  x % 2 ^ off + 2 ^ off * (v % 2 ^ len) + 2 ^ (off + len) * (x / 2 ^ (off + len))

/-- An element's bits written at a spot, its neighbours in the same bytes kept (05 R154). -/
def State.spotBits (s : State) (p : Spot) (off len v table : Nat) : State × Bool :=
  let n := ceilDiv (off + len) 8
  if off = 0 ∧ len = 8 * n then s.spotWrite p n (v % 2 ^ len) table false
  else
    let r := s.spotRead p n
    if r.2 then (s, true) else s.spotWrite p n (putBits r.1 off len v) table false

/-- GATH8's eight words (05 R130, R131): poison counts only in the sectors read. -/
def State.spotGather (s : State) (p : Spot) (idx : Nat) : Nat × Bool :=
  (List.range 8).foldr (fun i a =>
    let r := s.spotRead (p.at (4 * (idx / 256 ^ i % 32))) 4
    (r.1 + 2 ^ 32 * a.1, r.2 || a.2)) (0, false)

/-- A blocked fragment becomes ready. -/
def State.unblock (s : State) (gid fid : Nat) : State :=
  s.updFrag gid fid fun f => { f with stat := .ready, readyAt := max f.readyAt (s.cycleOf (.gang gid fid)) }

/-- The fragments of a gang blocked in MWAIT: each with its deadline and K register. -/
def State.mwaiters (s : State) (gid : Nat) : List (Nat × Nat × Nat) :=
  match s.gang? gid with
  | none => []
  | some g => g.frags.filterMap fun e => match e.2.stat with | .blocked (.mwait d k) => some (e.1, d, k) | _ => none

/-- One firing releases every fragment of the gang blocked in MWAIT, or the context, with K set (14 R412). -/
def State.fireWaits (s : State) (ag : Agent) : State :=
  match ag with
  | .gang gid _ => (s.mwaiters gid).foldl (fun (t : State) e => (t.wrK ag e.2.2 true).unblock gid e.1) s
  | .ctx n =>
    match (s.ctx n).stat with
    | .waiting _ k none => (s.wrK ag k true).updCtx n fun c => { c with stat := .running, readyAt := max c.readyAt s.cycle }
    | _ => s

/-- The monitor of an agent armed on the line of a key (14 R411); a firing that has not yet released those that wait does so first. -/
def State.armMon (s : State) (ag : Agent) (key va : Nat) : State :=
  let m : Monitor := { line := key / 128, va := va, armed := true, fired := false }
  let s := if (s.monOf ag).fired then s.fireWaits ag else s
  match ag with
  | .gang gid _ => s.updGang gid fun g => { g with mon := m }
  | .ctx n => s.updCtx n fun c => { c with mon := m }

/-- A range of memory brought to zero (09 R262, log entry 10): on a ZB page each block is a constant one. -/
def State.zeroRange (s : State) (key n : Nat) (zb : Bool) : State :=
  let s1 := { s.shown 0 key n with poison := s.poison.filter fun p => !(decide (key ≤ p * 32 ∧ p * 32 < key + n)) }
  if zbHere key zb then
    let hk := s1.zbHdrKey key
    (List.range (n / 512)).foldl (fun (t : State) i => (t.markBlock (key / 512 + i)).pokeN (hk + 8 * i) 8 2) s1
  else { s1 with journal := .zeros key n :: s1.journal }

/-- A stored scale read by its pieces, with its poison. -/
def State.scaleRead (s : State) (l : List (Nat × Nat)) : Nat × Bool :=
  l.foldr (fun e a =>
    let r := s.memRead (e.1 / 2) e.2 (e.1 % 2 = 1)
    (r.1 + 256 ^ e.2 * a.1, r.2 || a.2)) (0, false)

/-- Lines written back to memory, and with `ev` marked first to evict unless they are pinned (12 R346, R347): on a ZB page whole blocks, with
their headers. -/
def State.writeBack (s : State) (key n : Nat) (zb ev : Bool) : State :=
  let lo := if zbHere key zb then key / 512 * 512 else key
  let hi := if zbHere key zb then alignUp (key + n) 512 else key + n
  let hk := s.zbHdrKey lo
  let inHdr := fun (x : Nat) => zbHere key zb && decide (hk / 128 * 128 ≤ x ∧ x < alignUp (hk + (hi - lo) / 64) 128)
  let lines := (List.range ((hi - lo) / 128)).map fun i => lo / 128 + i
  { s with l2old := s.l2old.filter fun e => !(decide (lo ≤ e.1 ∧ e.1 < hi) || inHdr e.1),
           l2first := if ev then
               (lines.filter fun x => !(s.pins.any fun q => q.keys.contains (x / 32 * 4096))).foldl NSet.ins s.l2first
             else s.l2first }

/-- An operation carried out at a spot: the state, the result, and whether it met poison. -/
def State.spotOp (s : State) (ag : Agent) (p : Spot) (op : HomeOp) : State × Nat × Bool :=
  let plain := fun (r : State × Bool) => (r.1, (0, r.2))
  match op with
  | .rd n => let r := s.spotRead p n; (s, r.1, r.2)
  | .wr n v table => plain (s.spotWrite p n v table false)
  | .wbits off len v table => plain (s.spotBits p off len v table)
  | .welem fmt off v scale kind table lo len =>
    let r := s.scaleRead scale
    if r.2 then (s, 0, true)
    else plain (s.spotBits p off len (storedElem fmt (wordVal fmt v) (scaleVal kind r.1) / 2 ^ lo) table)
  | .rmw f x y n => s.spotUpdate p n fun old => homeFn f old x y
  | .gath idx => let r := s.spotGather p idx; (s, r.1, r.2)
  | .cbInit ae be => s.cbUpdate p fun x => cbInitFn x ae be
  | .cbArrive n bytes => s.cbUpdate p fun x => cbArriveFn x n bytes
  | .cbRead => let r := s.spotRead p 4; (s, r.1, r.2)
  | .or64 m => s.spotUpdate p 8 fun x => (x ||| m, x)
  | .monArm n va =>
    let r := if n = 0 then (0, false) else s.spotRead p n
    match p with
    | .mem k _ => (s.armMon ag k va, r.1, r.2)
    | .scr _ _ => (s, r.1, r.2)
  | .leafZero n =>
    match p with
    | .mem k z => (s.zeroRange k n z, 0, false)
    | .scr _ _ => (s, 0, false)
  | .wback n ev =>
    match p with
    | .mem k z => (s.writeBack k n z ev, 0, false)
    | .scr _ _ => (s, 0, false)
  | _ => (s, 0, false)

/-! ### L1 -/

/-- A line of a core's L1. -/
def State.l1Line (s : State) (core key : Nat) : Option L1Line :=
  s.l1.find? fun l => l.core == core && l.line == key / 128

/-- May a read be served from L1 (05 R132, 06 R176, R179, R181)? -/
def Flight.mayL1 (f : Flight) (a : Acc) : Bool :=
  (match f.instr with | .ld _ => true | .ldk _ => true | _ => false) && f.path == 0 && !(f.acq && decide (f.scope ≥ 2)) &&
    (match a.op with | .rd _ => true | _ => false) &&
    match a.loc with
    | .mem k tso _ => !tso && decide (keyTier k ≤ 2)
    | _ => false

/-- The value that the lines held for an agent give a read; none when L1 holds not all of it, or the home has been seen to hold newer bytes. -/
def State.l1Value (s : State) (f : Flight) (key n : Nat) : Option Nat :=
  (List.range n).foldr (fun i a =>
    match s.l1Line (s.l1Core f.ag f.core (key + i)) (key + i), a with
    | some l, some x =>
      if l.behind.has ((key + i) % 128) then none else some ((l.data.getD ((key + i) % 128) 0).toNat + 256 * x)
    | _, _ => none) (some 0)

/-- A held line with the bytes of a number in place of its own from a key on. -/
def L1Line.patch (l : L1Line) (key n v : Nat) : L1Line :=
  let at_ := fun (o : Nat) => decide (key ≤ l.line * 128 + o ∧ l.line * 128 + o < key + n)
  { l with
    data := l.data.zipIdx.map fun e => if at_ e.2 then BitVec.ofNat 8 (v / 256 ^ (l.line * 128 + e.2 - key)) else e.1,
    behind := l.behind.filter fun o => !(at_ o) }

/-- A held line that the home has been seen to be ahead of, in some bytes from a key on. -/
def L1Line.outrun (l : L1Line) (key n : Nat) : L1Line :=
  { l with behind := ((List.range 128).filter fun o => decide (key ≤ l.line * 128 + o ∧ l.line * 128 + o < key + n)).foldl NSet.ins l.behind }

/-- The L1 lines of the agent that an access touches, changed; without `f` they go. -/
def State.l1Touch (s : State) (f : Flight) (a : Acc) (g : Option (L1Line → L1Line)) : State :=
  let lines := a.lines.map (·.2)
  let mine := fun (l : L1Line) => lines.contains l.line && l.core == s.l1Core f.ag f.core (l.line * 128)
  match g with
  | some g => { s with l1 := s.l1.map fun l => if mine l then g l else l }
  | none => { s with l1 := s.l1.filter fun l => !(mine l) }

/-- An access's effect on the L1 that serves its agent (05 R132). A home read brings its lines of tiers 0-2 in, as the home has them. A
store updates the bytes that are present, as the home has them after it. A non-temporal access leaves L1 unchanged: the bytes that it has
found or made newer at home are only noted, so that no later load of the path sees them older (06 R169, R176). Any other access of the
agent's path drops the lines that it touches (log entry 77). -/
def State.l1After (s : State) (f : Flight) (a : Acc) (poisoned : Bool) : State :=
  if f.path ≠ 0 || poisoned then s else
  match a.loc with
  | .mem k tso z =>
    if keyTier k > 2 then s
    else if f.nt then s.l1Touch f a (some (·.outrun k a.op.size))
    else
      match a.op with
      | .rd _ =>
        if tso then s
        else (a.lines.map (·.2)).foldl (fun (t : State) x => t.fillL1 (t.l1Core f.ag f.core (x * 128)) (x * 128) z) (s.l1Touch f a none)
      | op =>
        if op.writeOnly then s.l1Touch f a (some (·.patch k op.size (s.memRead k op.size z).1)) else s.l1Touch f a none
  | _ => s

/-! ### What a read may find, and what a write leaves to be found -/

/-- Where an access's bytes stand, as the records of replaced bytes name it: memory (0) or 1 more than the workgroup. -/
def Loc.place? : Loc → Option (Nat × Nat)
  | .mem k _ _ => if keyTier k = poisonTier then none else some (0, k)
  | .scr w o => some (w + 1, o)
  | _ => none

/-- Need a read not be a home read (06 R176): it is a load, no acquire at cluster scope or wider, and of no TSO page and not of host
memory (R181, R185)? -/
def Flight.mayOld (f : Flight) (a : Acc) : Bool :=
  (match f.instr with | .ld _ => true | .ldk _ => true | .lds _ => true | .imld _ => true | _ => false) && !(f.acq && decide (f.scope ≥ 2)) &&
    (match a.op with | .rd _ => true | _ => false) &&
    match a.loc with
    | .mem k tso _ => !tso && keyTier k != 3
    | .scr _ _ => true
    | _ => false

/-- A read that need not act at its home, and the state after it: it finds L1's bytes (05 R132), or bytes that a write through another path
has replaced (06 R178); none when it has to act at its home. -/
def State.earlyRead (s : State) (f : Flight) (a : Acc) : Option (Nat × State) :=
  if !(f.mayOld a) then none else
  match a.loc.place?, a.loc.spot?, a.op with
  | some (w, base), some p, .rd n =>
    let find := fun (v : Nat) => s.foundBy f.ag f.path w base n v
    let seen := fun (v : Nat) => s.afterFound f.ag f.path w base n v false
    match (if f.mayL1 a then s.l1Value f base n else none) with
    | some v => some (find v, seen v)
    | none =>
      let r := s.spotRead p n
      if r.2 || find r.1 = r.1 then none else some (find r.1, (seen r.1).l1Touch f a (if f.nt then some (·.outrun base n) else none))
  | _, _, _ => none

/-- Has an operation bytes of its own at its location? -/
def HomeOp.bytes : HomeOp → Bool
  | .rd _ => true
  | .wr _ _ _ => true
  | .wbits _ _ _ _ => true
  | .welem _ _ _ _ _ _ _ _ => true
  | .rmw _ _ _ _ => true
  | .gath _ => true
  | .cbInit _ _ => true
  | .cbArrive _ _ => true
  | .cbRead => true
  | .or64 _ => true
  | .monArm _ _ => true
  | .merge _ _ _ _ _ _ => true
  | .refsDec _ _ _ => true
  | _ => false

/-- An access of a path applied at its home, from `s` to `t`: later reads of the path find no older bytes than it found (06 R176), and those
of other paths may find the bytes that it has replaced (06 R178). -/
def State.actedAt (s t : State) (f : Flight) (a : Acc) (poisoned : Bool) : State :=
  match a.loc.place?, a.loc.spot? with
  | some (w, base), some p =>
    if poisoned || !a.op.bytes then t else
    if f.path > 6 then (if a.op.readOnly then t else t.shown w base a.op.size) else
    let n := a.op.size
    let old := (s.spotRead p n).1
    let t1 := if a.op.writeOnly then t else t.afterFound f.ag f.path w base n old true
    if a.op.readOnly then t1 else t1.replaced f.path w base n old (t.spotRead p n).1
  | _, _ => t

/-! ### Requests to other chips -/

/-- Is an access a request to a chip that no route reaches (10 R284)? -/
def State.unreachable (s : State) (a : Acc) : Bool :=
  match a.loc with
  | .mem k _ _ => s.farKey k
  | _ => false

/-- A request to a chip without a route begins its hold (10 R284). -/
def State.markFar (s : State) (f : Flight) : State :=
  { s with flights := s.flights.put f.id { f with accs := f.accs.map fun a =>
      if (!a.done) && (s.unreachable a || f.path == 4) && a.waitSince == 0 then { a with waitSince := s.cycle + 1 } else a } }

/-- Does a retraining slice port hold an access (10 R287)? -/
def State.accHeld (s : State) (f : Flight) (a : Acc) : Bool :=
  match a.loc with
  | .mem k _ _ => s.portHeld k f.born
  | _ => false

/-- Every request of an operation has been acknowledged. -/
def State.acked (s : State) (fl : Nat) : State :=
  { s with streams := s.streams.map fun x => { x with unacked := x.unacked.filter fun u => u.2 != fl } }

end Sys2Proof.Machine
end

