-- ==== Sys2Proof/Machine/Swap.lean ====
section
/-!
DEFINITION. How a workgroup leaves its cores with its state saved (05 R139, 07 R205, 09 R264-R266): the drain, the save, parking,
wait-swap and its wake conditions (03 R81), and the way back into dispatch (03 R70, R71).
-/
namespace Sys2Proof.Machine

/-- Does an operation hold up the save of its gang (05 R139, 07 R205)? A joint MMA goes on, with all its members, to the next multiple of 128
rows (07 R204), unless a member's queue has run dry (log entry 39). -/
def State.holdsSave (s : State) (f : Flight) : Bool :=
  let done := f.accs.all (·.done)
  if f.withdrawn || isMtag f.instr then false
  else if f.path = 4 then
    done || (if isMma f.instr then f.cur % 128 ≠ 0 && (s.mmaMembers f).all fun x =>
                 s.rowReady x && !x.withdrawn && ((s.gang? (gangOf x.ag)).bind s.wgOf).any (·.onChip)
             else s.kilnHas (clusterOf (s.coreOf (gangOf f.ag))) (kilnOp f.id) && s.mldwReady f)
  else match f.instr with
    | .cbwait _ => done
    | .nralloc _ => done
    | .cobar _ => done
    | .cored _ => done
    | _ => f.cnt

/-- Has a workgroup drained? -/
def State.drained (s : State) (w : Wg) : Bool :=
  w.gangs.all fun gid => !((s.flightsOfGang gid).any s.holdsSave)

/-- An operation of a gang that is about to be saved: withdrawn, kept for later, or left alone (05 R139, 07 R205; 09 R270). -/
def State.withdrawOne (s : State) (gid : Nat) (f : Flight) : State :=
  let fid := match f.ag with | .gang _ x => x | .ctx _ => 0
  let again := ({ s with flights := s.flights.del f.id }).updFrag gid fid fun x => { x with pendSeq := false }
  let keep := { s with flights := s.flights.put f.id { f with withdrawn := true } }
  if f.withdrawn then s
  else if f.path = 4 then
    let c := clusterOf (s.coreOf gid)
    (keep.kilnDrop c (kilnOp f.id)).kilnDrop c (kilnLoad f.id)
  else match f.instr with
    | .cbwait _ => again
    | .nralloc _ =>
      { again with graphs := again.graphs.map fun e => (e.1, { e.2 with blocked := e.2.blocked.filter fun b => b != (gid, fid) }) }
    | .cobar _ => keep
    | .cored _ => keep
    | .migrationHoldExpire _ => { s with flights := s.flights.del f.id }
    | _ => s

/-- The grants and requests of a gang's mash operations are given up (07 R217). -/
def State.quitMash (s : State) (gid : Nat) : State :=
  let c := clusterOf (s.coreOf gid)
  (s.mshOps gid).foldl (fun (t : State) f => (t.kilnDrop c (kilnOp f.id)).kilnDrop c (kilnLoad f.id)) s

/-- Planes that come from memory are to be loaded again (07 R205). -/
def Gang.markPlanes (g : Gang) : Gang :=
  let m := fun (p : Plane) => { p with stale := p.stale || p.reload }
  { g with active := m g.active, shadow := m g.shadow }

/-- The register lines of a gang on a retired core that cannot be saved: they read as poison (10 R292). -/
def State.loseLines (s : State) (gid : Nat) : State :=
  match s.gang? gid with
  | none => s
  | some g =>
    if !(s.retiredCores.has g.core) then s else
    let lines := (List.range ((s.khOf g).vregs * (g.width / 8))).filter fun i => s.pick (2 ^ 57 + i)
    s.updGang gid fun x => { x with vbad := lines.foldl (fun b i => (List.range 8).foldl (fun b l =>
      NSet.ins b (vKey (i / (g.width / 8)) (8 * (i % (g.width / 8)) + l))) b) x.vbad }

/-- A gang's state saved with a STATE code: its operations withdrawn, its image and engine block written; its waits go on by the
front end's count (14 R412). -/
def State.saveGang (s : State) (gid st : Nat) (inTable : Bool) : State :=
  let t := (s.flightsOfGang gid).foldl (fun (t : State) f => t.withdrawOne gid f) s
  let swapo := ((s.gang? gid).bind s.wgOf).any (·.swapo)
  let t := ((t.saveImage gid st inTable swapo).updGang gid Gang.markPlanes).loseLines gid
  t.updGang gid fun g =>
    { g with core := offCore, frags := g.frags.map fun e => (e.1, e.2.rebase (· + Tab.get 0 s.lag g.core)) }

/-- Byte `i` of core `c`'s part of a shadow region filled at a count. The core's lines, tiles, scratchpad and planes stand there in an
arrangement that is not given (09 R268; log entry 88): a free byte. -/
def shadowByte (fresh c i : Nat) : Byte := Config.freeByte fresh (2 ^ 48 + 2 ^ 20 * c + i)

/-- A core's part of its partition's shadow region takes its on-chip state (09 R268), where it lies as 10 R276 requires of it (00 R2). -/
def State.fillCore (s : State) (core : Nat) : State :=
  let a := (s.part (core / 32)).shadow.toNat
  let k := core % 32
  if structOk (core / 32) a (2 ^ 25) then
    (List.range 1007616).foldl (fun (u : State) i => u.poke (memKey 0 0 a + 2 ^ 20 * k + i) (shadowByte s.fresh k i)) s
  else s

/-- Does a core's part of the shadow region still hold what was saved there at a count? -/
def State.coreKept (s : State) (core a fresh : Nat) : Bool :=
  let k := core % 32
  (s.part (core / 32)).shadow.toNat == a && structOk (core / 32) a (2 ^ 25) && !(s.poisonIn (memKey 0 0 a + 2 ^ 20 * k) 1007616) &&
    (List.range 1007616).all fun i => s.peek (memKey 0 0 a + 2 ^ 20 * k + i) == shadowByte fresh k i

/-- A workgroup saved off a retired core (10 R292): its cores' parts of the shadow region take its on-chip state. -/
def State.emptyWg (s : State) (wid : Nat) (w : Wg) : State :=
  if w.emptied.isNone || !w.swapo then s else
  let t := w.cores.foldl State.fillCore s
  t.updWg wid fun x => { x with emptied := some (w.cores.map fun c => (c, (s.part (c / 32)).shadow.toNat, s.fresh)) }

/-- Such a workgroup is back on a core: what was changed in the shadow region meanwhile is unspecified, and it is a workgroup as others. -/
def State.refill (s : State) (wid : Nat) : State :=
  match s.wgs.find? wid with
  | none => s
  | some w =>
    match w.emptied with
    | none => s
    | some l =>
      let lost := l.any fun e => !(s.coreKept e.1 e.2.1 e.2.2)
      let poison := l.any fun e => s.poisonIn (memKey 0 0 e.2.1 + 2 ^ 20 * (e.1 % 32)) 1007616
      (if lost then s.loseWg wid w poison else s).updWg wid fun x => { x with emptied := none, swapo := false }

/-- A saved workgroup enters dispatch again, at the head of its level (03 R70, R71). -/
def State.reenter (s : State) (wid : Nat) : State :=
  match s.wgs.find? wid with
  | none => s
  | some w =>
    if s.entries.any (fun e => e.wid == some wid) then s else
    let base := ((s.grids.find? w.grid).map (·.lr.prio)).getD 0
    let e : Entry := { id := s.nextId, part := w.part, grid := w.grid, wid := some wid, base := base, eff := w.prio, rounds := 0,
                       victim := none, room := [] }
    { s with nextId := s.nextId + 1, entries := e :: s.entries }

/-- A stopped workgroup whose operations have drained is saved and gives up its room (09 R264, R265; 03 R81). One that parks
keeps its slots (Table 9.9); a pre-emption that waited for it is over. -/
def State.finishSwap (s : State) (wid : Nat) : State :=
  match s.wgs.find? wid with
  | none => s
  | some w =>
    match w.stat with
    | .swapping k =>
      if k = 3 then
        let t := w.gangs.foldl (fun (t : State) gid => (t.saveImage gid 3 false).quitMash gid) s
        let t := { t.updWg wid (fun x => { x with stat := .parked, forEntry := none }) with
          entries := t.entries.map fun e => if e.victim = some wid then { e with victim := none } else e }
        w.gangs.foldl State.faultPin t
      else if !(s.drained w) then s
      else
        let t := (w.gangs.foldl (fun (t : State) gid => t.saveGang gid k (w.keepsMon gid)) s).emptyWg wid w
        let t := (if w.swapo then t else t.saveScr wid).giveRoom wid (s.roomOf w)
        let t := t.updWg wid fun x => { x with stat := .away k, cores := [], forEntry := none }
        let t := if k = 2 ∨ w.swapo ∨ w.emptied.isSome then w.gangs.foldl State.faultPin t else t
        let answered := t.gangs.any fun e => e.2.wid == wid && decide (e.2.esc ≥ 2)
        if (k = 1 ∧ (!w.swapo ∨ w.emptied.isSome)) ∨ (k = 2 ∧ answered) then t.reenter wid else t
    | _ => s

/-- Is a gang of the workgroup in a handler or waiting for one? -/
def State.trapping (s : State) (wid : Nat) : Bool :=
  s.gangs.any fun e => e.2.wid == wid && (e.2.slot.isSome || e.2.trap.isSome)

/-- PREEMPT_TAKE_EFFECT (09 R265, R266): the workgroup stops at bundle boundaries, and once its operations have drained it is
saved; a halt or a handler defers it, and a last exit wins. -/
def execPreemptTakeEffect (wid : Nat) (s : State) : OutC :=
  match s.wgs.find? wid with
  | none => runEv s s
  | some w =>
    match w.stat with
    | .preempting =>
      if w.halted || s.trapping wid then runEv s s
      else if s.allExited w then runEv s (s.updWg wid fun x => { x with stat := .resident })
      else runEv s ((s.updWg wid fun x => { x with stat := .swapping 1 }).finishSwap wid)
    | .swapping 1 => runEv s (s.finishSwap wid)
    | _ => runEv s s

/-! ### Wait-swap -/

/-- The wake-table entries of a workgroup (03 R81): one for each armed monitor that has not fired (log entry 60) and one for each count
barrier waited on, each with its line. -/
def State.wakesOf (s : State) (w : Wg) : List (Nat × Nat) :=
  let mons := w.gangs.filterMap fun gid => match s.gang? gid with
    | some g => if g.mon.armed && !g.mon.fired then some (g.mon.line, 2 ^ 70 + gid) else none
    | none => none
  let cbs := (w.gangs.flatMap fun gid => s.flightsOfGang gid).flatMap fun f => match f.instr with
    | .cbwait _ => f.accs.filterMap fun a => match a.loc with
        | .mem k _ _ => if a.done then none else some (k / 128, k)
        | _ => none
    | _ => []
  mons ++ cbs.eraseDups

/-- The entries of the wake table that a partition has in use. -/
def State.wakesUsed (s : State) (part : Nat) : Nat :=
  s.wgs.foldl (fun n e => if e.2.part = part then n + e.2.wakes.length else n) 0

/-- Is a fragment blocked so that its workgroup may swap out (03 R81)? -/
def Frag.swappable (f : Frag) : Bool :=
  match f.stat with
  | .blocked (.mwait _ _) => true
  | .blocked (.cbwait _) => true
  | .blocked (.cohort _ _) => true
  | .blocked (.bar _ _) => true
  | .blocked (.sleep _) => true
  | _ => false

/-- Has a fragment waited beyond the threshold in MWAIT, CBWAIT, COBAR or CORED? -/
def Frag.overdue (f : Frag) (cycle thr : Nat) : Bool :=
  match f.stat with
  | .blocked (.mwait _ _) => decide (cycle > f.blockedAt + thr)
  | .blocked (.cbwait _) => decide (cycle > f.blockedAt + thr)
  | .blocked (.cohort _ _) => decide (cycle > f.blockedAt + thr)
  | _ => false

/-- Does a fragment of a saved workgroup give it a reason to wake (03 R81): its wait is over, its cohort phase is complete, or its
MWAIT's time has run? -/
def State.fragWakes (s : State) (w : Wg) (g : Gang) (f : Frag) : Bool :=
  match f.stat with
  | .blocked (.mwait d _) => d ≠ 0 && decide (s.coreCycle g.core ≥ d)
  | .blocked (.cohort c p) => ((s.grids.find? w.grid).bind fun g => g.cohorts.find? c).any fun (x : Cohort) => x.phase != p
  | .blocked _ => false
  | .ready => true
  | .rgWait => false

/-- Has a gang a reason to wake: a monitor that the wake table holds has fired, or a fragment's wait is over? -/
def State.gangWakes (s : State) (w : Wg) (gid : Nat) (g : Gang) : Bool :=
  (w.keepsMon gid && g.mon.fired) || g.frags.any fun e => s.fragWakes w g e.2

/-- Is a fragment's wait already over, so that it holds the fragment no longer: an MWAIT whose monitor has fired or whose time has
run, a cohort phase that is complete (log entry 60)? -/
def State.waitOver (s : State) (w : Wg) (g : Gang) (f : Frag) : Bool :=
  match f.stat with
  | .blocked (.mwait _ _) => g.mon.fired || s.fragWakes w g f
  | _ => s.fragWakes w g f

/-- The conditions of wait-swap (03 R81); a wait that is already over holds no fragment. -/
def State.maySwap (s : State) (w : Wg) : Bool :=
  let thr := (s.khWg w).swapwait
  let frags := w.gangs.flatMap fun gid => ((s.gang? gid).map fun g => g.frags.map fun e => (g, e.2)).getD []
  thr ≠ 0 && !w.halted && frags.all (fun (e : Gang × Frag) => e.2.swappable && !(s.waitOver w e.1 e.2)) &&
    frags.any (fun (e : Gang × Frag) => e.2.overdue (s.coreCycle e.1.core) thr) &&
    decide (s.wakesUsed w.part + (s.wakesOf w).length ≤ 512) && !(w.gangs.any s.joint)

/-- WAIT_SWAP_OUT (03 R81; 09 R264, Table 9.9): a workgroup that may swaps out; one that is swapping out or parking goes on. -/
def execWaitSwapOut (wid : Nat) (s : State) : OutC :=
  match s.wgs.find? wid with
  | none => runEv s s
  | some w =>
    match w.stat with
    | .resident =>
      if s.maySwap w then
        runEv s ((s.updWg wid fun x => { x with stat := .swapping 2, wakes := s.wakesOf w, woken := false }).finishSwap wid)
      else runEv s s
    | .swapping 1 => runEv s s
    | .swapping _ => runEv s (s.finishSwap wid)
    | _ => runEv s s

/-- A wake condition of a workgroup that wait-swapped (03 R71, R81). -/
def State.wakes (s : State) (wid : Nat) (w : Wg) : Bool :=
  let gs := s.gangs.filter fun e => e.2.wid == wid
  w.stat == .away 2 && gs.all (fun (e : Nat × Gang) => e.2.esc == 0) &&
    (w.woken || gs.any fun (e : Nat × Gang) => s.gangWakes w e.1 e.2)

/-- WAKE_CONDITION (03 R71, R81). -/
def execWakeCondition (wid : Nat) (s : State) : OutC :=
  match s.wgs.find? wid with
  | none => runEv s s
  | some w => if s.wakes wid w then runEv s (s.reenter wid) else runEv s s

end Sys2Proof.Machine
end

