-- ==== Sys2Proof/Machine/Privileged.lean ====
section
/-!
DEFINITION. The supervisor's operations: PTMAP, PTINV, PRIREQ, SWAPO, GKILL and GRES (13 R375-R377; 14 R428-R430; 15 R460,
R461; 09 R260-R264, R268). All but PRIREQ are carried out by the device while their fragment waits.
-/
namespace Sys2Proof.Machine

/-- The path number of operations that the device carries out for a waiting fragment and no counter counts. -/
def sysPath : Nat := 9

/-- An operation handed to the device: the fragment waits until it has finished (log entry 40). -/
def sysWait (i : Instr) (dest : Dest) (sw : List Nat) (s : State) (is : Issue) : State :=
  let f := { newFlight s is i sysPath with dest := dest, sw := sw, accs := [devAcc .none] }
  ({ s with flights := s.flights.put f.id f, nextId := s.nextId + 1 }).blockAfter is.ag (.drain [f.id])

/-- Such an operation has finished: its report is written and its fragment may go on. -/
def State.sysDone (s : State) (f : Flight) (report : Nat) : State :=
  if (s.flights.find? f.id).isNone then s else
  let t := { s with flights := s.flights.del f.id }
  match f.dest with
  | .s b _ _ => t.wrS f.ag b (BitVec.ofNat 32 report)
  | .k sel => t.wrK f.ag (sel % 8) (report ≠ 0)
  | _ => t

/-- Such an operation goes on to its next stage. -/
def State.sysNext (s : State) (f : Flight) (sw : List Nat) : State :=
  { s with flights := s.flights.put f.id { f with cur := f.cur + 1, sw := sw } }

/-! ### PTMAP -/

/-- Level, CONTIG and copies of a pool page size (09 Tables 9.7, 9.8). -/
def poolSize (psize : Nat) : Nat × Nat × Nat :=
  match psize with
  | 0 => (0, 0, 1)
  | 1 => (0, 1, 4)
  | 2 => (0, 2, 16)
  | 3 => (0, 3, 64)
  | 4 => (0, 4, 256)
  | 5 => (1, 0, 1)
  | 6 => (1, 1, 4)
  | 7 => (1, 2, 16)
  | 8 => (1, 4, 256)
  | _ => (2, 0, 1)

/-- A first-touch pool descriptor (09 Table 9.8). -/
structure Pool where
  key : Nat
  ring : Nat
  log2n : Nat
  psize : Nat
deriving DecidableEq, Repr

/-- The size of a pool's pages. -/
def Pool.bytes (p : Pool) : Nat := leafSize (poolSize p.psize).1 (poolSize p.psize).2.1

/-- A partition's pool, when it has a valid one (09 R261). -/
def State.poolOf (s : State) (part : Nat) : Option Pool :=
  let a := (s.part part).ftpool.toNat
  let k := memKey 0 0 a
  let p : Pool := { key := k, ring := s.peekN k 8, log2n := s.peekN (k + 8) 4, psize := s.peekN (k + 12) 4 }
  if a = 0 ∨ !(structOk part a 64) ∨ p.log2n < 4 ∨ p.log2n > 24 ∨ p.psize > 9 ∨ s.peekN (k + 32) 32 ≠ 0 ∨ p.ring % p.bytes ≠ 0 then none
  else some p

/-- Is the descriptor of a partition's pool poisoned? -/
def State.poolPoison (s : State) (part : Nat) : Bool :=
  let a := (s.part part).ftpool.toNat
  a ≠ 0 && structOk part a 64 && s.poisonIn (memKey 0 0 a) 64

/-- What stands on the way to a page's leaf level. -/
inductive PtFind where
  | table (tbl : Nat)
  | missing
  | mapped
  /-- An entry at a key that cannot be read: poisoned, or behind a port or route that is down. -/
  | stuck (key : Nat)
deriving DecidableEq, Repr

/-- The walk down to a leaf level's table (09 R262 step 1). A valid pointer with POISON set, and a valid entry of levels 3 and 4 that is no
pointer, count as a missing table: the model's choice (log entry 94). -/
def State.tableFor (s : State) (va stop : Nat) : Nat → Nat → PtFind
  | 0, _ => .missing
  | level + 1, tbl =>
    if level = stop then .table tbl
    else
      let k := tbl + 8 * (va / 2 ^ (12 + 9 * level) % 512)
      let e := s.peekN k 8
      if s.farKey k || s.cxlDown k || s.poisonIn k 8 then .stuck k
      else if e % 2 == 0 || e.testBit 62 then .missing
      else if natBits e 11 9 = 7 then
        if natBits e 55 52 ≥ 3 then .missing
        else s.tableFor va stop level
          (memKey (natBits e 55 52) (if natBits e 55 52 = 2 then natBits e 61 56 else 0) (pteFrame e))
      else if level ≤ 2 then .mapped else .missing

/-- The leaf that PTMAP writes (14 R430). -/
def ptLeaf (flags contig frame : Nat) : Nat := 1 + flags + contig * 2 ^ 9 + natBits frame 51 12 * 2 ^ 12

/-- PTMAP has met poison (10 R280, R284, R290): it is over, with a report that nothing states, and POISON is raised (09 R250). -/
def State.sysPoison (s : State) (f : Flight) : State :=
  (s.sysDone f (Config.freeNat s.fresh (2 ^ 62) % 5)).addAsync f.ag (f.asyncBits cPOISON)

/-- What PTMAP does at page-table entries where it can reach them: a chip without a route holds it until its time is over (10 R284), a
retraining port holds it (10 R287), and poison or a port that is down ends it; `lost` is the state in which it then ends. -/
def State.sysGate (s : State) (f : Flight) (keys : List Nat) (lost go : State) : State :=
  match keys.filterMap (s.farGate (s.unitOf f.ag) f.pasid) with
  | none :: _ => (lost.dropFar f.pasid).sysPoison f
  | some p :: _ => s.askPage f.pasid p
  | [] =>
    if keys.any fun k => s.cxlDown k || s.poisonIn k 8 then lost.sysPoison f
    else if keys.any fun k => s.portHeld k f.born then s
    else go

/-- PTMAP's first two steps (09 R262): the descriptor, the walk, and the claim. A poisoned descriptor raises POISON (10 R290). A ring that lies where it may not gives an unspecified report
and no frame (10 R276; log entry 82). A larger leaf met on the way to PSIZE's level is reported as 1, retry: the model's choice (log entry
93). -/
def State.ptClaim (s : State) (f : Flight) : State :=
  let part := s.partOf f.ag
  let va := f.sw.getD 0 0
  if s.poolPoison part then s.sysPoison f else
  match s.poolOf part with
  | none => s.sysDone f 4
  | some p =>
    if !(structOk part p.ring (8 * 2 ^ p.log2n)) then s.sysDone f (Config.freeNat s.fresh (2 ^ 62) % 5)
    else if s.pasidPoison f.pasid then s.sysPoison f else
    match s.rootOf f.pasid part with
    | none => s.sysDone f 3
    | some root =>
      let z := poolSize p.psize
      match s.tableFor va z.1 5 root with
      | .missing => s.sysDone f 3
      | .mapped => s.sysDone f 1
      | .stuck k => s.sysGate f [k] s s
      | .table tbl =>
        let k := tbl + 8 * (va / 2 ^ (12 + 9 * z.1) % 512 / z.2.2 * z.2.2)
        let e := s.peekN k 8
        s.sysGate f [k] s
          (if e % 2 == 1 || e.testBit 6 then s.sysDone f 1
           else (s.pokeN k 8 (e ||| 0x40)).sysNext f (f.sw ++ [k, e, p.key, p.ring, p.log2n, p.psize]))

/-- PTMAP's next stage (09 R262): the claim; the frame; its zeros; the copies; the leaf itself. -/
def State.ptmapStep (s : State) (f : Flight) : State :=
  let w := fun (i : Nat) => f.sw.getD i 0
  let k := w 2
  let z := poolSize (w 7)
  let leaf := ptLeaf (w 1) z.2.1 (w 8)
  match f.cur with
  | 0 => s.ptClaim f
  | 1 =>
    let head := s.peekN (w 4 + 16) 8
    let slot := memKey 0 0 (w 5) + 8 * (head % 2 ^ (w 6))
    let back := s.pokeN k 8 (w 3)
    s.sysGate f [k] s <| s.sysGate f [w 4 + 16, w 4 + 24] back <|
      if head = s.peekN (w 4 + 24) 8 then back.sysDone f 2
      else s.sysGate f [slot] back ((s.pokeN (w 4 + 16) 8 ((head + 1) % 2 ^ 64)).sysNext f (f.sw ++ [s.peekN slot 8]))
  | 2 =>
    (s.zeroRange (memKey 0 0 (natBits (w 8) 51 12 * 2 ^ 12)) (leafSize z.1 z.2.1) ((w 1).testBit 5)).sysNext f f.sw
  | 3 =>
    s.sysGate f ((List.range z.2.2).map fun i => k + 8 * i) s
      (((List.range (z.2.2 - 1)).foldl (fun (t : State) i => t.pokeN (k + 8 * (i + 1)) 8 leaf) s).sysNext f f.sw)
  | _ => s.sysGate f [k] s ((s.pokeN k 8 leaf).sysDone f 0)

/-- PTMAP's effect (14 R430). -/
def ptmapEffect (o : Opw) (s : State) (is : Issue) : State :=
  let flags := uniVal s is o (shape false (.ptmap o)).a o.a 1
  let b := match opnd o.dst with | .s k => k | _ => 0
  match is.ag with
  | .ctx _ => s
  | .gang gid _ =>
    if flags / 64 ≠ 0 ∨ flags % 2 ≠ 0 then s.causeAt is o cILLOP
    else sysWait (.ptmap o) (.s b 1 0) [((s.gang? gid).map (·.faddr.toNat)).getD 0, flags] s is

/-- PTMAP (14 R430, 09 R262). -/
def execPtmap (o : Opw) (s : State) : OutC := onceOp (.ptmap o) o s (ptmapEffect o)

/-! ### PTINV -/

/-- Is a virtual address of a PASID named by an invalidation: kind, range from `lo` to below `hi`, PASID? -/
def invNames (kind lo hi pasid : Nat) (all : Bool) (p va : Nat) : Bool :=
  if kind ≤ 1 then p == pasid && decide (lo ≤ va ∧ va < hi) else if kind = 2 then p == pasid else all

/-- The TLB entries of a partition's units, and the front end's, that an invalidation names, dropped (09 R260). -/
def State.tlbDrop (s : State) (part kind lo hi pasid : Nat) : State :=
  { s with tlb := s.tlb.filter fun t =>
      let unit := (decide (t.unit < 256) && t.unit / 32 == part) ||
        (decide (256 ≤ t.unit ∧ t.unit < 288) && (t.unit - 256) / 4 == part) || t.unit == devUnit
      let hit := if kind ≤ 1 then t.pasid == pasid && decide (t.base < hi ∧ lo < t.base + t.size)
        else if kind = 2 then t.pasid == pasid else s.ownerOf t.pasid == part
      !(unit && hit) }

/-- Does an operation's wait keep testing memory, each test translated anew? -/
def rePolls (i : Instr) : Bool :=
  match i with
  | .cbwait _ => true
  | .pixlk _ => true
  | _ => false

/-- Has an operation an access, translated but not applied, that an invalidation names? A ray's fetches and the elements of tensor movement
are translated as they are made. -/
def State.invWaits (s : State) (part : Nat) (w : List Nat) (f : Flight) : Bool :=
  let names := invNames (w.getD 0 0) (w.getD 1 0) (w.getD 2 0) (w.getD 3 0) (s.ownerOf f.pasid == part) f.pasid
  (f.accs.any fun a => !a.done && (match a.loc with | .mem _ _ _ => names a.va | _ => false)) ||
    (f.path != 3 && !(isTensor f.instr) && f.accs.any (fun a => !a.done) && f.pages.any fun p => names (p.vpage * 4096))

/-- A fragment whose wait translated through an invalidated leaf issues its bundle again. -/
def State.rePoll (s : State) (f : Flight) : State :=
  match f.ag with
  | .gang gid fid =>
    ({ s with flights := s.flights.del f.id }).updFrag gid fid fun x =>
      { x with pendSeq := false, stat := .ready, jt := none, readyAt := max x.readyAt (s.cycleOf (.gang gid fid)) }
  | .ctx _ => s

/-- PTINV's next stage: the entries go, and the accesses translated through them are awaited (09 R260). -/
def State.ptinvStep (s : State) (f : Flight) : State :=
  let part := s.partOf f.ag
  let w := f.sw
  let t := s.tlbDrop part (w.getD 0 0) (w.getD 1 0) (w.getD 2 0) (w.getD 3 0)
  let ids := (s.flights.filter fun e => e.1 != f.id && s.invWaits part w e.2 && !(rePolls e.2.instr)).map (·.1)
  match f.cur with
  | 0 => t.sysNext f (w ++ ids)
  | _ =>
    if ids.any fun i => (w.drop 4).contains i then s
    else
      let polls := s.flights.filter fun e => rePolls e.2.instr && s.invWaits part w e.2
      (polls.foldl (fun (u : State) e => u.rePoll e.2) t).sysDone f 0

/-- PTINV's effect (14 R429): a PASID of another partition raises PROT; an empty range does nothing. -/
def ptinvEffect (o : Opw) (s : State) (is : Issue) : State :=
  let sh := shape false (.ptinv o)
  let kind := o.sub.toNat
  let lo := srcVal s is o sh.a o.a .raw 1 [] 0
  let len := srcVal s is o sh.b o.b .raw 2 [] 0
  let pasid := if kind = 0 then s.pasidOf is.ag else uniVal s is o sh.c o.c 3 % 2 ^ 20
  let e := s.peekN (s.dev.pasidtab.toNat + 8 * pasid) 8
  if (kind = 1 ∨ kind = 2) ∧ s.pasidPoison pasid then
    s.addAsync is.ag ((newFlight s is (.ptinv o) sysPath).asyncBits cPOISON)
  else if (kind = 1 ∨ kind = 2) ∧ e % 2 = 1 ∧ natBits e 63 61 ≠ s.partOf is.ag then s.causeAt is o cPROT
  else if kind ≤ 1 ∧ len = 0 then s
  else sysWait (.ptinv o) .none [kind, lo / 4096 * 4096, alignUp (lo + len) 4096, pasid] s is

/-- PTINV (14 R429). -/
def execPtinv (o : Opw) (s : State) : OutC := onceOp (.ptinv o) o s (ptinvEffect o)

/-! ### Page requests -/

/-- The kind of a page request to the host: index, PASID, page, read, write. -/
def msgPri : Nat := 2

/-- Is a workgroup's fault policy PARK (03 Table 3.4)? -/
def State.parks (s : State) (w : Wg) : Bool := (s.grids.find? w.grid).any fun g => g.lr.lflags.testBit 0

/-- A field of a saved gang's image written too. -/
def State.pokeImg (s : State) (gid off n v : Nat) : State :=
  match s.gang? gid with
  | none => s
  | some g =>
    let put := (s.pokeN (g.image + off) n v).updGang gid fun x =>
      { x with saved := (toBytes n v).zipIdx.foldl (fun (t : Tab Byte) e => Tab.set 0 t (off + e.2) e.1) x.saved }
    match (s.wgOf g).map (fun (w : Wg) => w.stat) with
    | some (.away _) => put
    | some .parked => put
    | _ => s

/-- SR_PRISTAT set. -/
def State.setPristat (s : State) (gid v : Nat) : State :=
  match s.gang? gid with
  | none => s
  | some g =>
    (s.updGang gid fun x => { x with pristat := BitVec.ofNat 32 v }).pokeImg gid
      ((imgOff (s.khOf g) g.width).xoff + 204) 4 v

/-- PAGEFAULT cleared by an answer (09 R248, R264, 13 R376). -/
def State.clearFault (s : State) (gid : Nat) : State :=
  match s.gang? gid with
  | none => s
  | some g =>
    let m := fun (x : W64) => x &&& ~~~(BitVec.ofNat 64 cPAGEFAULT)
    (s.updGang gid fun x => { x with cause := m x.cause }).pokeImg gid 16 8
      (m (BitVec.ofNat 64 (s.peekN (g.image + 16) 8))).toNat

/-- The supervisor handler entered again by a gang that left it through PRIREQ or a double fault. -/
def State.handlerAgain (s : State) (gid : Nat) : State :=
  match s.gang? gid with
  | none => s
  | some g =>
    let fid := match g.slot with | some sl => sl.fid | none => (g.trap.map (·.fid)).getD 0
    (s.updGang gid Gang.restoreSlot).enterSup gid fid

/-- PRIREQ's effect (14 R428; 09 R263, R264); FAULTPIN of the tiles that the gang holds is set by notices (08 R236). -/
def prireqEffect (o : Opw) (s : State) (is : Issue) : State :=
  match is.ag with
  | .ctx _ => s
  | .gang gid fid =>
    match s.gang? gid with
    | none => s
    | some g =>
      let own := fun (t : State) => t.updGang gid fun x =>
        { x with slot := x.slot.map fun (y : Slot) => { y with fid := fid },
                 trap := x.trap.map fun (y : TrapSt) => { y with fid := fid } }
      if g.cause.toNat &&& cPAGEFAULT = 0 then s.causeAt is o cILLOP
      else if s.priOff then
        let t := own { s with issue := none }
        (t.updGang gid fun x => { x with pristat := 3 }).handlerAgain gid
      else
        match (List.range 512).find? fun i => (s.pri.find? i).isNone with
        | none => s.blockRetry is.ag .pri
        | some i =>
          let acc := g.fsub.toNat % 16
          let rd := if acc = 1 then 0 else 1
          let wr := if acc = 1 ∨ acc = 2 then 1 else 0
          let t := own { s with
            issue := none, pri := s.pri.put i (gid, 1),
            hostOut := s.hostOut ++ [{ kind := msgPri, args := [i, s.pasidOf is.ag, g.faddr.toNat / 4096, rd, wr] }] }
          let t := t.updGang gid fun x =>
            { x with esc := 1, slot := x.slot.map fun (y : Slot) => { y with mode := .user },
                     frags := x.frags.upd (fun f => { f with stopped := true }) fid }
          let t := t.updWg g.wid fun w => { w with stat := .swapping (if s.parks w then 3 else 2), wakes := [], woken := false }
          match t.binPass g with
          | none => t
          | some pass => (g.entryRefs.map (·.2)).eraseDups.foldl (fun (u : State) tile =>
              u.tileNotice (u.pasidOf is.ag) (.pinBit pass (u.partOf is.ag) tile)) t

/-- PRIREQ (14 R428). -/
def execPrireq (o : Opw) (s : State) : OutC := onceOp (.prireq o) o s (prireqEffect o)

/-- A workgroup that the host's answer lets go on sees every write that the host posted ahead of it (17 R477): nothing that its L1s or its
record reads hold is older. -/
def State.freshen (s : State) (wid : Nat) (w : Wg) : State :=
  let t := { s with l1 := s.l1.filter fun l => !(w.cores.any fun c =>
    if w.fused then clusterOf l.core == clusterOf c else l.core == c) }
  t.updWg wid fun x => { x with bufs := [] }

/-- An answer to an escalation of a gang that is not parked (09 R264): 1 success, else the supervisor is entered again. -/
def State.answer (s : State) (gid outcome : Nat) : State :=
  match s.gang? gid with
  | none => s
  | some g =>
    let t := if outcome = 1 then s.clearFault gid else s
    let t := (t.setPristat gid outcome).updGang gid fun x => { x with esc := 2 + outcome }
    match (s.wgOf g).map (fun (w : Wg) => w.stat) with
    | some (.away 2) => t.reenter g.wid
    | some (.away _) => t
    | some (.swapping _) => t
    | _ => (((s.wgOf g).elim t (t.freshen g.wid)).actEsc gid).faultPin gid

/-- PAGE_REQUEST_RESPONSE (09 R263, R264): outcome 1 success, 2 invalid request, 3 failure, after which the host takes no more
page requests. -/
def execPageRequestResponse (index outcome : Nat) (s : State) : OutC :=
  match s.pri.find? index with
  | none => runEv s s
  | some (gid, live) =>
    if outcome = 0 ∨ outcome > 3 then runEv s s else
    let t := { s with pri := s.pri.del index, priOff := s.priOff || outcome == 3 }
    match s.gang? gid with
    | none => runEv s t
    | some g =>
      if live = 0 ∨ g.esc ≠ 1 then runEv s t
      else if (s.wgOf g).any s.parks then
        let u := if outcome = 1 then (t.wgOf g).elim t (t.freshen g.wid) else t
        runEv s (u.setPristat gid outcome)
      else runEv s (t.answer gid outcome)

/-! ### GKILL and GRES -/

/-- The placed workgroups of a partition with a tag and a linear index (13 R375). -/
def State.named (s : State) (part tag linear : Nat) : List (Nat × Wg) :=
  s.wgs.filter fun e => e.2.part == part && e.2.linear == linear && (s.grids.find? e.2.grid).any fun g => g.lr.tag == tag

/-- A host response to a gang's escalation will be discarded. -/
def State.dropPri (s : State) (gids : List Nat) : State :=
  { s with pri := s.pri.map fun e => (e.1, if gids.contains e.2.1 then (e.2.1, 0) else e.2) }

/-- The monitor of a gang that resumes and was not in the wake table: one that was armed is recorded as fired (05 R147). -/
def Monitor.resumed (m : Monitor) : Monitor := if m.armed then { m with fired := true } else m

/-- A parked workgroup runs again: what the supervisor wrote into its images is read back (05 R148), and its armed monitors are
recorded as fired (05 R147). -/
def State.unpark (s : State) (wid : Nat) : State :=
  match s.wgs.find? wid with
  | none => s
  | some w =>
    let back := w.stat == .parked
    let t := if back then w.gangs.foldl (fun (t : State) gid => ((t.loadImage gid true).setImgState gid 0).updGang gid
      fun g => { g with mon := g.mon.resumed }) s else s
    t.updWg wid fun x => { x with stat := .resident, dblFault := false }

/-- Did a gang end in a double fault? -/
def Gang.doubled (g : Gang) : Bool :=
  g.slot.any fun sl => sl.mode != .user && (g.frags.find? sl.fid).any (·.stopped)

/-- GRES on one workgroup (13 R376), and whether it changed. -/
def State.gresWg (s : State) (outcome wid : Nat) (w : Wg) : State × Bool :=
  let escs := w.gangs.filter fun gid => (s.gang? gid).any fun g => g.esc == 1
  let parked := match w.stat with | .parked => true | .swapping 3 => true | _ => false
  let away := match w.stat with | .away 2 => true | .swapping 2 => true | _ => false
  if parked then
    let dbl := w.gangs.filter fun gid => (s.gang? gid).any fun g => g.doubled || (g.trap.isSome && g.slot.isNone)
    let t := ((if outcome = 1 then s.freshen wid w else s).unpark wid).dropPri escs
    let t := escs.foldl (fun (t : State) gid =>
      let u := (t.updGang gid fun x => { x with esc := 0 }).setPristat gid outcome
      if outcome = 1 then (u.clearFault gid).resumeTrap gid else u.handlerAgain gid) t
    let again := fun (t : State) (gid : Nat) =>
      let u := t.setPristat gid outcome
      if (u.gang? gid).any fun g => g.slot.isSome then u.handlerAgain gid else u
    (w.gangs.foldl State.faultPin (if w.dblFault then dbl.foldl again t else t), true)
  else if away && !escs.isEmpty then
    (escs.foldl (fun (t : State) gid => t.answer gid outcome) (s.dropPri escs), true)
  else (s, false)

/-- GRES at the task scheduler (13 R375, R376). -/
def State.gresStep (s : State) (f : Flight) : State :=
  let r := (s.named (s.partOf f.ag) (f.sw.getD 0 0) (f.sw.getD 1 0)).foldl (fun (a : State × Bool) e =>
    let x := a.1.gresWg (f.sw.getD 2 0) e.1 e.2
    (x.1, a.2 || x.2)) (s, false)
  r.1.sysDone f r.2.toNat

/-- What a gang that is killed holds elsewhere returns (13 R377): cask slots and requests, raster references, joint operations. -/
def State.killGang (s : State) (gid : Nat) : State :=
  match s.gang? gid with
  | none => s
  | some g =>
    let all := BitVec.allOnes 1024
    let pass := (s.binPass g).getD 0
    let t := (g.entryRefs.map (·.2)).eraseDups.foldl (fun (u : State) tile =>
      u.tileNotice (s.pasidOf (.gang gid 0)) (.pinBit pass (s.partOf (.gang gid 0)) tile)) s
    let t := (g.endedEntries all).foldl (fun (u : State) tile => u.devFlight (.gang gid 0) .dev (.refsDec pass (s.partOf (.gang gid 0)) tile)) t
    let fls := (t.flightsOfGang gid).map (·.id)
    let mates := (t.flights.filter fun e => gangOf e.2.ag != gid && isMmaJ e.2.instr && e.2.accs.any (fun a => !a.done) &&
      (e.2.kept keyJoint).any fls.contains).map (·.2)
    let t := mates.foldl (fun (u : State) m => (u.abortOp m.id).addAsync m.ag (m.asyncBits cENGFAULT)) t
    let c := clusterOf g.core
    let t := fls.foldl (fun (u : State) i => (u.kilnDrop c (kilnOp i)).kilnDrop c (kilnLoad i)) t
    { t with
      graphs := t.graphs.map fun e =>
        (e.1, { e.2 with
          cask := e.2.cask.filter fun x => match x.2 with
            | .held k _ => k != gid
            | .running k _ _ => k != gid
            | .committed _ => true,
          blocked := e.2.blocked.filter fun b => b.1 != gid }),
      latches := t.latches.filter fun e => !(e.2.running && e.2.flights.any fls.contains),
      tiles := t.tiles.filter fun x => x.1 != gid }

/-- A placed workgroup killed in any state (13 R377). -/
def State.killWg (s : State) (wid : Nat) (w : Wg) : State :=
  let mine := fun (ag : Agent) => match ag with | .gang g _ => w.gangs.contains g | .ctx _ => false
  let t := w.gangs.foldl (fun (t : State) gid => t.killGang gid) s
  let t := (t.orphan mine).dropPri w.gangs
  let t := (t.updGrid w.grid fun g => { g with killed := true }).endWg wid
  { t with
    gangs := t.gangs.filter fun e => e.2.wid != wid,
    rays := t.rays.filter fun r => (Tab.find? t.flights r.2.fl).isSome,
    latch := match t.latch with | some a => if mine a then none else some a | none => none }

/-- A workgroup killed before it was placed: the dispatcher passes over it; a node's records return to FREE and a bin's entries
release their references. -/
def State.killWaiting (s : State) (gk : Nat) (g : Grid) (linear : Nat) : State :=
  let t := s.updGrid gk fun x =>
    ({ x with dead := x.dead.ins linear, killed := true,
              reserve := if x.nextLinear = linear then none else x.reserve } : Grid).skipDead x.count
  let t := { t with entries := t.entries.filter fun e =>
      !(e.grid == gk && e.wid.isNone && (t.grids.find? gk).all fun x => x.next == x.count) }
  match g.kind with
  | .node k _ =>
    { t with graphs := t.graphs.upd (fun (x : Graph) =>
        { x with cask := g.entries.foldl (fun (c : Tab CaskSt) i => c.del i) x.cask }) k }
  | .bin _ pass _ =>
    (g.entries.filter fun x => !(isRay x)).foldl (fun (u : State) x =>
      let id := u.nextId
      let v := u.devFlight (.gang 0 0) .dev (.refsDec pass g.lr.part (natBits x 31 12))
      { v with flights := v.flights.upd (fun (f : Flight) => { f with pasid := g.pasid }) id }) t
  | _ => t

/-- GKILL at the task scheduler (13 R375, R377). -/
def State.gkillStep (s : State) (f : Flight) : State :=
  let part := s.partOf f.ag
  let tag := f.sw.getD 0 0
  let lin := f.sw.getD 1 0
  let waiting := s.grids.filter fun g => g.2.lr.part == part && g.2.lr.tag == tag &&
    decide (g.2.nextLinear ≤ lin ∧ lin < g.2.first + g.2.count) && !(g.2.dead.has lin)
  let named := s.named part tag lin
  let t := named.foldl (fun (t : State) e => t.killWg e.1 e.2) s
  let t := waiting.foldl (fun (t : State) g => t.killWaiting g.1 g.2 lin) t
  t.sysDone f (if named.isEmpty && waiting.isEmpty then 0 else 1)

/-- GKILL (13 R375, R377). -/
def execGkill (o : Opw) (s : State) : OutC :=
  onceOp (.gkill o) o s fun s is =>
    let sh := shape false (.gkill o)
    sysWait (.gkill o) (.k o.dst.toNat) [uniVal s is o sh.a o.a 1, uniVal s is o sh.b o.b 2] s is

/-- GRES's effect (13 R375): outcomes 1 and 3. -/
def gresEffect (o : Opw) (s : State) (is : Issue) : State :=
  let sh := shape false (.gres o)
  let out := uniVal s is o sh.c o.c 3
  if out ≠ 1 ∧ out ≠ 3 then s.causeAt is o cILLOP
  else sysWait (.gres o) (.k o.dst.toNat) [uniVal s is o sh.a o.a 1, uniVal s is o sh.b o.b 2, out] s is

/-- GRES (13 R375, R376). -/
def execGres (o : Opw) (s : State) : OutC := onceOp (.gres o) o s (gresEffect o)

/-! ### SWAPO -/

/-- The workgroups of a partition, but one, that SWAPO has still to save (09 R266, R268). -/
def State.toSave (s : State) (part wid : Nat) : List (Nat × Wg) :=
  s.wgs.filter fun e => e.2.part == part && e.1 != wid && e.2.onChip && !(s.allExited e.2)

/-- The shadow region of a partition takes the cores' on-chip state (09 R268). -/
def State.fillShadow (s : State) (part : Nat) : State :=
  let t := (List.range 32).foldl (fun (t : State) c => t.fillCore (32 * part + c)) s
  { t with shadows := t.shadows.put part ((s.part part).shadow.toNat, s.fresh) }

/-- Does a partition's core `c` still have its part of the shadow region as it was saved there? -/
def State.shadowKept (s : State) (part c : Nat) : Bool :=
  match s.shadows.find? part with
  | none => false
  | some (a, fresh) => s.coreKept (32 * part + c) a fresh

/-- The saved state restored (09 R268): where a core's part of the region has changed, what stood there is unspecified; which of the
partition's saved workgroups that concerns is open (log entry 88). -/
def State.readShadow (s : State) (part : Nat) (l : List (Nat × Wg)) : State :=
  if (List.range 32).all (s.shadowKept part) then s else
  let poison := s.poisonIn (memKey 0 0 (s.part part).shadow.toNat) (2 ^ 25)
  l.foldl (fun (t : State) e => if s.pick (2 ^ 61 + e.1) then t.loseWg e.1 e.2 poison else t) s

/-- The tensor movement of a partition's contexts is stopped: its grants and requests are given up (07 R217). -/
def State.stopTensors (s : State) (part : Nat) : State :=
  (List.range 256).foldl (fun (t : State) i => t.quitKiln (256 * part + i)) s

/-- SWAPO.OUT at the task scheduler (15 R460, R461; 09 R268): the requests that the rasterisers and classify engines have accepted finish first. -/
def State.swapOutStep (s : State) (f : Flight) : State :=
  let part := s.partOf f.ag
  let wid := ((s.gang? (gangOf f.ag)).map (·.wid)).getD 0
  if f.cur = 0 ∧ ((s.part part).shadow = 0 ∨ s.swapped.has part) then s.sysDone f 1
  else
    let todo := s.toSave part wid
    let t := if f.cur = 0 then { s with swapped := s.swapped.ins part }.stopTensors part else s
    let busy := (List.range 4).any fun c =>
      !(s.rastOf (4 * part + c)).isEmpty || !(s.sealsOf (4 * part + c)).isEmpty || !(s.scansOf (4 * part + c)).isEmpty
    if todo.isEmpty && busy then t.sysNext f f.sw
    else if todo.isEmpty && f.cur ≠ 0 then (t.fillShadow part).sysDone f 0
    else
      let mark := fun (t : State) (e : Nat × Wg) => match e.2.stat with
        | .swapping _ => t
        | _ => t.updWg e.1 fun x => { x with stat := .swapping 1, swapo := true }
      (todo.foldl mark t).sysNext f f.sw

/-- SWAPO.IN at the task scheduler (15 R460, R461): what the swap saved re-enters dispatch; it counts as swapped until it resumes (08
R236). -/
def State.swapInStep (s : State) (f : Flight) : State :=
  let part := s.partOf f.ag
  let mine := s.wgs.filter fun e => e.2.part == part
  if (s.part part).shadow = 0 ∨ !(s.swapped.has part) then s.sysDone f 1
  else if mine.any fun e => match e.2.stat with | .swapping _ => true | _ => false then s
  else
    let back := (mine.filter fun e => e.2.swapo && e.2.emptied.isNone && !(s.entries.any fun x => x.wid == some e.1)).reverse
    let t := back.foldl (fun (t : State) e => t.reenter e.1) (s.readShadow part back)
    { t with swapped := t.swapped.era part, shadows := t.shadows.del part }.sysDone f 0

/-- SWAPO.OUT (15 R460, R461). -/
def execSwapoOut (o : Opw) (s : State) : OutC :=
  onceOp (.swapoOut o) o s fun s is => sysWait (.swapoOut o) (.k o.dst.toNat) [] s is

/-- SWAPO.IN (15 R460, R461). -/
def execSwapoIn (o : Opw) (s : State) : OutC :=
  onceOp (.swapoIn o) o s fun s is => sysWait (.swapoIn o) (.k o.dst.toNat) [] s is

/-- The next stage of an operation that the device carries out. -/
def State.sysStep (s : State) (f : Flight) : State :=
  match f.instr with
  | .ptmap _ => s.ptmapStep f
  | .ptinv _ => s.ptinvStep f
  | .gkill _ => s.gkillStep f
  | .gres _ => s.gresStep f
  | .swapoOut _ => s.swapOutStep f
  | .swapoIn _ => s.swapInStep f
  | _ => s

end Sys2Proof.Machine
end

