-- ==== Sys2Proof/Machine/Tensor.lean ====
section
/-!
DEFINITION. The tensor-movement instructions (15 R462-R466; 07 R209, R211): their issue, and the steps by which their elements
move one by one.
-/
namespace Sys2Proof.Machine

/-! ### The walk -/

/-- A word of an operation's operands. -/
def Flight.tw (f : Flight) (i : Nat) : Nat := f.sw.getD i 0

/-- The element size of a move without conversion, as a power of two. -/
def Flight.tElog (f : Flight) : Nat := f.tw 3 / 8 % 8

/-- Does a walk convert? -/
def Flight.tConv (f : Flight) : Bool := (match f.instr with | .tmov _ => true | _ => false) && f.tw 4 = 1

/-- A side's base: an unsigned 64-bit address or offset. -/
def Flight.tBase (f : Flight) (k : Nat) : Int := (f.tw k : Int)

/-- Is the operation a walk (TMOV, TFILL)? -/
def Flight.tWalk (f : Flight) : Bool := match f.instr with | .tmov _ => true | .tfill _ => true | _ => false

/-- The elements of a walk's extents. -/
def Flight.tVolume (f : Flight) : Nat := (List.range 5).foldl (fun a d => a * f.tw (5 + d)) 1

/-- The coordinates of an element, dimension 0 first (15 R463). -/
def Flight.tCoords (f : Flight) (j : Nat) : List Nat :=
  ((List.range 5).foldl (fun (a : List Nat × Nat) d =>
    let e := f.tw (5 + d)
    (a.1 ++ [a.2 % e], a.2 / e)) ([], j)).1

/-- A side's offset of an element in its own units: i0·size and the strides; `k` is 10 for the source, 14 for the
destination. -/
def Flight.tOffset (f : Flight) (k size j : Nat) : Int :=
  let c := f.tCoords j
  ((c.getD 0 0 * size : Nat) : Int) +
    (List.range 4).foldl (fun (a : Int) d => a + (c.getD (d + 1) 0 : Int) * sextNat (f.tw (k + d)) 32) 0

/-- The two buffer records of a conversion, kept when the operation started. -/
def Flight.tRecs (f : Flight) : BufRec × BufRec :=
  let l := (f.lw.find? 0).getD []
  (BufRec.ofBits (l.getD 0 0), BufRec.ofBits (l.getD 1 0))

/-- Elements that one step moves: a whole block of a destination with a scale for each block, else one (15 R464). -/
def Flight.tBlock (f : Flight) : Nat :=
  let r := f.tRecs.2
  if f.tConv && r.scale == 1 && fmtBlock r.fmt ≠ 0 then fmtBlock r.fmt else 1

/-- The place in the destination of a conversion that an element is stored to. -/
def Flight.tPlace (f : Flight) (j : Nat) : Option (Nat × Nat) :=
  match f.tRecs.2.elem (f.tBase 0 + f.tOffset 14 1 j) with | .at p => some p | _ => none

/-- The elements of the destination row of an element, when the row has a scale of its own and the walk writes it whole (04 R108, 05 R154;
DEDUCED: log entry 87). -/
def Flight.tMates (f : Flight) (c : Nat) : Option (List Nat) :=
  let r := f.tRecs.2
  if r.scale ≠ 1 ∨ fmtScale r.fmt = 0 ∨ fmtBlock r.fmt ≠ 0 then none else
  (f.tPlace c).bind fun p =>
    let js := (List.range f.tVolume).filter fun j => (f.tPlace j).any fun q => r.scaleAt q == r.scaleAt p
    if (js.filterMap f.tPlace).eraseDups.length = r.blockLen p then some js else none

/-- The bytes in memory that an element of a record takes, with its scale and code book, by virtual address and length. -/
def BufRec.takes (r : BufRec) (x : Int) : List (Nat × Nat) :=
  (recLoadReqs r 0 x (if r.raw then 1 else 4) 0).filterMap fun q => if q.pre.isNone then some (q.va, q.size) else none

/-- The bytes in memory of a walk's source, from its `i`-th element on. -/
def Flight.tFrom (f : Flight) (i : Nat) : List (Nat × Nat) :=
  let n := 2 ^ f.tElog
  match f.instr with
  | .tmov _ => (List.range (f.tVolume - i)).flatMap fun j =>
    if f.tConv then f.tRecs.1.takes (f.tBase 1 + f.tOffset 10 1 (i + j))
    else if (f.tw 3).testBit 6 then [] else [(wrapInt (f.tBase 1 + f.tOffset 10 n (i + j)) 64, n)]
  | _ => []

/-- The bytes in memory of a walk's destination, from its `i`-th element on. -/
def Flight.tTo (f : Flight) (i : Nat) : List (Nat × Nat) :=
  let n := 2 ^ f.tElog
  (List.range (f.tVolume - i)).flatMap fun j =>
    if f.tConv then f.tRecs.2.takes (f.tBase 0 + f.tOffset 14 1 (i + j))
    else if (f.tw 3).testBit 7 then [] else [(wrapInt (f.tBase 0 + f.tOffset 14 n (i + j)) 64, n)]

/-- The rows' pieces of 16 bytes (15 R465). -/
def Flight.tPieces (f : Flight) : Nat := ceilDiv (f.tw 6) 16

/-- The number of elements by the cursor's count (15 R463, R464, R465). -/
def Flight.tTotal (f : Flight) : Nat :=
  if f.tWalk then f.tVolume / f.tBlock else f.tw 5 * f.tPieces

/-- Does the operation ask the kiln: 64 KiB or more of destination bytes by TMOV or TGATH (15 R466)? -/
def Flight.tHeavy (f : Flight) : Bool :=
  match f.instr with
  | .tmov _ =>
    let bits := if f.tConv then (if f.tRecs.2.raw then 8 else fmtBits f.tRecs.2.fmt) else 8 * 2 ^ f.tElog
    decide (f.tVolume * bits ≥ 8 * 65536)
  | .tgath _ => decide (f.tw 5 * f.tw 6 ≥ 65536)
  | _ => false

/-! ### One element -/

/-- What a part of an element's move gives: a value, a fault with its address, or a reason to wait. -/
inductive TRes (α : Type) where
  | ok (a : α) (s : State)
  | fault (cause addr : Nat)
  | ats (page : Nat)
  | hold (va : Nat)
  | far
  | busy

/-- A part followed by another. -/
def TRes.bind {α β : Type} (r : TRes α) (k : α → State → TRes β) : TRes β :=
  match r with
  | .ok a s => k a s
  | .fault c a => .fault c a
  | .ats p => .ats p
  | .hold va => .hold va
  | .far => .far
  | .busy => .busy

/-- The workgroup that submitted a context's packet. -/
def State.submitter (s : State) (ag : Agent) : Option Nat :=
  match ag with
  | .ctx n => (s.ctx n).pkt.wid
  | .gang _ _ => none

/-- `n` bytes at a virtual address, of one page, resolved for an element's access: a page with TSO is read at its home (06 R181), and a port
whose region retrains is waited for (10 R287). -/
def State.tPage (s : State) (f : Flight) (acc : Access) (va n : Nat) : TRes Spot :=
  if va ≥ 2 ^ 57 then .fault cPROT va else
  match s.trAg f.ag va acc with
  | .fault c r => if r = 6 then .fault c va else .fault c va
  | .ats p => .ats p
  | .ok t =>
    if t.isReg then .fault cPROT va
    else if t.hold && acc == .write then .hold va
    else
      let a := acc1 0 va (.mem t.key t.tso t.zb) (if acc == .write then .wr 1 0 0 else .rd 1)
      if s.unreachable a then .far
      else if s.lineBusy f a || s.portHeld t.key s.cycle then .busy
      else
        let u := (s.noteUseEv (s.unitOf f.ag) (s.pasidOf f.ag) t).countXfer t.key
        .ok (.mem t.key t.zb) (if t.tso && acc == .read then (u.spotFind f (.mem t.key t.zb) n true).2.2 else u)

/-- Bytes at a virtual address as resolved pieces. -/
def tSpots (f : Flight) (acc : Access) : List (Nat × Nat) → State → TRes (List (Spot × Nat × Nat))
  | [], s => .ok [] s
  | (va, n) :: rest, s =>
    (s.tPage f acc va n).bind fun p t => (tSpots f acc rest t).bind fun l u => .ok ((p, n, va) :: l) u

/-- A side of a raw element: its bytes in memory, or in the submitter's scratchpad (15 R462). -/
def State.tSide (s : State) (f : Flight) (acc : Access) (scr : Bool) (off : Int) (n align : Nat) :
    TRes (List (Spot × Nat × Nat)) :=
  if scr then
    match (s.submitter f.ag).bind fun w => (s.wgs.find? w).map fun (g : Wg) => (w, (s.khWg g).scratch) with
    | none => .fault cPROT 0
    | some (wid, bytes) =>
      if off < 0 ∨ off + (n : Int) > (bytes : Int) then .fault cSCRBOUND 0
      else if off.toNat % align ≠ 0 then .fault cMISALIGN 0
      else .ok [(.scr wid off.toNat, n, 0)] s
  else
    let va := wrapInt off 64
    if va ≥ 2 ^ 57 then .fault cPROT va
    else if va % align ≠ 0 then .fault cMISALIGN va
    else tSpots f acc (devPieces va n) s

/-- Resolved pieces read: the value. -/
def tRead (f : Flight) : List (Spot × Nat × Nat) → State → TRes Nat
  | [], s => .ok 0 s
  | (p, n, va) :: rest, s =>
    let r := s.spotFind f p n false
    if r.2.1 then .fault cPOISON va
    else (tRead f rest r.2.2).bind fun x t => .ok (r.1 + 256 ^ n * x) t

/-- Where the source of a TMOV stands: places of memory, whichever pages show them, or of scratchpad, each with its length. -/
def State.tShared (s : State) (f : Flight) : List ((Nat × Nat) × Nat) :=
  let mem := ((f.tFrom 0).flatMap fun e => devPieces e.1 e.2).filterMap fun p =>
    match s.trAg f.ag p.1 .read with | .ok t => some ((0, t.key), p.2) | _ => none
  let scr := match f.instr, s.submitter f.ag with
    | .tmov _, some w => if f.tConv || !((f.tw 3).testBit 6) then [] else
      (List.range f.tVolume).map fun j => ((w + 1, (f.tBase 1 + f.tOffset 10 (2 ^ f.tElog) j).toNat), 2 ^ f.tElog)
    | _, _ => []
  mem ++ scr

/-- What a TMOV leaves in `n` bytes at a spot that it stores `v` to: bytes that its source holds too are unspecified there (15 R463). -/
def State.tMixed (s : State) (f : Flight) (p : Spot) (n v : Nat) : Nat :=
  let l := s.tShared f
  let shared := fun (i : Nat) => l.any fun e => e.1.1 == p.place.1 && decide (e.1.2 ≤ p.place.2 + i ∧ p.place.2 + i < e.1.2 + e.2)
  leBytes ((List.range n).map fun i =>
    if shared i then Config.freeByte s.fresh (2 ^ 58 + (p.place.2 + i) % 2 ^ 57) else BitVec.ofNat 8 (v / 256 ^ i))

/-- Resolved pieces written. -/
def tWrite (f : Flight) (table : Nat) : List (Spot × Nat × Nat) → Nat → State → TRes Unit
  | [], _, s => .ok () s
  | (p, n, va) :: rest, v, s =>
    let r := s.spotPut f p n (s.tMixed f p n v) table
    if r.2 then .fault cPOISON va else tWrite f table rest (v / 256 ^ n) (r.1.sendSpot f p)

/-- An element without conversion: both sides are resolved, then it is read and written (07 R209). -/
def State.tCopy (s : State) (f : Flight) (sScr dScr : Bool) (src dst : Int) (n align : Nat) : TRes Unit :=
  (s.tSide f .read sScr src n align).bind fun a t =>
    (t.tSide f .write dScr dst n align).bind fun b u => (tRead f a u).bind fun x v => tWrite f 0 b x v

/-- A value written as an element without conversion; `table`: the tensor header of the record it is written through. -/
def State.tPut (s : State) (f : Flight) (dScr : Bool) (dst : Int) (n align x : Nat) (table : Nat := 0) : TRes Unit :=
  (s.tSide f .write dScr dst n align).bind fun b u => tWrite f table b x u

/-- The requests of a converted element resolved, in their order. -/
def tReqs (f : Flight) : List AReq → State → TRes (List (AReq × Spot))
  | [], s => .ok [] s
  | r :: rest, s =>
    match r.pre with
    | some (c, _) => .fault c 0
    | none =>
      (s.tPage f r.acc r.va r.size).bind fun p t => (tReqs f rest t).bind fun l u => .ok ((r, p) :: l) u

/-- The pieces of a part read and put together. -/
def tGather (f : Flight) : List (AReq × Spot) → State → TRes Nat
  | [], s => .ok 0 s
  | (r, p) :: rest, s =>
    let v := s.spotFind f p r.size false
    if v.2.1 then .fault cPOISON r.va else (tGather f rest v.2.2).bind fun x t => .ok (v.1 + 256 ^ r.size * x) t

/-- One part of an element read. -/
def State.tPart (s : State) (f : Flight) (l : List (AReq × Spot)) (slot : Nat) : TRes Nat :=
  tGather f (l.filter fun e => e.1.slot / 1024 == slot) s

/-- An element as its source record delivers it (05 R153); `copy`: its bits as they stand. -/
def State.tLoad (s : State) (f : Flight) (r : BufRec) (x : Int) (copy : Bool) (fw : W32) : TRes Nat :=
  (tReqs f (recLoadReqs r 0 x 4 0) s).bind fun l t =>
    if l.isEmpty then .ok 0 t else
    (t.tPart f l 0).bind fun data t1 => (t1.tPart f l 1).bind fun sc t2 => (t2.tPart f l 2).bind fun cb t3 =>
      let sub := (recSubs r x 4).getD 0 0
      .ok (if copy then data / 2 ^ sub % 2 ^ fmtBits r.fmt else deliver r.fmt r.scale (toBytes 512 cb) data sub sc fw) t3

/-- The source elements of a step read, the first lowest. -/
def tLoads (f : Flight) (r : BufRec) (copy : Bool) : List (Int × W32) → State → TRes (List Nat)
  | [], s => .ok [] s
  | (x, fw) :: rest, s =>
    (s.tLoad f r x copy fw).bind fun v t => (tLoads f r copy rest t).bind fun l u => .ok (v :: l) u

/-- The parts of a converted store carried out. -/
def tApply (f : Flight) (key : AReq → List (Nat × Nat)) (ops : AReq → Option StOp) : List (AReq × Spot) → State → TRes Unit
  | [], s => .ok () s
  | (r, p) :: rest, s =>
    match ops r with
    | none => tApply f key ops rest s
    | some op =>
      if !(op (key r)).writeOnly then tApply f key ops rest s else
      let old := (s.spotRead p r.size).1
      let x := s.spotOp f.ag p (op (key r))
      if x.2.2 then .fault cPOISON r.va
      else
        let v := (x.1.spotRead p r.size).1
        let m := x.1.tMixed f p r.size v
        let t := if m = v then x.1 else (x.1.spotWrite p r.size m 0 true).1
        tApply f key ops rest ((t.replaced f.path p.place.1 p.place.2 r.size old m).sendSpot f p)

/-- The parts of a store through a record: elements that make up a whole row. -/
def tRowParts (f : Flight) (r : BufRec) (table : Nat) (l : List (Nat × Nat)) : List (AReq × StOp) :=
  elemStores r table (lastElems (l.filterMap fun e => (f.tPlace e.1).map fun p => { lane := 0, place := p, val := e.2 % 2 ^ 32 }))

/-- The parts of a store through a record: whole blocks, or single elements; or the copied bits of one. -/
def tStoreParts (r : BufRec) (table : Nat) (x : Int) (vals : List Nat) (copy : Bool) :
    Option (List (AReq × StOp)) :=
  if (List.range vals.length).any fun (k : Nat) => r.elem (x + k) == .prot then none
  else if copy then
    match r.elem x with
    | .at p =>
      let sp := r.span p
      some (bitParts 0 0 (r.base + sp.1) sp.2.1 sp.2.2 (fmtBits r.fmt) fun off n lo _ => .wbits off n (vals.getD 0 0 / 2 ^ lo) table)
    | _ => some []
  else
    some (elemStores r table
      (laneElems r 0 x (4 * vals.length) (vals.foldr (fun v a => v % 2 ^ 32 + 2 ^ 32 * a) 0)))

/-- A store through a record. -/
def State.tStore (s : State) (f : Flight) (parts : Option (List (AReq × StOp))) : TRes Unit :=
  match parts with
  | none => .fault cPROT 0
  | some parts =>
    (tReqs f (parts.map (·.1)) s).bind fun l t =>
      let key := fun (q : AReq) =>
        (l.filter fun e => e.1.lane == q.lane && e.1.slot / 1024 == q.slot / 1024 + 1).map fun (e : AReq × Spot) =>
          (match e.2 with | .mem k z => 2 * k + z.toNat | .scr _ _ => 0, e.1.size)
      let ops := fun (q : AReq) => (parts.find? fun e => e.1 == q).map (·.2)
      tApply f key ops l t

/-- A byte moved between raw records (15 R464): each side follows its record's OOB. -/
def State.tByte (s : State) (f : Flight) (a b : BufRec) (x y : Int) : TRes Unit :=
  match a.rawAt x 1, b.rawAt y 1 with
  | .prot, _ => .fault cPROT 0
  | _, .prot => .fault cPROT 0
  | p, q =>
    let v : TRes Nat := match p with
      | .at p => (s.tSide f .read false ((a.base + p.1 : Nat) : Int) 1 1).bind fun l t => tRead f l t
      | _ => .ok 0 s
    v.bind fun v t =>
      match q with
      | .at q => t.tPut f false ((b.base + q.1 : Nat) : Int) 1 1 v (tableKey s f.ag b)
      | _ => .ok () t

/-- A free word for each element a step reads. -/
def freeElem (s : State) (k : Nat) : W32 := Config.freeWord s.fresh (2 ^ 44 + k)

/-- The element or block of a conversion at a cursor (15 R464). A row with a scale of its own that the walk writes whole is written where its
first element stands. A group of B elements that does not start on a block boundary is stored under the blocks' stored scales, though the
walk as a whole may cover a block: the model's choice (log entry 87). -/
def State.tConvert (s : State) (f : Flight) (c : Nat) : TRes Unit :=
  let r := f.tRecs
  let n := f.tBlock
  let x := f.tBase 1 + f.tOffset 10 1 (c * n)
  let y := f.tBase 0 + f.tOffset 14 1 (c * n)
  if r.1.raw then s.tByte f r.1 r.2 x y
  else
    match f.tMates c with
    | some js =>
      if js.head? ≠ some c then .ok () s else
      (tLoads f r.1 false (js.zipIdx.map fun e => (f.tBase 1 + f.tOffset 10 1 e.1, freeElem s e.2)) s).bind fun vals t =>
        t.tStore f (some (tRowParts f r.2 (tableKey t f.ag r.2) (js.zip vals)))
    | none =>
      let copy := r.1.fmt == r.2.fmt && r.1.scale == 0 && r.2.scale == 0
      (tLoads f r.1 copy ((List.range n).map fun (k : Nat) => (x + k, freeElem s k)) s).bind fun vals t =>
        t.tStore f (tStoreParts r.2 (tableKey t f.ag r.2) y vals copy)

/-- The piece of a row at a cursor (15 R465). -/
def State.tRow (s : State) (f : Flight) (gather : Bool) (c : Nat) : TRes Unit :=
  let pp := f.tPieces
  let i := c / pp
  let p := c % pp
  let n := min 16 (f.tw 6 - 16 * p)
  let iScr := (f.tw 3).testBit 6
  let pScr := (f.tw 3).testBit 7
  let list : Int := ((f.tw 2 + 4 * i : Nat) : Int)
  (s.tSide f .read false list 4 4).bind fun l t => (tRead f l t).bind fun idx t1 =>
    let packed := f.tBase 0 + ((i * f.tw 8 + 16 * p : Nat) : Int)
    let indexed := f.tBase 1 + ((idx * f.tw 7 + 16 * p : Nat) : Int)
    if idx = 2 ^ 32 - 1 then
      if gather then t1.tPut f pScr packed n 1 0 else .ok () t1
    else if gather then t1.tCopy f iScr pScr indexed packed n 1
    else t1.tCopy f pScr iScr packed indexed n 1

/-- The element at the operation's cursor. -/
def State.tElement (s : State) (f : Flight) : TRes Unit :=
  let n := 2 ^ f.tElog
  let dScr := (f.tw 3).testBit 7
  match f.instr with
  | .tmov _ =>
    if f.tConv then s.tConvert f f.cur
    else
      s.tCopy f ((f.tw 3).testBit 6) dScr (f.tBase 1 + f.tOffset 10 n f.cur) (f.tBase 0 + f.tOffset 14 n f.cur) n n
  | .tgath _ => s.tRow f true f.cur
  | .tscat _ => s.tRow f false f.cur
  | .tfill _ => s.tPut f dScr (f.tBase 0 + f.tOffset 14 n f.cur) n n (f.tw 2 % 256 ^ n)
  | _ => .ok () s

/-! ### Start, progress and faults -/

/-- The start of an operation (15 R462, R464): a row length out of range, and the records of a conversion read and
checked. -/
def State.tStart (s : State) (f : Flight) : TRes (List Nat) :=
  if !f.tWalk then
    if f.tw 6 = 0 ∨ f.tw 6 > 2 ^ 20 then .fault cILLOP 0 else .ok [0, 0] s
  else if !f.tConv then .ok [0, 0] s
  else
    (s.tSide f .read false (f.tBase 2) 40 8).bind fun a t => (tRead f a t).bind fun x t1 =>
      (t1.tSide f .read false (f.tBase 2 + 40) 40 8).bind fun b t2 => (tRead f b t2).bind fun y t3 =>
        let r := BufRec.ofBits x
        let w := BufRec.ofBits y
        let g : Flight := { f with lw := [(0, [x, y])] }
        if r.bad || w.bad || !w.write || (isCb2 w.fmt && !w.raw) then .fault cPROT 0
        else if (r.raw != w.raw) || f.tw 3 / 64 % 4 ≠ 0 || decide (f.tw 0 ≥ 2 ^ 32) || decide (f.tw 1 ≥ 2 ^ 32) ||
            f.tw 5 % g.tBlock ≠ 0 then .fault cILLOP 0
        else .ok [x, y] t3

/-- An operation changed. -/
def State.updTensor (s : State) (fl : Nat) (g : Flight → Flight) : State := { s with flights := s.flights.upd g fl }

/-- The number by which the engine of a context stands at its cluster's kiln. -/
def State.tKiln (f : Flight) : Nat := match f.ag with | .ctx n => ctxCluster n | .gang _ _ => 0

/-- A fault parks the context from whatever state it is in, the operation to restart at its cursor (07 R211, R480). -/
def State.parkTensor (s : State) (f : Flight) (cause addr : Nat) : State :=
  match f.ag with
  | .gang _ _ => s
  | .ctx n =>
    let c := s.ctx n
    let park := fun (b : Bool) (w : Option (Nat × Nat × Option Nat)) =>
      let r : LfRec :=
        { part := partOfCluster (ctxCluster n), cause := cause, who := n / 64 + 32 * (n / 16 % 4) + 128 * (n % 16),
          pc := f.pc, addr := addr, elem := f.cur % 2 ^ 32, pasid := c.pkt.pasid }
      let t := s.updCtx n fun k => { k with stat := .parked b w, restart := some f.id }
      ({ t with lfHeld := t.lfHeld ++ [r] }).kilnDrop (State.tKiln f) (kilnOp f.id)
    match c.stat with
    | .running => park false none
    | .waiting d k x => park false (some (d, k, x))
    | .completing => park true none
    | _ => s

/-- Wait marks on an operation's mark access: since when, or no wait. -/
def Flight.waitMark (f : Flight) (c : Nat) : Flight := { f with accs := f.accs.map fun a => { a with waitSince := c } }

/-- The outcome of a part as the operation's state: progress through `k`, a park, a request for a translation, or a wait
marked. -/
def State.tTake {α : Type} (s : State) (f : Flight) (r : TRes α) (k : α → State → State) : State :=
  let wait := fun (t : State) => t.kilnStall (State.tKiln f) (kilnOp f.id) true
  match r with
  | .ok a t => ((k a t).updTensor f.id (·.waitMark 0)).kilnStall (State.tKiln f) (kilnOp f.id) false
  | .fault c a => (s.dropFar (s.pasidOf f.ag)).parkTensor f c a
  | .ats p => wait (s.askPage (s.pasidOf f.ag) p)
  | .hold _ => wait (if f.accs.any (fun a => a.waitSince = 0) then s.updTensor f.id (·.waitMark (s.cycle + 1)) else s)
  | .far => wait (if f.accs.any (fun a => a.waitSince = 0) then s.updTensor f.id (·.waitMark (s.cycle + 1)) else s)
  | .busy => wait s

/-- Is an earlier tensor-movement operation of the context unfinished, or the context parked for this one? -/
def State.tHeld (s : State) (f : Flight) : Bool :=
  (s.flights.any fun e => decide (e.1 < f.id) && isTensor e.2.instr && sameMemAgent e.2.ag f.ag &&
    e.2.accs.any fun a => !a.done) ||
  (match f.ag with
    | .ctx n => (s.ctx n).restart == some f.id
    | .gang _ _ => true)

/-- The operation has moved its last element. -/
def State.tDone (s : State) (f : Flight) : State :=
  (s.updTensor f.id fun x => { x with accs := x.accs.map fun a => { a with done := true } }).kilnDrop (State.tKiln f)
    (kilnOp f.id)

/-- The row that the index list of a TGATH or TSCAT names for row `i`, as it stands now; none where it cannot be read now. -/
def State.tIndex (s : State) (f : Flight) (i : Nat) : Option Nat :=
  match (s.tSide f .read false ((f.tw 2 + 4 * i : Nat) : Int) 4 4).bind fun l t => tRead f l t with
  | .ok x _ => some x
  | _ => none

/-- The operation as it goes on after its start; none where its records cannot be read now. -/
def State.tStarted (s : State) (f : Flight) : Option Flight :=
  if (f.lw.find? 0).isSome then some f else
  match s.tStart f with
  | .ok l _ => some { f with lw := [(0, l)] }
  | _ => none

/-- The bytes in memory that an operation has still to read or write, by virtual address and length; none where its records or its index
list cannot be read now. -/
def State.tRanges (s : State) (f : Flight) : Option (List (Nat × Nat)) :=
  (s.tStarted f).bind fun g =>
    if g.tWalk then some (g.tFrom (g.cur * g.tBlock) ++ g.tTo (g.cur * g.tBlock))
    else
      let row := fun (i : Nat) => (s.tIndex g i).map fun x =>
        [(g.tw 2 + 4 * i, 4)] ++
        (if (g.tw 3).testBit 7 then [] else [(wrapInt (g.tBase 0 + ((i * g.tw 8 : Nat) : Int)) 64, g.tw 6)]) ++
          if (g.tw 3).testBit 6 || x == 2 ^ 32 - 1 then [] else [(wrapInt (g.tBase 1 + ((x * g.tw 7 : Nat) : Int)) 64, g.tw 6)]
      let first := g.cur / max 1 g.tPieces
      (List.range (g.tw 5 - first)).foldr (fun i a => match row (first + i), a with | some x, some y => some (x ++ y) | _, _ => none)
        (some [])

/-- Does an operation move bytes of a TSO page (06 R181)? One whose bytes cannot be told now counts as one that does (log entry 8). -/
def State.tTso (s : State) (f : Flight) : Bool :=
  match s.tRanges f with
  | none => true
  | some l => (l.flatMap fun e => devPieces e.1 e.2).any fun p =>
    match s.trAg f.ag p.1 .read with | .ok t => t.tso && !t.isReg | _ => false

/-- The page by which an operation stands among its agent's TSO accesses. -/
def State.tMarked (s : State) (f : Flight) : Flight :=
  { f with pages := if s.tTso f then [{ vpage := 0, key := 0, tso := true, zb := false }] else [] }

/-- The next step of a tensor-movement operation: its start, its kiln request, or one element (07 R209, R217). -/
def State.tensorStep (s : State) (f : Flight) : State :=
  if s.tHeld f || s.swapped.has (partOfCluster (State.tKiln f)) then s
  else if (f.lw.find? 0).isNone then
    s.tTake f (s.tStart f) fun l t =>
      let g := fun (x : Flight) => { x with lw := [(0, l)] }
      let u := t.updTensor f.id fun x => t.tMarked (g x)
      if (g f).tTotal = 0 then u.tDone f else u
  else
    let c := State.tKiln f
    if f.tHeavy && !(s.kilnHas c (kilnOp f.id)) then s.kilnAsk c (kilnOp f.id) 1
    else
      s.tTake f (s.tElement f) fun _ t =>
        let u := t.updTensor f.id fun x => { x with cur := x.cur + 1 }
        if f.cur + 1 ≥ f.tTotal then u.tDone f else u

/-! ### Issue -/

/-- An S register of the issuing agent as a bundle reads it. -/
def sReg (s : State) (is : Issue) (k : Nat) : Nat :=
  flightVal s is.ag (.s k) 0 (960 + k) (hazVal s is.cyc (s.hazAll is.ag) (.s k) 0 (960 + k) (s.rdS is.ag k).toNat)

/-- An even S pair as a bundle reads it. -/
def sPair (s : State) (is : Issue) (sp : BitVec 10) : Nat :=
  match opnd sp with
  | .s k => sReg s is k + 2 ^ 32 * sReg s is (k + 1)
  | _ => 0

/-- The operands of a tensor-movement operation as read at issue: the destination (or packed) pair, the source (or indexed)
pair, the third pair, IMM32, whether it converts, and its block: extents and strides, or the row block. -/
def tensorWords (o : Opw) (s : State) (is : Issue) (walk : Bool) : List Nat :=
  let b := match opnd o.b with | .s k => k | _ => 0
  let d := o.imm.toNat % 8
  let blk :=
    if walk then
      (List.range 5).map (fun i => if i < d then sReg s is (b + i) else 1) ++ (List.range 8).map fun i => sReg s is (b + 5 + i)
    else (List.range 4).map fun i => sReg s is (b + i)
  [sPair s is o.dst, sPair s is o.a, sPair s is o.c, o.imm.toNat, if o.c = 0x300 then 0 else 1] ++ blk

/-- The effect of a tensor-movement instruction at issue. -/
def tensorEffect (i : Instr) (o : Opw) (walk : Bool) (s : State) (is : Issue) : State :=
  if s.counterFull is.ag 5 then s.blockRetry is.ag .inflight
  else
    s.issueFlight (s.tMarked { newFlight s is i 5 with
      rd := true, wr := true, nt := o.aux.getLsbD 0, sw := tensorWords o s is walk, accs := [markAcc] })

/-- TMOV (15 R462-R464, R466). -/
def execTmov (o : Opw) (s : State) : OutC := onceOp (.tmov o) o s (tensorEffect (.tmov o) o true)

/-- TGATH (15 R462, R465, R466). -/
def execTgath (o : Opw) (s : State) : OutC := onceOp (.tgath o) o s (tensorEffect (.tgath o) o false)

/-- TSCAT (15 R462, R465, R466). -/
def execTscat (o : Opw) (s : State) : OutC := onceOp (.tscat o) o s (tensorEffect (.tscat o) o false)

/-- TFILL (15 R462, R463, R466). -/
def execTfill (o : Opw) (s : State) : OutC := onceOp (.tfill o) o s (tensorEffect (.tfill o) o true)

/-- Has a tensor-movement operation still to reach one of some lines of memory, through whichever page? Where that cannot be told now, it
may have. -/
def State.tReaches (s : State) (e : Flight) (lines : List (Nat × Nat)) : Bool :=
  match s.tRanges e with
  | none => true
  | some l => (l.flatMap fun x => devPieces x.1 x.2).any fun p =>
    match s.trAg e.ag p.1 .read with
    | .ok t => !t.isReg && ((Loc.mem t.key t.tso t.zb).lines p.2).any lines.contains
    | .ats _ => true
    | .fault _ _ => false

/-- Must an access of a context follow elements of an earlier tensor-movement operation (06 R170)? -/
def State.tensorBefore (s : State) (f : Flight) (a : Acc) : Bool :=
  s.flights.any fun e => decide (e.1 < f.id) && isTensor e.2.instr && sameMemAgent e.2.ag f.ag &&
    (e.2.accs.any fun b => !b.done) && s.tReaches e.2 a.lines

end Sys2Proof.Machine
end

