-- ==== Sys2Proof/Machine/Lauter.lean ====
section
/-!
DEFINITION. Lauter contexts (07 R206-R212, R480; 10 R278): start, issue, completion, RESUME and ABORT, and their fault records.
-/
namespace Sys2Proof.Machine

/-- A context as a packet starts it (07 R208); what the packet's release side covers is ordered before it (06 R177). -/
def Ctx.start (p : LPacket) (cycle : Nat) : Ctx :=
  { Ctx.free with
    stat := .running, pkt := p, pc := p.entry,
    s := p.arg.zipIdx.foldl (fun (t : Tab W32) e => Tab.set 0 t e.2 e.1) [],
    con := p.cons.map Con.every,
    readyAt := cycle }

/-- The lowest free context of an engine. -/
def State.freeCtx (s : State) (e : Nat) : Option Nat :=
  ((List.range 16).map fun k => 16 * e + k).find? fun n => (s.ctx n).stat == .free

/-- Whole packets that gangs' LAU_CMD queues still hold are taken while their engines have room (07 R186). -/
def State.takeAllLau (s : State) (cluster : Nat) : State :=
  s.gangs.foldl (fun (t : State) e =>
    if clusterOf e.2.core == cluster then (List.range 16).foldl (fun (u : State) n => u.takeLau e.1 n 16) t else t) s

/-- LAUTER_CONTEXT_START (07 R206, R208, R210): the context sees its submitter's earlier writes on every path (13 R397). -/
def execLauterContextStart (engine : Nat) (s : State) : OutC :=
  if s.swapped.has (partOfCluster (engine / 4)) then runEv s s else
  match s.cmdq engine, s.freeCtx engine with
  | p :: rest, some n =>
    let t := { s with cmdqs := Tab.set [] s.cmdqs engine rest }
    let j : Join := { ag := .ctx n, writers := allPaths, readers := 2 ^ 5 }
    let u := t.updCtx n fun _ => Ctx.start p s.cycle
    runEv s ((if p.lx then (u.joined j).joinLater j p.cons else u).takeAllLau (engine / 4))
  | _, _ => runEv s s

/-- The key under which an engine's last choice stands beside the datapaths'. -/
def engineKey (engine : Nat) : Nat := 4096 + engine

/-- The contexts of an engine that may issue, in round-robin order after the last one chosen (07 R206). -/
def State.engineReady (s : State) (engine : Nat) : List Nat :=
  let last := ((s.dps.find? (engineKey engine)).map (·.1)).getD 15
  ((List.range 16).map fun k => 16 * engine + (last + 1 + k) % 16).filter fun n =>
    let c := s.ctx n
    c.stat == .running && decide (c.readyAt ≤ s.cycle) && !(s.swapped.has (partOfCluster (ctxCluster n)))

/-- A context parks for the oldest of its asynchronous causes, whose record names the bundle that raised it (07 R480); those of other
bundles stay for later. -/
def State.parkAsync (s : State) (n : Nat) : State :=
  match (s.ctx n).asyncs with
  | [] => s
  | x :: rest =>
    let pc := x / 2 ^ 64
    let causes := (rest.filter fun y => y / 2 ^ 64 == pc).foldl (fun a y => a ||| y % 2 ^ 32) (x % 2 ^ 32)
    (s.updCtx n fun k => { k with asyncs := rest.filter fun y => y / 2 ^ 64 != pc }).parkCtx n causes pc 0 0xFFFFFFFF false

/-- LAUTER_ISSUE (07 R206): at most one bundle a cycle. A context with an asynchronous cause parks at its bundle boundary
(07 R480). -/
def execLauterIssue (engine : Nat) (s : State) : OutC :=
  let free := match s.dps.find? (engineKey engine) with
    | some (_, c, _) => decide (c ≤ s.cycle)
    | none => true
  if !free || s.latch.isSome then runEv s s else
  match s.engineReady engine with
  | [] => runEv s s
  | n :: _ =>
    let c := s.ctx n
    if !c.asyncs.isEmpty && !c.seqOnly then runEv s (s.parkAsync n)
    else
      runEv s { s with latch := some (.ctx n), dps := s.dps.put (engineKey engine) (n % 16, s.cycle + 1, 0) }

/-- LAUTER_FAULT_RECORD_WRITE (10 R278). -/
def execLauterFaultRecordWrite (part : Nat) (s : State) : OutC := runEv s (s.lfWrite part)

/-- A context freed: what is left of its operations is dropped but for its writes. -/
def State.freeContext (s : State) (n : Nat) : State :=
  let ids := (s.flights.filter fun e => e.2.ag == .ctx n).map (·.1)
  let t := ids.foldl (fun (t : State) i => t.kilnDrop (ctxCluster n) (kilnOp i)) s
  { (t.dropHold (.ctx n)).orphan (fun a => a == .ctx n) with ctxs := t.ctxs.del n }

/-- The arrival of a completion action (07 R212): nothing when it is done or not asked for, a cause when it cannot be
applied. -/
def State.ctxArrive (s : State) (n : Nat) : TRes Unit :=
  let c := s.ctx n
  if !(c.pkt.cfl.testBit 0) || c.arrived then .ok () s else
  let va := c.pkt.cbAddr
  match s.trAg (.ctx n) va .rmw with
  | .fault k _ => .fault k va
  | .ats p => .ats p
  | .ok t =>
    if t.isReg || t.tier == 3 then .fault cPROT va
    else if t.hold then .hold va
    else if s.portHeld t.key s.cycle then .busy
    else match s.farGate (s.unitOf (.ctx n)) c.pkt.pasid t.key with
    | some none => .fault cPOISON va
    | some (some p) => .ats p
    | none =>
      let u := (s.noteUseEv (s.unitOf (.ctx n)) c.pkt.pasid t).countXfer t.key
      let r := u.cbUpdate (.mem t.key t.zb) fun x => cbArriveFn x 1 c.pkt.cbBytes
      if r.2.2 then .fault cPOISON va
      else .ok () ((if keyTier t.key = 2 then r.1.sendReq (s.slotOf (.ctx n)) 5 (peerOf t.key) 0 msgRequest [t.key, 5] else r.1).updCtx n
        fun k => { k with arrived := true })

/-- The decrement of a completion action, after which the context is free. -/
def State.ctxFinish (s : State) (n : Nat) : DRes Unit :=
  let c := s.ctx n
  let d := if c.pkt.cfl.testBit 1 then s.dcDecrement c.pkt.dcId 1 else .ok () s
  d.bind fun _ t => .ok () (t.freeContext n)

/-- A context's completion arrival held on a migrating page: the hold's token, whose age is the hold's (09 R270). -/
def State.holdArrive (s : State) (n va : Nat) : State :=
  match s.holdToken (.ctx n) with
  | some _ => s
  | none =>
    let t := s.devFlight (.ctx n) .dev .none
    { t with flights := t.flights.upd (fun (f : Flight) =>
        { f with instr := .migrationHoldExpire s.nextId, accs := [], sw := [va, Access.rmw.code, 5] }) s.nextId }

/-- LAUTER_COMPLETION (07 R210, R212): once every access of a COMPLETING context has been applied; poison that one of them met parks it
first (07 R480). -/
def execLauterCompletion (ctx : Nat) (s : State) : OutC :=
  let c := s.ctx ctx
  if c.stat ≠ .completing || s.flights.any (fun e => e.2.ag == .ctx ctx && e.2.path ≠ 8) || !((s.allEarlier (.ctx ctx)).all s.applied) then
    runEv s s
  else if !c.asyncs.isEmpty then runEv s (s.parkAsync ctx) else
  match s.ctxArrive ctx with
  | .fault k a => runEv s (((s.dropHold (.ctx ctx)).dropFar c.pkt.pasid).parkCtx ctx k c.pc a 0xFFFFFFFF false)
  | .ats p => runEv s (s.askAts (some (c.pkt.pasid, p)))
  | .hold va => runEv s (s.holdArrive ctx va)
  | .far => runEv s s
  | .busy => runEv s s
  | .ok _ t =>
    match (t.dropHold (.ctx ctx)).ctxFinish ctx with
    | .ok _ u => runEv s u
    | .fault _ u => runEv s u
    | .wait w => runEv s (t.askAts w)

/-- RESUME written to a context's control word (07 R210, R480): it continues where its cause left it. -/
def State.ctxResume (s : State) (n : Nat) : State :=
  s.updCtx n fun c =>
    match c.stat with
    | .parked true _ => { c with stat := .completing, restart := none }
    | .parked false (some (d, k, x)) =>
      let met := match x with | some m => decide (s.counter (.ctx n) 5 ≤ m) | none => false
      { c with stat := if met then .running else .waiting d k x, restart := none }
    | .parked false none => { c with stat := .running, restart := none, readyAt := max c.readyAt s.cycle }
    | _ => c

/-- ABORT written to a context's control word (07 R210): the context is free, with no completion action. -/
def State.ctxAbort (s : State) (n : Nat) : State :=
  match (s.ctx n).stat with
  | .parked _ _ => s.freeContext n
  | _ => s

/-- LAUTER_RESUME (07 R210, 10 R278). -/
def execLauterResume (ctx : Nat) (s : State) : OutC := runEv s (s.ctxResume ctx)

/-- LAUTER_ABORT (07 R210, 10 R278). -/
def execLauterAbort (ctx : Nat) (s : State) : OutC := runEv s (s.ctxAbort ctx)

/-- The state that a control word reads (10 R278). -/
def CtxStat.code : CtxStat → Nat
  | .free => 0
  | .running => 1
  | .waiting _ _ _ => 2
  | .parked _ _ => 3
  | .completing => 4

end Sys2Proof.Machine
end

