-- ==== Sys2Proof/Machine/Registers.lean ====
section
/-!
DEFINITION. Register space (10 R272-R278, R289, Tables 10.2-10.4, 10.6; 03 Table 3.1) and the host's window onto memory
(10 R272).
-/
namespace Sys2Proof.Machine

/-! ### Reads -/

/-- A 32-bit half of a 64-bit register. -/
def halfOf (x : Nat) (off : Nat) : Nat := if off % 8 = 4 then x / 2 ^ 32 % 2 ^ 32 else x % 2 ^ 32

/-- HEALTH (10 Table 10.6). -/
def State.health (s : State) : Nat :=
  s.dev.cxldeg.toNat + 2 * s.dev.fabdeg.toNat + 4 * s.dev.pwrcap.toNat + 8 * s.dev.thermal.toNat + 16 * s.dev.recbad.toNat +
    32 * s.dev.recovery.toNat + 2 ^ 8 * (s.dev.corr % 2 ^ 16) + 2 ^ 24 * min s.dev.nospare 255 +
    2 ^ 32 * (s.retiredCores.length % 256) + 2 ^ 40 * (s.retiredSlices.length % 256) + 2 ^ 63 * s.dev.replace.toNat

/-- A word of the device block (10 Table 10.3). -/
def State.devWord (s : State) (off : Nat) : Nat :=
  match off / 8 with
  | 0 => halfOf (0x090384 + 2 ^ 24 * (s.dev.stepping % 256)) off
  | 1 => halfOf s.health off
  | 2 => halfOf (s.dev.devctl.toNat / 2 % 2 * 2) off
  | 3 => halfOf s.dev.pasidtab.toNat off
  | 4 => halfOf s.dev.zbh0.toNat off
  | 5 => halfOf s.dev.zbh1.toNat off
  | 6 => if off % 8 = 0 then s.dev.pinmax.toNat else s.dev.chipid.toNat
  | 7 => halfOf s.dev.winbase.toNat off
  | 8 => if off % 8 = 0 then s.dev.fwver.toNat else s.dev.clkstep.toNat
  | _ => 0

/-- A queue's descriptor; one never written is all zero. -/
def State.queue (s : State) (q : Nat) : WorkQ := Tab.get WorkQ.zero s.queues q

/-- A word of a queue descriptor (03 Table 3.1). -/
def WorkQ.word (w : WorkQ) (off : Nat) : Nat :=
  match off / 4 with
  | 0 => w.base % 2 ^ 32
  | 1 => w.base / 2 ^ 32 % 2 ^ 32
  | 2 => w.log2
  | 3 => w.qflags.toNat
  | 4 => w.widxAddr % 2 ^ 32
  | 5 => w.widxAddr / 2 ^ 32 % 2 ^ 32
  | 6 => w.ridxAddr % 2 ^ 32
  | 7 => w.ridxAddr / 2 ^ 32 % 2 ^ 32
  | 8 => w.errAddr % 2 ^ 32
  | 9 => w.errAddr / 2 ^ 32 % 2 ^ 32
  | 10 => w.pasid
  | 11 => w.partMask
  | 12 => w.errcount
  | 13 => w.errtail
  | 14 => w.errhead
  | _ => 0

/-- A word of a partition block (10 Table 10.4). -/
def PartBlk.word (p : PartBlk) (off : Nat) : Nat :=
  match off / 4 with
  | 0 => halfOf p.supvec.toNat 0
  | 1 => halfOf p.supvec.toNat 4
  | 2 => halfOf p.ftpool.toNat 0
  | 3 => halfOf p.ftpool.toNat 4
  | 4 => halfOf p.dering.toNat 0
  | 5 => halfOf p.dering.toNat 4
  | 6 => p.dehead.toNat
  | 7 => p.detail.toNat
  | 8 => halfOf p.lovf.toNat 0
  | 9 => halfOf p.lovf.toNat 4
  | 10 => halfOf p.lfring.toNat 0
  | 11 => halfOf p.lfring.toNat 4
  | 12 => p.lflog2.toNat
  | 14 => p.lfhead.toNat
  | 15 => p.lftail.toNat
  | 16 => halfOf p.shadow.toNat 0
  | 17 => halfOf p.shadow.toNat 4
  | 18 => p.pen.toNat
  | 19 => p.derovf.toNat
  | 20 => p.stalecnt.toNat
  | 22 => halfOf p.imgbase.toNat 0
  | 23 => halfOf p.imgbase.toNat 4
  | 24 => halfOf p.imgsize.toNat 0
  | 25 => halfOf p.imgsize.toNat 4
  | 26 => p.mctimeout.toNat
  | _ => 0

/-- A word of register space (10 R273, Table 10.2). The layout of a bond region's status word is not given: a free word. -/
def State.regWord (s : State) (off : Nat) : Nat :=
  if off < 0x10000 then s.devWord off
  else if off < 0x18000 then (s.queue ((off - 0x10000) / 64)).word (off % 64)
  else if 0x20000 ≤ off ∧ off < 0x28000 then (s.part ((off - 0x20000) / 0x1000)).word (off % 0x1000)
  else if 0x30000 ≤ off ∧ off < 0x32000 then ((s.ctx ((off - 0x30000) / 4)).stat).code
  else if 0x40000 ≤ off ∧ off < 0x40100 then if off % 8 = 0 then s.kbudget.getD ((off - 0x40000) / 8) 32 else 0
  else if 0x50000 ≤ off ∧ off < 0x50000 + 4 * 3200 then Config.freeNat s.fresh (2 ^ 45 + off) % 2 ^ 32
  else if 0x100000 ≤ off ∧ off < 0x100200 then halfOf (s.routes.getD ((off - 0x100000) / 8) 0).toNat off
  else 0

/-- A register read of 4 or 8 bytes (10 R273). -/
def State.regRead (s : State) (off n : Nat) : Nat :=
  if n = 8 then s.regWord off + 2 ^ 32 * s.regWord (off + 4) else s.regWord off

/-! ### Writes -/

/-- A 64-bit register with one half replaced. -/
def putHalf (x : W64) (off v : Nat) : W64 :=
  BitVec.ofNat 64 (if off % 8 = 4 then x.toNat % 2 ^ 32 + 2 ^ 32 * v else x.toNat / 2 ^ 32 * 2 ^ 32 + v)

/-- A number of two words with one replaced. -/
def putHalfN (x off v : Nat) : Nat := (putHalf (BitVec.ofNat 64 x) off v).toNat

/-- A word written in the device block; a warm reset follows a 1 in DEVCTL[0] (10 Table 10.3, R294). -/
def State.devWordSet (s : State) (off v : Nat) : State :=
  let d := s.dev
  match off / 8 with
  | 2 =>
    if off % 8 = 4 then s
    else
      let t := { s with dev := { d with devctl := BitVec.ofNat 64 (v / 2 % 2 * 2) } }
      if v % 2 = 1 then t.warmReset (v / 2 % 2 = 1) else t
  | 3 => { s with dev := { d with pasidtab := putHalf d.pasidtab off v } }
  | 4 => { s with dev := { d with zbh0 := putHalf d.zbh0 off v } }
  | 5 => { s with dev := { d with zbh1 := putHalf d.zbh1 off v } }
  | 6 =>
    if off % 8 = 0 then { s with dev := { d with pinmax := BitVec.ofNat 32 v } }
    else { s with dev := { d with chipid := BitVec.ofNat 32 (v % 64) } }
  | 7 => { s with dev := { d with winbase := putHalf d.winbase off v } }
  | _ => s

/-- A queue's descriptor replaced. -/
def State.putQueue (s : State) (q : Nat) (w : WorkQ) : State := { s with queues := Tab.set WorkQ.zero s.queues q w }

/-- Is a queue enabled? -/
def WorkQ.on (w : WorkQ) : Bool := w.qflags.getLsbD 0

/-- Is a descriptor refused (10 R274)? -/
def State.queueBad (s : State) (w : WorkQ) : Bool :=
  let far := fun (a : Nat) => a % 8 ≠ 0 || decide (a ≥ 2 ^ 57)
  let e := s.peekN (s.dev.pasidtab.toNat + 8 * w.pasid) 8
  decide (w.log2 < 4) || decide (w.log2 > 20) || w.base % (64 * 2 ^ w.log2) ≠ 0 || far w.widxAddr || far w.ridxAddr ||
    far w.errAddr || s.pasidPoison w.pasid || e % 2 = 0 || !(w.partMask.testBit (natBits e 63 61))

/-- QFLAGS written (10 R274): an enable is checked, and starts at the read index that the front end then reads; until that read has its
answer the queue is enabled and takes no packet, and the enable is tried again. -/
def State.queueFlags (s : State) (q v : Nat) : DRes Unit :=
  let w := s.queue q
  let soft := BitVec.ofNat 32 (v / 2 % 8 * 2)
  let bad := w.qflags &&& 16#32
  if v % 2 = 0 then .ok () (s.putQueue q { w with qflags := soft ||| bad, enabling := none })
  else if w.on && w.enabling.isNone then .ok () (s.putQueue q { w with qflags := soft ||| bad ||| 1#32 })
  else if w.enabling.isNone && s.queueBad w then .ok () (s.putQueue q { w with qflags := soft ||| 16#32 })
  else
    let w1 := { w with qflags := soft ||| 1#32, enabling := none }
    match s.devRead devUnit w.pasid (s.frontPart w) w.ridxAddr 8 with
    | .ok x t => .ok () (t.putQueue q { w1 with ridx := x })
    | .fault va t => .ok () ((t.putQueue q w1).queueStop q va)
    | .wait x => .ok () ((s.askAts x).putQueue q { w1 with enabling := some w1.qflags })

/-- A word written in a queue descriptor (10 R274): an enabled queue takes only QFLAGS and ERRHEAD. -/
def State.queueWordSet (s : State) (q off v : Nat) : DRes Unit :=
  let w := s.queue q
  let put := fun (x : WorkQ) => DRes.ok () (s.putQueue q x)
  match off / 4 with
  | 3 => s.queueFlags q v
  | 14 => put { w with errhead := v }
  | k =>
    if w.on then .ok () s else
    match k with
    | 0 => put { w with base := putHalfN w.base 0 v }
    | 1 => put { w with base := putHalfN w.base 4 v }
    | 2 => put { w with log2 := v }
    | 4 => put { w with widxAddr := putHalfN w.widxAddr 0 v }
    | 5 => put { w with widxAddr := putHalfN w.widxAddr 4 v }
    | 6 => put { w with ridxAddr := putHalfN w.ridxAddr 0 v }
    | 7 => put { w with ridxAddr := putHalfN w.ridxAddr 4 v }
    | 8 => put { w with errAddr := putHalfN w.errAddr 0 v }
    | 9 => put { w with errAddr := putHalfN w.errAddr 4 v }
    | 10 => put { w with pasid := v % 2 ^ 20 }
    | 11 => put { w with partMask := v % 256 }
    | 12 => put { w with errcount := v }
    | 13 => put { w with errtail := v }
    | _ => .ok () s

/-- A word written in a partition block; a partition reset follows a 1 in PRESET (10 Table 10.4, R294). -/
def State.partWordSet (s : State) (n off v : Nat) : State :=
  let x := BitVec.ofNat 32 v
  let up := fun (f : PartBlk → PartBlk) => s.updPart n f
  match off / 4 with
  | 0 => up fun p => { p with supvec := putHalf p.supvec 0 v }
  | 1 => up fun p => { p with supvec := putHalf p.supvec 4 v }
  | 2 => up fun p => { p with ftpool := putHalf p.ftpool 0 v }
  | 3 => up fun p => { p with ftpool := putHalf p.ftpool 4 v }
  | 4 => up fun p => { p with dering := putHalf p.dering 0 v }
  | 5 => up fun p => { p with dering := putHalf p.dering 4 v }
  | 6 => up fun p => { p with dehead := x }
  | 7 => up fun p => { p with detail := x }
  | 8 => up fun p => { p with lovf := putHalf p.lovf 0 v }
  | 9 => up fun p => { p with lovf := putHalf p.lovf 4 v }
  | 10 => up fun p => { p with lfring := putHalf p.lfring 0 v }
  | 11 => up fun p => { p with lfring := putHalf p.lfring 4 v }
  | 12 => up fun p => { p with lflog2 := x }
  | 14 => up fun p => { p with lfhead := x }
  | 15 => up fun p => { p with lftail := x }
  | 16 => up fun p => { p with shadow := putHalf p.shadow 0 v }
  | 17 => up fun p => { p with shadow := putHalf p.shadow 4 v }
  | 18 => up fun p => { p with pen := x &&& 1#32 }
  | 19 => up fun p => { p with derovf := x }
  | 20 => up fun p => { p with stalecnt := x }
  | 21 => if v % 2 = 1 then s.partitionReset n else s
  | 22 => up fun p => { p with imgbase := putHalf p.imgbase 0 v }
  | 23 => up fun p => { p with imgbase := putHalf p.imgbase 4 v }
  | 24 => up fun p => { p with imgsize := putHalf p.imgsize 0 v }
  | 25 => up fun p => { p with imgsize := putHalf p.imgsize 4 v }
  | 26 => up fun p => { p with mctimeout := x }
  | _ => s

/-- A control word of a Lauter context written (10 R278): 1 RESUME, 2 ABORT. -/
def State.ctxWordSet (s : State) (n v : Nat) : State :=
  match v with
  | 1 => s.ctxResume n
  | 2 => s.ctxAbort n
  | _ => s

/-- KBUDGET written (10 R289): 0 to 7 act as 8. -/
def State.kbudgetSet (s : State) (cluster v : Nat) : State :=
  { s with kbudget := s.kbudget.set cluster (max 8 (v % 256)) }

/-- A word of register space written by the host (10 R273, Table 10.2). -/
def State.regWordSet (s : State) (off v : Nat) : DRes Unit :=
  if off < 0x10000 then .ok () (s.devWordSet off v)
  else if off < 0x18000 then s.queueWordSet ((off - 0x10000) / 64) (off % 64) v
  else if 0x20000 ≤ off ∧ off < 0x28000 then .ok () (s.partWordSet ((off - 0x20000) / 0x1000) (off % 0x1000) v)
  else if 0x30000 ≤ off ∧ off < 0x32000 then .ok () (s.ctxWordSet ((off - 0x30000) / 4) v)
  else if 0x40000 ≤ off ∧ off < 0x40100 then
    .ok () (if off % 8 = 0 then s.kbudgetSet ((off - 0x40000) / 8) v else s)
  else if 0x100000 ≤ off ∧ off < 0x100200 then
    let k := (off - 0x100000) / 8
    .ok () { s with routes := s.routes.set k (putHalf (s.routes.getD k 0) off v &&& BitVec.ofNat 64 (2 ^ 18 - 1)) }
  else .ok () s

/-- May supervisor code of a partition write a register (10 R273)? The host may write any, but in recovery only the device
block (10 R296). -/
def State.regMine (s : State) (owner : Option Nat) (off : Nat) : Bool :=
  if s.dev.recovery && decide (off ≥ 0x10000) then false else
  match owner with
  | none => true
  | some n =>
    if 0x10000 ≤ off ∧ off < 0x18000 then (s.queue ((off - 0x10000) / 64)).partMask == 2 ^ n
    else if 0x20000 ≤ off ∧ off < 0x28000 then (off - 0x20000) / 0x1000 == n
    else if 0x30000 ≤ off ∧ off < 0x32000 then partOfCluster ((off - 0x30000) / 4 / 64) == n
    else false

/-- A register write of 4 or 8 bytes; of an 8-byte write that holds QFLAGS, the other word first. -/
def State.regWrite (s : State) (owner : Option Nat) (off n v : Nat) : DRes Unit :=
  if !(s.regMine owner off) then .ok () s
  else if n = 8 then
    (s.regWordSet off (v % 2 ^ 32)).bind fun _ t => t.regWordSet (off + 4) (v / 2 ^ 32 % 2 ^ 32)
  else s.regWordSet off (v % 2 ^ 32)

/-! ### Events -/

/-- QUEUE_ENABLE (10 R274). -/
def execQueueEnable (q : Nat) (flags : W32) (s : State) : OutC :=
  if flags.getLsbD 0 && s.regMine none (0x10000 + 64 * q) && decide (q < 512) then devEv s (s.queueFlags q flags.toNat) else .next s

/-- QUEUE_DISABLE (10 R274). -/
def execQueueDisable (q : Nat) (flags : W32) (s : State) : OutC :=
  if !(flags.getLsbD 0) && s.regMine none (0x10000 + 64 * q) && decide (q < 512) then devEv s (s.queueFlags q flags.toNat) else .next s

/-- ERRHEAD_WRITE (03 R62, 10 R274). -/
def execErrheadWrite (q : Nat) (v : W32) (s : State) : OutC :=
  if s.regMine none (0x10000 + 64 * q) && decide (q < 512) then devEv s (s.queueWordSet q 56 v.toNat) else .next s

/-- DEVCTL_WARM_RESET (10 Table 10.3, R294). -/
def execDevctlWarmReset (v : W64) (s : State) : OutC := runEv s (s.devWordSet 16 (v.toNat % 2 ^ 32))

/-- PRESET (10 R294). -/
def execPreset (part : Nat) (s : State) : OutC :=
  if s.regMine none (0x20000 + 0x1000 * part) && decide (part < 8) then runEv s (s.partWordSet part 84 1) else .next s

/-- KBUDGET_WRITE (10 R289). -/
def execKbudgetWrite (cluster : Nat) (v : Byte) (s : State) : OutC :=
  if s.regMine none (0x40000 + 8 * cluster) then runEv s (s.kbudgetSet cluster v.toNat) else .next s

/-- PINMAX_WRITE (08 R235, 10 R279). -/
def execPinmaxWrite (v : W32) (s : State) : OutC := runEv s (s.devWordSet 48 v.toNat)

/-- REGISTER_WRITE (10 R273): an aligned write of 4 or 8 bytes by the host, or by a partition's supervisor code. -/
def execRegisterWrite (owner : Option Nat) (off size : Nat) (v : W64) (s : State) : OutC :=
  if (size = 4 ∨ size = 8) ∧ off % size = 0 ∧ off < regSize then devEv s (s.regWrite owner off size v.toNat) else .next s

/-! ### The window of BAR 2 -/

/-- A piece of a host access inside one block: is it a ZB block's (log entry 11)? -/
def State.blockZb (s : State) (key : Nat) : Bool := s.zbBlocks.has (key / 512)

/-- The host's read of a range: bytes as programs see them, and whether any is poisoned. -/
def barRead (s : State) : List (Nat × Nat) → Nat × Bool
  | [] => (0, false)
  | (k, n) :: rest =>
    let r := s.memRead k n (s.blockZb k)
    let x := barRead s rest
    (r.1 + 256 ^ n * x.1, r.2 || x.2)

/-- The sectors of a range that it covers whole lose their poison (log entry 10). -/
def State.clearPoison (s : State) (key n : Nat) : State :=
  { s with poison := s.poison.filter fun p => !(decide (key ≤ 32 * p ∧ 32 * p + 32 ≤ key + n)) }

/-- The host's write of a range, block by block; a block with poison left keeps its bytes (05 R131). -/
def barWrite : List (Nat × Nat) → Nat → State → State
  | [], _, s => s
  | (k, n) :: rest, v, s =>
    barWrite rest (v / 256 ^ n) ((s.clearPoison k n).memStore k n (v % 256 ^ n) (s.blockZb k) 0).1

/-- The message by which a read of BAR 2 completes. -/
def msgBarRead : Nat := 7

/-- The message by which an access of BAR 2 completes with Unsupported Request. -/
def msgUnsupported : Nat := 11

/-- HOST_BAR2_ACCESS (10 R272): a read answers the host; beyond tier 0 the access completes with Unsupported Request. -/
def execHostBar2Access (off len : Nat) (wr : Option (List Byte)) (s : State) : OutC :=
  let n := match wr with | some l => l.length | none => len
  let pa := s.dev.winbase.toNat + off
  if s.dev.recovery then .next s
  else if pa + n > tier0Bytes then runEv s { s with hostOut := s.hostOut ++ [{ kind := msgUnsupported, args := [off, n] }] }
  else
    match wr with
    | some l => runEv s (barWrite (devPieces pa n) (leBytes l) s)
    | none =>
      let r := barRead s (devPieces pa n)
      runEv s { s with hostOut := s.hostOut ++ [{ kind := msgBarRead, args := [off, n, r.1, r.2.toNat] }] }

end Sys2Proof.Machine
end

