-- ==== Sys2Proof/Machine/Texture.lean ====
section
/-!
DEFINITION. Images and samplers (13 R383-R385; 15 R441-R446): SAMP, SAMPG, SAMPL, TXLD, IMLD and IMST.
-/
namespace Sys2Proof.Machine

/-- An image descriptor (13 Table 13.4). -/
structure Image where
  base : Nat
  w : Nat
  h : Nat
  d : Nat
  levels : Nat
  kind : Nat
  writable : Bool
  code : Nat
  chans : Nat
  bad : Bool
deriving DecidableEq, Repr

/-- The descriptor of 64 bytes (13 R383). -/
def parseImage (x : Nat) : Image :=
  let f := fun (off n : Nat) => x / 256 ^ off % 256 ^ n
  let kind := f 15 1 % 4
  { base := f 0 8, w := f 8 2, h := f 10 2, d := f 12 2, levels := f 14 1, kind := kind,
    writable := x.testBit 122, code := f 16 1 % 16, chans := f 16 1 / 16 % 4 + 1,
    bad := !(x.testBit 123) || decide (f 15 1 ≥ 16) || decide (f 16 1 ≥ 64) || f 17 47 ≠ 0 || decide (f 16 1 % 16 > 12) ||
      f 0 8 % 4096 ≠ 0 || decide (f 0 8 ≥ 2 ^ 57) || f 8 2 == 0 || decide (f 8 2 > 16384) || f 10 2 == 0 ||
      decide (f 10 2 > 16384) || f 12 2 == 0 || decide (f 12 2 > 2048) || f 14 1 == 0 || decide (f 14 1 > 15) ||
      (kind == 0 && f 10 2 ≠ 1) || (decide (kind ≤ 1) && f 12 2 ≠ 1) }

/-- Bytes of an element (13 Table 13.5). -/
def Image.elemBytes (i : Image) : Nat := texelBytes i.code

/-- Is the element an integer one? -/
def Image.isInt (i : Image) : Bool := texelInt i.code

/-- Bytes of a texel. -/
def Image.texel (i : Image) : Nat := i.chans * i.elemBytes

/-- Extents of a level (13 R384). -/
def Image.wAt (i : Image) (k : Nat) : Nat := max 1 (i.w / 2 ^ k)
def Image.hAt (i : Image) (k : Nat) : Nat := max 1 (i.h / 2 ^ k)
def Image.dAt (i : Image) (k : Nat) : Nat := if i.kind = 3 then i.d else max 1 (i.d / 2 ^ k)

/-- Row pitch of a level. -/
def Image.pitch (i : Image) (k : Nat) : Nat := alignUp (i.wAt k * i.texel) 256

/-- Bytes of a level. -/
def Image.size (i : Image) (k : Nat) : Nat := i.pitch k * i.hAt k * i.dAt k

/-- The address of a level. -/
def Image.levelAt (i : Image) : Nat → Nat
  | 0 => i.base
  | k + 1 => alignUp (i.levelAt k + i.size k) 4096

/-- The address of a texel (13 R384). -/
def Image.addr (i : Image) (k x y z : Nat) : Nat :=
  i.levelAt k + z * i.pitch k * i.hAt k + y * i.pitch k + x * i.texel

/-- One, as a channel of the image. -/
def Image.one (i : Image) : Nat := texelOne i.code

/-- Channels from a texel's bytes, those beyond its own 0, 0, 1. -/
def Image.channels (i : Image) (x : Nat) : List Nat := texelWords i.code i.chans x

/-- The channels of a place outside the image (13 R385). -/
def Image.outside (i : Image) : List Nat := [0, 0, 0, i.one]

/-- An encoded channel (13 R385). -/
def Image.encode (i : Image) (v : Nat) : Nat :=
  let norm := fun (lo : Int) (m b : Nat) =>
    match fp32.decode v with
    | .nan _ _ => 0
    | .inf neg => wrapInt (if neg then lo * m else m) b
    | .fin neg n d =>
      let q : Int := signed neg n
      if q < lo * d then wrapInt (lo * m) b else if q > d then m else wrapInt (roundInt 0 neg (n * m) d).1 b
  let int := fun (sg : Bool) (b : Nat) => wrapInt (clampInt sg b (sextNat v 32)).1 b
  match i.code with
  | 0 => norm 0 255 8
  | 1 => norm (-1) 127 8
  | 2 => int false 8
  | 3 => int true 8
  | 4 => norm 0 65535 16
  | 5 => norm (-1) 32767 16
  | 6 => int false 16
  | 7 => int true 16
  | 8 => (fp16.convert 0 true (fp32.decode v)).1
  | 9 => (bf16.convert 0 true (fp32.decode v)).1
  | 10 => int false 32
  | 12 => (fp32.convert 0 true (fp32.decode v)).1
  | _ => v

/-- A sampler descriptor (15 Table 15.1). -/
structure Sampler where
  filt : Nat
  mode : Nat
  border : Nat
  bias : Nat
  minLod : Nat
  maxLod : Nat
  bad : Bool
deriving DecidableEq, Repr

/-- The descriptor of 32 bytes (15 R441). -/
def parseSampler (x : Nat) : Sampler :=
  let f := fun (off n : Nat) => x / 256 ^ off % 256 ^ n
  { filt := f 0 1, mode := f 1 1, border := f 2 1, bias := f 4 4, minLod := f 8 4, maxLod := f 12 4,
    bad := decide (f 0 1 ≥ 8) || decide (f 1 1 ≥ 64) || decide (f 2 1 ≥ 3) || f 3 1 ≠ 0 || f 16 16 ≠ 0 ||
      isNan32 (f 4 4) || isNan32 (f 8 4) || isNan32 (f 12 4) ||
      ((fp32.decode (f 8 4)).cmp (fp32.decode (f 12 4))).any (fun c => decide (c > 0)) }

/-- The address mode of an axis. -/
def Sampler.axis (t : Sampler) (a : Nat) : Nat := t.mode / 4 ^ a % 4

/-- A tap index under an axis's mode (15 R444): nothing is the border. -/
def tapIndex (mode : Nat) (i : Int) (size : Nat) : Option Nat :=
  match mode with
  | 0 => some (i % size).toNat
  | 1 => some (if i < 0 then 0 else if i ≥ size then size - 1 else i.toNat)
  | 2 =>
    let m := (i % (2 * size)).toNat
    some (if m < size then m else 2 * size - 1 - m)
  | _ => if 0 ≤ i ∧ i < size then some i.toNat else none

/-- The border colour's channels. -/
def borderColour (i : Image) (t : Sampler) : List Nat :=
  match t.border with
  | 0 => [0, 0, 0, 0]
  | 1 => [0, 0, 0, i.one]
  | _ => [i.one, i.one, i.one, i.one]

/-- lerp of 15 R444, by channel; `t` in units of 1/256. -/
def lerpCh (t : Nat) (p q : List Nat) : List Nat :=
  let w := fun (n : Nat) => quot32 n 256
  (p.zip q).map fun e => wAdd (wMul e.1 (w (256 - t))) (wMul e.2 (w t))

/-- The floor of a rational. -/
def floorQ (n : Int) (d : Nat) : Int := n / (d : Int)

/-- A finite FP32 word as a numerator over 2^149. -/
def ratOf (x : Nat) : Int := fx32 x

/-- q8 of a fraction in [0, 1) (15 R444), in units of 1/256. -/
def q8 (n d : Nat) : Nat := (roundInt 0 false (256 * n) d).1.toNat

/-- A texel's own channels, or the border's, as an engine fetches them. -/
def State.tap (s : State) (ag : Agent) (lane : Nat) (i : Image) (t : Sampler) (k : Nat) (x y z : Option Nat) :
    FRes (List Nat) :=
  match x, y, z with
  | some x, some y, some z => (s.agFetch ag 1 lane (i.addr k x y z) i.texel).bind fun v u => .ok (i.channels v) u
  | _, _, _ => .ok (borderColour i t) s

/-- The taps of one axis: indices and the weight of the second, in units of 1/256. A nearest product beyond FP32's range clamps as any
other; of the index that it wraps or mirrors to the spec says nothing, and it is a free value (log entry 90). -/
def axisTaps (lin : Bool) (c size mode : Nat) : Option Nat × Option Nat × Nat :=
  if lin then
    let n := ratOf c * size * 2 - 2 ^ 149
    let d : Nat := 2 ^ 150
    let i := floorQ n d
    let w := q8 (n - i * d).toNat d
    let i' := if w = 256 then i + 1 else i
    (tapIndex mode i' size, tapIndex mode (i' + 1) size, if w = 256 then 0 else w)
  else
    let x := wMul c (quot32 size 1)
    let i := floorQ (ratOf x) (2 ^ 149)
    let tap := if !(isInf32 x) then tapIndex mode i size
      else match mode with
        | 1 => some (if x < 2 ^ 31 then size - 1 else 0)
        | 3 => none
        | _ => some (Config.approx 0x49 [c, size, mode] % size)
    (tap, none, 0)

/-- A level sampled (15 R444): `c` the coordinates, `layer` the layer of kind 3. -/
def State.sampleLevel (s : State) (ag : Agent) (lane : Nat) (i : Image) (t : Sampler) (c : List Nat) (layer k : Nat)
    (lin : Bool) : FRes (List Nat) :=
  let ax := axisTaps lin (c.getD 0 0) (i.wAt k) (t.axis 0)
  let ay := if i.kind = 0 then (some 0, some 0, 0) else axisTaps lin (c.getD 1 0) (i.hAt k) (t.axis 1)
  let az := if i.kind = 2 then axisTaps lin (c.getD 2 0) (i.dAt k) (t.axis 2)
    else (some (if i.kind = 3 then layer else 0), some 0, 0)
  let row := fun (y z : Option Nat) (s : State) =>
    if !lin then s.tap ag lane i t k ax.1 y z
    else (s.tap ag lane i t k ax.1 y z).bind fun p s1 => (s1.tap ag lane i t k ax.2.1 y z).bind fun q s2 =>
      FRes.ok (lerpCh ax.2.2 p q) s2
  let plane := fun (z : Option Nat) (s : State) =>
    if !lin || i.kind == 0 then row ay.1 z s
    else (row ay.1 z s).bind fun p s1 => (row ay.2.1 z s1).bind fun q s2 => FRes.ok (lerpCh ay.2.2 p q) s2
  if !lin || i.kind ≠ 2 then plane az.1 s
  else (plane az.1 s).bind fun p s1 => (plane az.2.1 s1).bind fun q s2 => FRes.ok (lerpCh az.2.2 p q) s2

/-- The order of two FP32 words, NaNs apart. -/
def cmp32 (a b : Nat) : Int := ((fp32.decode a).cmp (fp32.decode b)).getD 0

/-- Channels beyond the image's own are 0, 0, 1 whatever the filter gave. -/
def Image.fill (i : Image) (l : List Nat) : List Nat :=
  (List.range 4).map fun (c : Nat) => if c < i.chans then l.getD c 0 else if c = 3 then i.one else 0

/-- sample of 15 R444 at a level of detail. -/
def State.sampleAt (s : State) (ag : Agent) (lane : Nat) (i : Image) (t : Sampler) (c : List Nat) (layer lod : Nat) :
    FRes (List Nat) :=
  let x := wAdd lod t.bias
  let x := if isNan32 x then (if s.pick (2 ^ 24 + lane) then t.minLod else t.maxLod) else x
  let lb := if cmp32 x t.minLod < 0 then t.minLod else if cmp32 x t.maxLod > 0 then t.maxLod else x
  let top := quot32 (i.levels - 1 : Nat) 1
  let lin := !i.isInt && (if cmp32 lb 0 ≤ 0 then t.filt.testBit 0 else t.filt.testBit 1)
  let lc := if cmp32 lb 0 < 0 then 0 else if cmp32 lb top > 0 then top else lb
  let fill := fun (r : FRes (List Nat)) => r.bind fun l u => FRes.ok (i.fill l) u
  if !i.isInt && t.filt.testBit 2 && decide (cmp32 lc top < 0) then
    let k := (floorQ (ratOf lc) (2 ^ 149)).toNat
    let f := q8 (ratOf lc - k * 2 ^ 149).toNat (2 ^ 149)
    fill ((s.sampleLevel ag lane i t c layer k lin).bind fun p s1 =>
      (s1.sampleLevel ag lane i t c layer (k + 1) lin).bind fun q s2 => .ok (lerpCh f p q) s2)
  else
    let k := (floorQ (ratOf (wAdd lc 0x3F000000)) (2 ^ 149)).toNat
    fill (s.sampleLevel ag lane i t c layer (min k (i.levels - 1)) lin)

/-- λ0 from the gradients by x and by y, scaled by the image's extents (15 R443): within 2^-6 of the exact value. -/
def lodOf (i : Image) (gx gy : List Nat) : Nat :=
  let size := fun (a : Nat) => match a with | 0 => i.w | 1 => i.h | _ => i.d
  let sq := fun (g : List Nat) => g.zipIdx.foldl (fun (a : Int) (e : Nat × Nat) => a + (ratOf e.1 * size e.2) ^ 2) 0
  if (gx ++ gy).any (fun g => isInf32 g || isNan32 g) then 0x7F800000 else
  let m := max (sq gx) (sq gy)
  if m = 0 then 0xFF800000 else
  let num := m.toNat
  approxIn 0x48 (gx ++ gy) (log2Ref num (2 ^ 298)) (2 ^ 65) 1 64

/-- A coordinate that is a NaN or infinite is taken as 0 (15 R443). -/
def coordOf (x : Nat) : Nat := if isNan32 x || isInf32 x then 0 else x

/-- Spatial axes of an image kind. -/
def Image.axes (i : Image) : Nat := match i.kind with | 0 => 1 | 2 => 3 | _ => 2

/-- Coordinates of an image kind, the layer included. -/
def Image.coords (i : Image) : Nat := match i.kind with | 0 => 1 | 1 => 2 | _ => 3

/-- The sampling instructions. -/
inductive SampKind where
  | samp
  | sampg
  | sampl
  | txld
deriving DecidableEq, Repr

/-- Coordinate registers of an instruction for an image kind (15 Table 15.2). -/
def SampKind.regs (k : SampKind) (i : Image) : Nat :=
  match k with
  | .samp => i.coords
  | .txld => i.coords
  | .sampl => i.coords + 1
  | .sampg => i.coords + 2 * i.axes

/-- The result of one lane: `v n l` is coordinate register `n` of lane `l`, as a word. -/
def State.sampLane (s : State) (ag : Agent) (k : SampKind) (i : Image) (t : Sampler) (mask : LaneMask) (level : Nat)
    (v : Nat → Nat → Nat) (lane : Nat) : FRes (List Nat) :=
  match k with
  | .txld =>
    if level ≥ i.levels then .ok i.outside s
    else
      let at_ := fun (n a size : Nat) => tapIndex (t.axis a) (v n lane) size
      let y := if i.kind = 0 then some 0 else at_ 1 1 (i.hAt level)
      let z := if i.kind ≥ 2 then at_ 2 2 (i.dAt level) else some 0
      (s.tap ag lane i t level (at_ 0 0 (i.wAt level)) y z).bind fun l u => .ok (i.fill l) u
  | _ =>
    let c := fun (n l : Nat) => coordOf (v n l)
    let n := i.coords
    let layer := if i.kind = 3 then
        match fp32.decode (c 2 lane) with
        | .fin neg a d => let r := (roundInt 0 neg a d).1; if r < 0 then 0 else min r.toNat (i.d - 1)
        | _ => 0
      else 0
    let quad := (List.range 4).all fun j => mask.getLsbD (lane / 4 * 4 + j)
    let lod := match k with
      | .sampl => c n lane
      | .sampg => lodOf i ((List.range i.axes).map fun a => c (n + a) lane) ((List.range i.axes).map fun a => c (n + i.axes + a) lane)
      | _ =>
        let q := lane / 4 * 4
        let j := lane % 4
        let gx := (List.range i.axes).map fun a => if quad then wSub (c a (q + 1 + j / 2 * 2)) (c a (q + j / 2 * 2)) else 0
        let gy := (List.range i.axes).map fun a => if quad then wSub (c a (q + 2 + j % 2)) (c a (q + j % 2)) else 0
        lodOf i gx gy
    s.sampleAt ag lane i t ((List.range i.axes).map fun a => c a lane) layer lod

/-- What the reads that a texture operation makes at issue wait for, whatever they read (06 R170). -/
def texWait (s : State) (is : Issue) : List Nat := s.ordWait is.ag 1 true false

/-- The end of a texture read: the operation with its lanes' results, or what stops it; `s` the state before its reads. -/
def texFinish (i : Instr) (o : Opw) (n : Nat) (s : State) (is : Issue) (r : AttrOut × State) : State :=
  if !r.1.all then (s.tried r.2).engineStop is 1 r.1
  else
    r.2.issueFlight { (newFlight r.2 is i 1).withAux o false with
      rd := true, dest := .v (o.dst.toNat % 256) n 0, mask := maskOf (r.1.vals.map (·.1)),
      accs := r.1.vals.map fun e =>
        { devAcc .none with lane := e.1, res := wordsNum (e.2.1.take n), done := true, poisoned := e.2.2 } }

/-- A descriptor read at issue, and the instruction continued with it. -/
def withDesc (i : Instr) (dest : Dest) (s : State) (is : Issue) (gm : LaneMask) (va n align : Nat) (k : Nat → State → State) : State :=
  if va % align ≠ 0 then s.takeCause is.ag .fault { causes := cMISALIGN, faddr := va, fsub := 256, fmask := gm }
  else
    match s.agFetch is.ag 1 0 va n with
    | .ok x t => k x t
    | .ats p t => (s.tried t).waitAts is.ag [p]
    | .drain l t => (s.tried t).blockRetry is.ag (.drain l)
    | .fault f t =>
      let ti := { trapOfLanes [f] 1 0 with fmask := gm }
      ((s.tried t).dropRefusals ti).takeCause is.ag .fault ti
    | .poison t => t.poisonOp is i 1 dest gm

/-- The causes of a coordinate register range of `n` from a multiple of `al`, known once the image's kind is: ILLOP at another multiple
(13 R364, 15 R440), REGBOUND beyond the declared registers, and with checking on STALLCHK for an unsettled register (11 R312). -/
def coordCauses (s : State) (is : Issue) (b n al : Nat) : Nat :=
  match is.ag with
  | .gang gid _ =>
    match s.gang? gid with
    | some g =>
      let lanes := lanesOf g.width is.mask
      (if b % al ≠ 0 then cILLOP else 0) ||| (if b + n > (s.khOf g).vregs then cREGBOUND else 0) |||
        (if g.chk.getLsbD 0 && (List.range n).any fun k => s.unsettled is.ag is.cyc (.v (b + k)) lanes then cSTALLCHK else 0)
    | none => cILLOP
  | .ctx _ => cILLOP

/-- The effect of SAMP, SAMPG, SAMPL and TXLD (15 R442-R446). -/
def sampEffect (i : Instr) (k : SampKind) (o : Opw) (s : State) (is : Issue) : State :=
  let sh := shape false i
  let gm := guardMask s is o
  if gm = 0 then s
  else if s.counterFull is.ag 1 then s.blockRetry is.ag .inflight
  else
    let wait := texWait s is
    if !wait.isEmpty then s.blockRetry is.ag (.drain wait) else
    let ia := srcVal s is o sh.a o.a .raw 1 [] 0
    let ta := srcVal s is o sh.b o.b .raw 2 [] 0
    let dest := Dest.v (o.dst.toNat % 256) (o.sub.toNat + 1) 0
    withDesc i dest s is gm ia 64 64 fun x s1 => withDesc i dest s1 is gm ta 32 32 fun y s2 =>
      let img := parseImage x
      let smp := parseSampler y
      if img.bad || smp.bad then
        s2.takeCause is.ag .fault
          { causes := cPROT, faddr := 0, fsub := Config.freeNat s.fresh 1 % 2 ^ 11, fmask := gm }
      else
        let c := o.c.toNat % 256
        let n := k.regs img
        let bad := coordCauses s is c n (if n > 2 then 4 else n)
        if bad ≠ 0 then s2.causeAt is o bad
        else
          let v := fun (j l : Nat) => srcVal s is o (.reg 1 1 1) (BitVec.ofNat 10 (c + j)) .raw 3 [] l
          texFinish i o (o.sub.toNat + 1) s is
            (lanesAll [0, 0, 0, 0] (fun l t => t.sampLane is.ag k img smp is.mask (o.imm.toNat % 16) v l) (s.lanesAg is.ag gm) s2)

/-- SAMP (15 R442-R444). -/
def execSamp (o : Opw) (s : State) : OutC := issueOp (.samp o) o s noBad noRd noMore (sampEffect (.samp o) .samp o s)

/-- SAMPG (15 R442-R444). -/
def execSampg (o : Opw) (s : State) : OutC := issueOp (.sampg o) o s noBad noRd noMore (sampEffect (.sampg o) .sampg o s)

/-- SAMPL (15 R442-R444). -/
def execSampl (o : Opw) (s : State) : OutC := issueOp (.sampl o) o s noBad noRd noMore (sampEffect (.sampl o) .sampl o s)

/-- TXLD (15 R442, R445). -/
def execTxld (o : Opw) (s : State) : OutC := issueOp (.txld o) o s noBad noRd noMore (sampEffect (.txld o) .txld o s)

/-- The causes of the coordinate register range that IMLD or IMST reads: it starts at a multiple of its length (13 R364). -/
def imageRange (s : State) (is : Issue) (b n : Nat) : Nat := coordCauses s is b n n

/-- The frame of IMLD and IMST (13 R383, R385): the descriptor, then the coordinates of each lane; a place outside the
image is none. -/
def imageOp (i : Instr) (o : Opw) (s : State) (is : Issue) (lanes : LaneMask)
    (k : Image → (Nat → Option (Nat × Nat × Nat)) → State → State) : State :=
  let sh := shape false i
  if lanes = 0 then s
  else if s.counterFull is.ag 1 then s.blockRetry is.ag .inflight
  else
    let wait := texWait s is
    if !wait.isEmpty then s.blockRetry is.ag (.drain wait) else
    let ia := srcVal s is o sh.a o.a .raw 1 [] 0
    let dest := match i with | .imld _ => Dest.v (o.dst.toNat % 256) (o.sub.toNat + 1) 0 | _ => .none
    withDesc i dest s is lanes ia 64 64 fun x t =>
      let img := parseImage x
      let b := o.b.toNat % 256
      let level := o.imm.toNat % 16
      let c := imageRange s is b img.coords
      if img.bad then
        t.takeCause is.ag .fault
          { causes := cPROT, faddr := 0, fsub := Config.freeNat s.fresh 1 % 2 ^ 11, fmask := lanes }
      else if c ≠ 0 then t.causeAt is o c
      else
        let v := fun (j l : Nat) => srcVal s is o (.reg 1 1 1) (BitVec.ofNat 10 (b + j)) .raw 2 [] l
        let place := fun (l : Nat) =>
          let x := v 0 l
          let y := if img.kind = 0 then 0 else v 1 l
          let z := if img.kind ≥ 2 then v 2 l else 0
          if level < img.levels ∧ x < img.wAt level ∧ y < img.hAt level ∧ z < img.dAt level then some (x, y, z) else none
        k img place t

/-- The single-copy atomic parts of the first `n` channels of a lane's texel, as requests whose slots are byte offsets in it: all of up to 8
bytes together, else each channel (13 R385); a part that crosses a page is two pieces. -/
def texelReqs (img : Image) (lane va n : Nat) (acc : Access) : List AReq :=
  let e := img.elemBytes
  let parts := if n * e ≤ 8 then [(va, n * e)] else (List.range n).map fun c => (va + c * e, e)
  parts.flatMap fun r => (piecesOf r.1 r.2).map fun q =>
    ({ lane := lane, va := q.1, size := q.2, acc := acc, slot := q.1 - va } : AReq)

/-- IMLD's effect (13 R385): the texels are read by the operation in flight, and decoded into its registers. -/
def imldEffect (o : Opw) (s : State) (is : Issue) : State :=
  let gm := guardMask s is o
  imageOp (.imld o) o s is gm fun img place t =>
    let lanes := s.lanesAg is.ag gm
    let reqs := lanes.flatMap fun l => match place l with
      | none => []
      | some p => texelReqs img l (img.addr (o.imm.toNat % 16) p.1 p.2.1 p.2.2) img.chans .read
    memAccess t is 1 0 noReg reqs fun u l =>
      u.issueFlight { (newFlight u is (.imld o) 1).withAux o false with
        rd := true, dest := .texel (o.dst.toNat % 256) (o.sub.toNat + 1) img.code img.chans, mask := performed lanes reqs l,
        accs := l.map fun d => accOf u is d.1 d.2 (.rd d.1.size) }

/-- IMLD (13 R385). -/
def execImld (o : Opw) (s : State) : OutC := issueOp (.imld o) o s noBad noRd noMore (imldEffect o s)

/-- IMST's effect (13 R385): a texel's channels of up to 8 bytes are one write, larger ones one write each. -/
def imstEffect (o : Opw) (s : State) (is : Issue) : State :=
  let sh := shape false (.imst o)
  let m := actLanes s is o
  imageOp (.imst o) o s is m fun img place t =>
    if !img.writable then
      t.takeCause is.ag .fault
        { causes := cPROT, faddr := 0, fsub := Config.freeNat s.fresh 1 % 2 ^ 11, fmask := m }
    else
      let n := min (o.sub.toNat + 1) img.chans
      let e := img.elemBytes
      let lanes := s.lanesAg is.ag m
      let reqs := lanes.flatMap fun l => match place l with
        | none => []
        | some p => texelReqs img l (img.addr (o.imm.toNat % 16) p.1 p.2.1 p.2.2) n .write
      let texel := fun (l : Nat) =>
        let x := srcVal s is o sh.c o.c .raw 3 [] l
        (List.range n).foldr (fun c a => img.encode (x / 2 ^ (32 * c) % 2 ^ 32) % 256 ^ e + 256 ^ e * a) 0
      memAccess t is 1 0 noReg reqs fun u l =>
        u.issueFlight { (newFlight u is (.imst o) 1).withAux o false with
          wr := true, mask := performed lanes reqs l,
          accs := l.map fun d => accOf u is d.1 d.2 (.wr d.1.size (texel d.1.lane / 256 ^ d.1.slot % 256 ^ d.1.size) 0) }

/-- IMST (13 R385). -/
def execImst (o : Opw) (s : State) : OutC := issueOp (.imst o) o s noBad noRd noMore (imstEffect o s)

end Sys2Proof.Machine
end

