-- ==== Sys2Proof/Machine/Apply.lean ====
section
/-!
DEFINITION. The events by which operations in flight are applied and complete (05 R129, R136-R143; 06 R179-R185), and those
by which waits end (07 R188; 09 R270; 10 R284; 14 R411, R412; 15 R453).
-/
namespace Sys2Proof.Machine

/-! ### HOME_APPLY -/

/-- Has an ATTR before an operation in program order records for the same queue that are still to come (07 R189, 06 R166)? -/
def State.attrBefore (s : State) (f : Flight) (n : Nat) : Bool :=
  s.flights.any fun e => f.tafter.contains e.1 && (e.2.accs.any fun b => !b.done) &&
    match e.2.instr, e.2.dest with | .attr _, .q m _ => m == n | _, _ => false

/-- A merge at its home (08 R232): one whose pages cannot be used is dropped, sets ERRS bit 4, and ends with POISON when it met poison. -/
def State.mergeAct (s : State) (p : Pass) (x y depth id flags : Nat) : DRes (Option (Nat × Bool)) :=
  match p.mergeAt s x y depth id flags with
  | .ok done u => .ok (if done then some (0, false) else none) u
  | .wait w => .wait w
  | .fault va u =>
    let poison := match u.translate p.unit p.pasid p.part va .read false with | .ok _ => true | _ => false
    (u.passErr p.unit p.pasid p.part p.addr 16).bind fun _ v => .ok (some (0, poison)) v

/-- What an access does where it acts: its result and whether it met poison; nothing when it has to wait. -/
def State.actAt (s : State) (f : Flight) (a : Acc) : DRes (Option (Nat × Bool)) :=
  let unit := fun (r : DRes Unit) => r.bind fun _ t => DRes.ok (some (0, false)) t
  match a.op with
  | .merge pass part px depth id flags =>
    (s.passAt devUnit f.pasid part pass).bind fun p t =>
      match p with
      | none => .ok (some (0, false)) t
      | some p => t.mergeAct p (px % 65536) (px / 65536) depth.toNat id flags
  | .refsDec pass part tile =>
    (s.passAt devUnit f.pasid part pass).bind fun p t =>
      match p with
      | none => .ok (some (0, false)) t
      | some p => unit (p.ended id (p.dropRefs t tile 1))
  | .pinBit pass part tile => unit (s.pinBit f.pasid part pass tile)
  | .spill pass part tile =>
    match s.pins.find? fun q => q.isOf pass f.pasid tile && q.part == part with
    | some q => unit (s.spillPin q)
    | none => .ok (some (0, false)) s
  | .errs pass part bits => unit (s.passErr devUnit f.pasid part pass bits)
  | .devRec part addr code tag lin => .ok (some (0, false)) (s.devErr part addr code tag lin)
  | .iinv scope => .ok (some (0, false)) { s with icache := s.icache.filter fun l => !(iinvHits s f.ag f.core scope l.core) }
  | .devNone => .ok (some (0, false)) s
  | .dcSet id n task pasid => (s.dcSetTo id n task pasid).bind fun r t => .ok (some (r.toNat, false)) t
  | .dcDec id m => unit (s.dcDecrement id m)
  | .none =>
    match f.instr, f.dest, f.ag with
    | .nrsend _, _, _ => unit (appendSlots (f.sw.getD 0 0) (f.sw.getD 1 0) (f.sw.drop 2) s)
    | .attr _, .q n words, .gang gid _ =>
      if s.queueLen gid n + words > 256 || f.accs.any (fun b => !b.done && decide (b.lane < a.lane)) || s.attrBefore f n then .ok none s
      else .ok (some (a.res, a.poisoned)) (s.pushQueue gid n ((List.range words).map fun i => a.res / 2 ^ (32 * i) % 2 ^ 32))
    | _, _, _ => .ok none s
  | op =>
    match a.loc with
    | .reg off p =>
      match op with
      | .rd n => .ok (some (s.regRead off n, false)) s
      | .wr n v _ => unit (s.regWrite (some p) off n v)
      | .wbits _ _ v _ => unit (s.regWrite (some p) off 4 (v % 2 ^ 32))
      | .welem fmt _ v scale kind _ _ _ =>
        let r := s.scaleRead scale
        if r.2 then .ok (some (0, true)) s
        else unit (s.regWrite (some p) off 4 (storedElem fmt (wordVal fmt v) (scaleVal kind r.1) % 2 ^ 32))
      | _ => .ok (some (0, false)) s
    | .dev => .ok none s
    | loc =>
      match loc.spot? with
      | none => .ok none s
      | some p =>
        let r := (s.seeSpot p).spotOp f.ag p op
        let res := match f.instr with
          | .cbtest _ => if r.2.1 = f.sw.getD 0 0 then 0 else 1
          | _ => r.2.1
        .ok (some (if r.2.2 then 0 else res, r.2.2)) r.1

/-- An access marked as applied. -/
def Flight.markAt (f : Flight) (k res : Nat) (poisoned : Bool) : Flight :=
  { f with accs := f.accs.zipIdx.map fun e =>
      if e.2 = k then { e.1 with res := res, done := true, poisoned := poisoned, waitSince := 0 } else e.1 }

/-- The L1s of some agents dropped. -/
def State.dropAll (s : State) (l : List Agent) : State := l.foldl State.dropL1 s

/-- A non-temporal access marks its L2 line first to evict (05 R132). -/
def State.ntMark (s : State) (f : Flight) (a : Acc) : State :=
  match a.loc with
  | .mem key _ _ =>
    if f.nt && decide (keyTier key < 2) then { s with l2first := (a.lines.map (fun (x : Nat × Nat) => x.2)).foldl NSet.ins s.l2first } else s
  | _ => s

/-- An access of an operation applied with its result: the L1 that serves the agent, the stream it takes, the lines of an
acquire, and the end of a device's own notice. -/
def State.accDone (s : State) (f : Flight) (k : Nat) (a : Acc) (res : Nat) (poisoned : Bool) : State :=
  let g := f.markAt k res poisoned
  let t1 := (s.l1After f a poisoned).sendStream f a
  let t2 := f.joins.foldl State.joined (t1.dropAll f.invals)
  let t3 := match a.loc with
    | .mem key _ _ => (t2.countXfer key).ntMark f a
    | _ => t2
  if g.path == 8 && g.accs.all (fun (b : Acc) => b.done) then ({ t3 with flights := t3.flights.del f.id } : State).acked f.id
  else { t3 with flights := t3.flights.put f.id g }

/-- Does a gang's blocked wait keep an access from being applied (CBWAIT has its own event)? -/
def Flight.ownEvent (f : Flight) : Bool := match f.instr with | .cbwait _ => true | _ => false

/-- The accesses applied together with the one numbered `k`, with their numbers: itself, and of a texel of up to 8 bytes, which is
single-copy atomic (13 R385), the piece on its other page. -/
def Flight.together (f : Flight) (k : Nat) : List (Acc × Nat) :=
  let image : Bool := match f.instr with | .imld _ => true | .imst _ => true | _ => false
  match f.accs[k]? with
  | none => []
  | some a =>
    let l := f.accs.zipIdx.filter fun e => e.1.lane == a.lane
    if image && decide ((l.map fun e => e.1.op.size).sum ≤ 8) then l else [(a, k)]

/-- One access of an operation applied, its gates being open. -/
def State.applyAcc (s : State) (fl k : Nat) (fromL1 : Bool) : DRes Unit :=
  match s.flights.find? fl with
  | none => .ok () s
  | some f =>
    match f.accs[k]? with
    | none => .ok () s
    | some a =>
      match if fromL1 then s.earlyRead f a else none with
      | some (v, t) =>
        let t := (({ t with flights := t.flights.put fl (f.markAt k v false) } : State).dropAll f.invals).ntMark f a
        .ok () (f.joins.foldl State.joined t)
      | none =>
        (s.actAt f a).bind fun r u =>
          match r with
          | none => .ok () u
          | some (res, p) =>
            let t := (match a.loc.spot? with | some x => s.seeSpot x | none => s).actedAt u f a p
            match t.flights.find? fl with
            | none => .ok () t
            | some f' => .ok () (t.accDone f' k a res p)

/-- The next effect of an operation at its home: the access numbered `k`, which finds older bytes when the rules let it; or the next step
of a mash-array, tensor-movement or supervisor operation. -/
def State.homeApply (s : State) (fl k : Nat) (fromL1 : Bool) : DRes Unit :=
  match s.flights.find? fl with
  | none => .ok () s
  | some f =>
    if !(s.mayApply f) || f.ownEvent then .ok () s
    else if f.path = 4 then
      let c := clusterOf (s.coreOf (gangOf f.ag))
      let wait := fun (t : State) => (t.kilnStall c (kilnOp fl) true).kilnStall c (kilnLoad fl) true
      .ok () (if f.pages.any fun g => s.farKey g.key then wait (s.markFar f) else if s.pagesHeld f then wait s else s.mshStep f)
    else if f.path = sysPath then .ok () (s.sysStep f)
    else if isTensor f.instr then .ok () (s.tensorStep f)
    else
      let l := f.together k
      if l.any fun e => e.1.done || s.lineBusy f e.1 || s.tensorBefore f e.1 then .ok () s
      else if l.any fun e => s.unreachable e.1 then .ok () (s.markFar f)
      else if l.any fun e => s.accHeld f e.1 then .ok () s
      else l.foldl (fun r e => r.bind fun _ t => t.applyAcc fl e.2 fromL1) (.ok () s)

/-- HOME_APPLY (05 R129, 06 R180). -/
def execHomeApply (fl acc : Nat) (fromL1 : Bool) (s : State) : OutC := devEv s (s.homeApply fl acc fromL1)

/-! ### IN_FLIGHT_COMPLETION -/

/-- A register kept although an operation completes into it: it was written after the operation issued, and either value may
stay (11 R313). -/
def Flight.keeps (f : Flight) (s : State) (r : RegId) (key n lane : Nat) : Bool :=
  f.clash.any (fun c => c.1 == r && c.2.getLsbD lane) && s.pick (2 ^ 46 + (key * 64 + n) * 1024 + lane)

/-- The results of an operation written to its registers (05 R137, R138). -/
def State.deliver (s : State) (f : Flight) : State :=
  let vs := fun (b : Nat) (t : State) =>
    match f.ag with
    | .gang gid _ =>
      (s.lanesAg f.ag f.mask).foldl (fun (t : State) l =>
        (f.resultWords s.fresh l).zipIdx.foldl (fun (t : State) e =>
          if f.keeps s (.v (b + e.2)) 0 (b + e.2) l then t
          else t.updGang gid fun g => g.wrV (b + e.2) l (BitVec.ofNat 32 e.1)) t) t
    | .ctx _ => t
  let truth := f.accs.any fun a => a.res ≠ 0
  match f.dest with
  | .none => s
  | .q _ _ => s
  | .v b _ _ => vs b s
  | .elem b _ _ _ => vs b s
  | .texel b _ _ _ => vs b s
  | .s b _ _ =>
    (f.resultWords s.fresh 0).zipIdx.foldl (fun (t : State) e =>
      if f.keeps s (.s (b + e.2)) 1 (b + e.2) 0 then t else t.wrS f.ag (b + e.2) (BitVec.ofNat 32 e.1)) s
  | .k sel => if f.keeps s (.k (sel % 8)) 2 (sel % 8) 0 then s else s.wrK f.ag (sel % 8) truth

/-- A context whose WAITC has its counter at the threshold runs again (07 R210). -/
def State.wakeCtr (s : State) (ag : Agent) : State :=
  match ag with
  | .gang _ _ => s
  | .ctx n =>
    match (s.ctx n).stat with
    | .waiting _ _ (some k) =>
      if s.counter ag 5 ≤ k then s.updCtx n fun c => { c with stat := .running, readyAt := max c.readyAt s.cycle } else s
    | _ => s

/-- Is an operation the oldest of its path (05 R136), wholly applied, and one that this event completes? -/
def State.mayRetire (s : State) (f : Flight) : Bool :=
  f.cnt && f.path ≠ 8 && !f.withdrawn && f.accs.all (·.done) && f.grant == 0 &&
    !(s.flights.any fun e => decide (e.1 < f.id) && e.2.cnt && e.2.path == f.path && sameMemAgent e.2.ag f.ag)

/-- IN_FLIGHT_COMPLETION (05 R136, R137; 09 R250): the destination is written, the counter falls, and poison met becomes an
asynchronous cause. -/
def execInFlightCompletion (fl : Nat) (s : State) : OutC :=
  match s.flights.find? fl with
  | none => runEv s s
  | some f =>
    if !(s.mayRetire f) then runEv s s else
    let t := s.deliver f
    let t := if f.accs.any (·.poisoned) then t.addAsync f.ag (f.asyncBits cPOISON) else t
    let t := ({ t with flights := t.flights.del fl } : State).acked fl
    let t := t.wakeCtr f.ag
    runEv s (match f.ag with | .gang gid _ => t.reap gid | .ctx _ => t)

/-! ### Waits that end -/

/-- Is a gang on its core, and not on its way out? -/
def State.gangOn (s : State) (gid : Nat) : Bool :=
  ((s.gang? gid).bind fun g => s.wgOf g).any fun w =>
    match w.stat with
    | .away _ => false
    | .swapping _ => false
    | _ => true

/-- MONITOR_FIRE (14 R411, R412): the monitor has fired by a write, or fires by the displacement of its entry; every fragment
of the gang blocked in MWAIT, or the context, goes on with K set. -/
def execMonitorFire (ag : Agent) (displaced : Bool) (s : State) : OutC :=
  let m := s.monOf ag
  let m' : Monitor := if displaced && m.armed then { m with fired := true } else m
  match ag with
  | .gang gid _ =>
    let t := s.updGang gid fun g => { g with mon := m' }
    runEv s (if !m'.fired || !(s.gangOn gid) then t else t.fireWaits ag)
  | .ctx n =>
    let t := s.updCtx n fun c => { c with mon := m' }
    runEv s (if !m'.fired then t else t.fireWaits ag)

/-- MWAIT_TIMEOUT (14 R412): the timeout of a waiting fragment, or of the context, has run; K is set where the monitor had fired before. -/
def execMwaitTimeout (ag : Agent) (s : State) : OutC :=
  match ag with
  | .gang gid fid =>
    match (s.mwaiters gid).find? fun e => e.1 == fid with
    | some (_, d, k) =>
      if d ≠ 0 && decide (s.cycleOf ag ≥ d) && s.gangOn gid then runEv s ((s.wrK ag k (s.monOf ag).fired).unblock gid fid) else runEv s s
    | none => runEv s s
  | .ctx n =>
    match (s.ctx n).stat with
    | .waiting d k none =>
      if d ≠ 0 && decide (s.cycle ≥ d) then
        runEv s ((s.wrK ag k (s.monOf ag).fired).updCtx n fun c => { c with stat := .running, readyAt := max c.readyAt s.cycle })
      else runEv s s
    | _ => runEv s s

/-- SLEEP_EXPIRE (15 R453). -/
def execSleepExpire (gid fid : Nat) (s : State) : OutC :=
  match (s.frag? gid fid).map (fun (f : Frag) => f.stat) with
  | some (.blocked (.sleep till)) =>
    if s.cycleOf (.gang gid fid) ≥ till && s.gangOn gid then runEv s (s.unblock gid fid) else runEv s s
  | _ => runEv s s

/-- QUEUE_UNBLOCK (07 R188, R189): the fragment issues its bundle again, and blocks again when its queues still lack room or
words. -/
def execQueueUnblock (gid fid : Nat) (s : State) : OutC :=
  match s.frag? gid fid with
  | some f =>
    if f.stat == .blocked .queue && decide (f.blockedAt < s.cycleOf (.gang gid fid)) && s.gangOn gid then runEv s (s.unblock gid fid)
    else runEv s s
  | none => runEv s s

/-- CBWAIT_RELEASE (05 R143): a home read of PHASE differs from the value, or meets poison; the wait is over. -/
def execCbwaitRelease (gid fid : Nat) (s : State) : OutC :=
  match (s.frag? gid fid).map (fun (f : Frag) => f.stat) with
  | some (.blocked (.cbwait fl)) =>
    match s.flights.find? fl with
    | none => runEv s s
    | some f =>
      match f.accs with
      | [a] =>
        match a.loc.spot? with
        | none => runEv s s
        | some p =>
          if !(s.mayApply f) || s.lineBusy f a || !(s.gangOn gid) || s.accHeld f a then runEv s s
          else if s.unreachable a then runEv s (s.markFar f)
          else
            let r := s.spotRead p 4
            if r.2 || r.1 ≠ f.sw.getD 0 0 then runEv s ((s.accDone f 0 a 0 r.2).unblock gid fid)
            else runEv s s
      | _ => runEv s s
  | _ => runEv s s

/-- The words that a PIXLK waits for, read at their homes: whether each equals its ticket or met poison, whether one met poison, and the state
after the reads. A word whose hold is over has met poison (10 R284). -/
def Flight.pixRead (f : Flight) : List Acc → State → Bool × Bool × State
  | [], s => (true, false, s)
  | a :: rest, s =>
    if a.done then let r := f.pixRead rest s; (r.1, a.poisoned || r.2.1, r.2.2) else
    match a.loc.spot? with
    | none => f.pixRead rest s
    | some p =>
      let v := s.spotFind f p 4 true
      let r := f.pixRead rest v.2.2
      ((v.2.1 || v.1 == (f.kept a.lane).getD 0 0) && r.1, v.2.1 || r.2.1, r.2.2)

/-- PIXLK_RELEASE (08 R246): every lane's word, read at its home, equals its ticket; an acquire at device scope on every
path. -/
def execPixlkRelease (gid fid : Nat) (s : State) : OutC :=
  match s.pixWait gid fid with
  | none => runEv s s
  | some f =>
    let on := ((s.gang? gid).bind fun g => s.wgOf g).any (fun w => w.onChip)
    if !on || !(s.mayApply f) ||
        (f.accs.any fun a => !a.done && (s.lineBusy f a || s.accHeld f a)) then runEv s s
    else if f.accs.any fun a => !a.done && s.unreachable a then runEv s (s.markFar f)
    else
      let r := f.pixRead f.accs s
      if !r.1 then runEv s s
      else
        let t := { r.2.2 with flights := r.2.2.flights.del f.id }
        let t := if r.2.1 then t.addAsync (.gang gid fid) (f.asyncBits cPOISON) else t
        runEv s ((t.dropL1 (.gang gid fid)).unblock gid fid)

/-- MIGRATION_HOLD_EXPIRE (09 R270): an access held for 128,000 cycles ends with PAGEFAULT, reason 5, or with a Lauter
fault. -/
def execMigrationHoldExpire (fl : Nat) (s : State) : OutC :=
  match s.flights.find? fl with
  | none => runEv s s
  | some f =>
    let late := fun (since : Nat) => decide (s.cycle ≥ since + 128000)
    match f.instr with
    | .migrationHoldExpire _ =>
      if !(late f.born) then runEv s s else
      let va := f.sw.getD 0 0
      let t := { s with flights := s.flights.del fl }
      match f.ag with
      | .gang gid fid =>
        match s.frag? gid fid with
        | some fr =>
          if fr.stat == .blocked (.hold fl) && s.gangOn gid then
            runEv s ((t.unblock gid fid).takeCause f.ag .fault
              { causes := cPAGEFAULT, faddr := va, fsub := f.sw.getD 1 0 + 16 * 5 + 256 * f.sw.getD 2 0, fmask := f.mask,
                dmask := fr.skip })
          else runEv s s
        | none => runEv s t
      | .ctx n =>
        if (s.ctx n).stat == .running || (s.ctx n).stat == .completing then
          runEv s (t.takeCause f.ag .fault { causes := cPAGEFAULT, faddr := va })
        else runEv s s
    | _ =>
      if isTensor f.instr && f.accs.any (fun a => a.waitSince ≠ 0 && late (a.waitSince - 1)) then
        match s.tElement f with
        | .hold va => runEv s ((s.parkTensor f cPAGEFAULT va).updTensor fl (·.waitMark 0))
        | _ => runEv s s
      else runEv s s

/-! ### The fabric -/

/-- Must an operation's fabric release, its own or that of a FENCE before it, follow another's acknowledgement (06 R172, R183)? -/
def Flight.releasedAfter (e : Flight) (fl : Nat) : Bool := e.acks.contains fl || (e.rel && decide (e.scope ≥ 4) && e.after.contains fl)

/-- Accesses of an operation that complete with POISON and no effect. -/
def Flight.failAccs (x : Flight) (p : Acc → Bool) : Flight :=
  { x with accs := x.accs.map fun a => if p a then { a with res := 0, done := true, poisoned := true } else a }

/-- No fabric release that a lost access orders is sent (10 R284): what stands behind it completes with POISON; a matrix operation with no
effect, a tensor operation by parking its context. -/
def State.loseBehind (s : State) (fl : Nat) : State :=
  let behind := s.flights.filter fun e => e.1 != fl && e.2.releasedAfter fl
  let t := { s with flights := s.flights.map fun e =>
      (e.1, if e.1 != fl && e.2.releasedAfter fl && e.2.path != 4 && !isTensor e.2.instr then e.2.failAccs (fun a => !a.done) else e.2) }
  (behind.filter fun e => e.2.path == 4 || isTensor e.2.instr).foldl (fun t e =>
    if e.2.path = 4 then (t.mshDone e.1).addAsync e.2.ag (e.2.asyncBits cPOISON) else t.parkTensor e.2 cPOISON 0) t

/-- FABRIC_HOLD_TIMEOUT (10 R284): a request held for 2,000,000 cycles completes with POISON, and no fabric release that it
orders is sent. -/
def execFabricHoldTimeout (fl : Nat) (s : State) : OutC :=
  match s.flights.find? fl with
  | none => runEv s s
  | some f =>
    let late := fun (a : Acc) => !a.done && a.waitSince ≠ 0 && decide (s.cycle ≥ a.waitSince - 1 + 2000000)
    let token : Bool := match f.instr with | .fabricHoldTimeout _ => true | _ => false
    if token then
      if s.routeMask (f.sw.getD 1 0 % 2 ^ 10) ≠ 0 then runEv s { s with flights := s.flights.del fl }
      else if s.cycle ≥ f.born + 2000000 then
        runEv s { s with flights := s.flights.put fl { f with sw := [f.sw.getD 0 0, f.sw.getD 1 0, 1] } }
      else runEv s s
    else if f.path = 4 then
      if f.accs.any late && f.pages.any (fun g => s.farKey g.key) then
        runEv s (((s.loseBehind fl).mshDone fl).addAsync f.ag (f.asyncBits cPOISON))
      else runEv s s
    else if isTensor f.instr then
      if f.accs.any late then
        match s.tElement f with
        | .far => runEv s (((s.loseBehind fl).parkTensor f cPOISON 0).updTensor fl (·.waitMark 0))
        | _ => runEv s s
      else runEv s s
    else if f.accs.any fun a => late a && s.unreachable a then
      let s1 := s.loseBehind fl
      let t := { s1 with flights := s1.flights.upd (·.failAccs fun a => late a && s.unreachable a) fl }
      let u := match f.ag, f.instr with
        | .gang gid fid, .cbwait _ => t.unblock gid fid
        | _, _ => t
      runEv s u
    else runEv s s

end Sys2Proof.Machine
end

