-- ==== Sys2Proof/Machine/Traps.lean ====
section
/-!
DEFINITION. The events of a halt and of causes (09 R250, R252-R254), and of the host's translations (09 R263).
-/
namespace Sys2Proof.Machine

/-- A gang stops for its workgroup's halt, after `n` bundles of skid (09 R252): a sibling of the trapping gang records HALTSIB and
the next bundle of the fragment that issued last; when that one has exited, of the first fragment in the gang's table: the model's choice (log
entry 100). -/
def Gang.haltNow (g : Gang) (n : Nat) : Gang :=
  let last := match g.frags.find? g.lastFid with
    | some f => f.pc
    | none => ((g.frags.head?).map fun e => e.2.pc).getD 0
  let t : Gang :=
    { g with halt := .stopped, skid := BitVec.ofNat 32 n, frags := g.frags.map fun e => (e.1, { e.2 with stopped := true }) }
  if g.trap.isSome then t
  else { t with cause := t.cause ||| BitVec.ofNat 64 cHALTSIB, epc := BitVec.ofNat 64 (last % 2 ^ 57) }

/-- HALT_REACH (09 R252): the halt reaches a gang; with `stop`, the gang stops, once the joint operations of its workgroup's sets are
aborted (09 R267). -/
def execHaltReach (gid : Nat) (stop : Bool) (s : State) : OutC :=
  match s.gang? gid with
  | none => runEv s s
  | some g =>
    if !((s.wgOf g).any (·.halted)) || (stop && s.latches.any fun e => (s.wgOf g).any e.2.names && s.latchTrapped e.2) then runEv s s else
    match g.halt with
    | .running => runEv s (s.updGang gid fun x => if stop then x.haltNow 0 else { x with halt := .received 0 })
    | .received n => if stop then runEv s (s.updGang gid fun x => x.haltNow n) else runEv s s
    | .stopped => runEv s s

/-- May a workgroup's gangs act, or is it saved, leaving or parked? -/
def Wg.acts (w : Wg) : Bool :=
  match w.stat with
  | .resident => true
  | .preempting => true
  | _ => false

/-- HANDLER_ENTER (09 R254): every fragment of the trapping gang has stopped. -/
def execHandlerEnter (gid : Nat) (s : State) : OutC :=
  match s.gang? gid with
  | none => runEv s s
  | some g =>
    match g.trap with
    | some t =>
      if !t.entered && g.halt == .stopped && g.frags.all (fun e => e.2.stopped) && (s.wgOf g).any Wg.acts then
        runEv s (s.enterHandler gid t.fid)
      else runEv s s
    | none => runEv s s

/-- Does a fragment take the asynchronous causes of operations that another has issued (09 R250): its own, those of a fragment that it is split
off, or those of one that has exited? -/
def Gang.takesAsync (g : Gang) (fid of_ : Nat) : Bool :=
  of_ == fid || ((g.frags.find? of_).isNone && ((g.recs.find? of_).isNone || (g.leaves treeFuel of_).contains fid))

/-- The asynchronous causes that a fragment at its bundle boundary takes. -/
def Gang.asyncFor (g : Gang) (fid : Nat) : Nat :=
  (g.asyncs.filter fun e => g.takesAsync fid e.1).foldl (fun a e => a ||| e.2) 0

/-- ASYNC_CAUSE_TAKE (09 R250, R256): the fragment is at a bundle boundary, and not within a bundle performed in part. With the handler entered or pending the cause is only
added; one of an operation issued in handler mode is a double fault; a gang without fragments leaves a record of code 33. -/
def execAsyncCauseTake (gid fid : Nat) (s : State) : OutC :=
  match s.gang? gid with
  | none => runEv s s
  | some g =>
    if g.frags.isEmpty then
      let part := ((s.wgOf g).map (·.part)).getD 0
      let tag := ((s.gridOf g).map fun r => r.lr.tag).getD 0
      let lin := ((s.wgOf g).map (·.linear)).getD 0
      let t := g.asyncs.foldl (fun (t : State) _ => t.devErr part 0 33 tag lin) s
      runEv s (t.updGang gid fun x => { x with asyncs := [] })
    else
      match g.frags.find? fid with
      | none => runEv s s
      | some f =>
        let m := g.asyncFor fid
        if m = 0 || f.skip ≠ 0 || !((s.wgOf g).any Wg.acts) then runEv s s else
        let causes := m % 2 ^ 40
        let t := s.updGang gid fun x =>
          { x with asyncs := x.asyncs.filter fun e => !(g.takesAsync fid e.1) }
        if m ≥ 2 ^ 40 then
          let u := if g.trap.isSome then t else t.takeCause (.gang gid fid) .async { causes := causes }
          runEv s (u.doubleFault gid fid causes)
        else if g.trap.isSome then
          runEv s (t.updGang gid fun x => { x with cause := x.cause ||| BitVec.ofNat 64 causes })
        else if f.pendSeq then runEv s s
        else
          runEv s (t.takeCause (.gang gid fid) .async
            { causes := causes, faddr := 0, fsub := Config.freeNat s.fresh 1 % 2 ^ 11 })

/-- ATS_TRANSLATION_COMPLETION (09 R263): the host gives a page's translation, or refuses it. The cache holds 1,024. -/
def execAtsTranslationCompletion (pasid page : Nat) (granted : Option Nat) (s : State) : OutC :=
  let mine := fun (m : OutMsg) => m.kind == 1 && m.args == [pasid, page]
  if !(s.hostOut.any mine) then runEv s s
  else
    let v := match granted with | some p => p + 1 | none => 0
    runEv s { s with
      hostOut := s.hostOut.filter fun m => !(mine m),
      atc := ((pasid, page, v) :: s.atc.filter fun e => !(e.1 == pasid && e.2.1 == page)).take 1024 }

/-- The message by which a host invalidation is completed: PASID and page. -/
def msgInvDone : Nat := 9

/-- Is a request to be sent with a translation of some host pages; any host page, when they are not known? -/
def Flight.usesHost (f : Flight) (keys : List Nat) : Bool :=
  let hit := fun (k : Nat) => keyTier k == 3 && (keys.isEmpty || keys.contains (k / 4096 * 4096))
  f.accs.any fun a => !a.done && ((match a.loc with | .mem k _ _ => hit k | _ => false) || f.pages.any fun p => hit p.key)

/-- ATS_INVALIDATE (09 R263): the translation goes; the request completes once every access that used it has been sent, until when it stands
open and is looked at again. -/
def execAtsInvalidate (pasid page : Nat) (s : State) : OutC :=
  let mine := fun (e : Nat × Nat × List Nat) => e.1 == pasid && e.2.1 == page
  let keys := ((s.atc.filter fun e => e.1 == pasid && e.2.1 == page && e.2.2 != 0).map fun e => memKey 3 0 ((e.2.2 - 1) * 4096)) ++
    ((s.atsInv.filter mine).flatMap (·.2.2))
  let t := { s with atc := s.atc.filter (fun e => !(e.1 == pasid && e.2.1 == page)), atsInv := s.atsInv.filter fun e => !(mine e) }
  if s.flights.any fun e => e.2.pasid == pasid && e.2.usesHost keys then runEv s { t with atsInv := t.atsInv ++ [(pasid, page, keys)] }
  else runEv s { t with hostOut := t.hostOut ++ [{ kind := msgInvDone, args := [pasid, page] }] }

end Sys2Proof.Machine
end

