-- ==== Sys2Proof/Machine/Fetch.lean ====
section
/-!
DEFINITION. The fetch of a bundle (05 R126) and the start of its issue (02 R30, R34; 09 R252, R253): what stands before the
operation word takes effect.
-/
namespace Sys2Proof.Machine

/-- A bundle's bits as fetched, or what keeps it from being fetched, with the state in which its translation is noted (09 R258). -/
inductive FetchRes where
  | ok (w : Nat) (s : State)
  | fault (cause reason : Nat) (s : State)
  | ats (page : Nat) (s : State)
  /-- It waits for a port whose region retrains (10 R287). -/
  | busy (s : State)

/-- A bundle as a core's instruction cache may give it: each 32-bit word old or new (05 R126). -/
def mixWords (fresh : Nat) (old new : Nat) : Nat :=
  (List.range 4).foldl (fun a k =>
    let x := old / 2 ^ (32 * k) % 2 ^ 32
    let y := new / 2 ^ (32 * k) % 2 ^ 32
    a + 2 ^ (32 * k) * (if x = y then y else if Config.freeBit fresh (2 ^ 46 + k) then x else y)) 0

/-- A bundle read for execution at an address (05 R126, R131), of tier 3 at its home with what the host has written (06 R185): a gang's through its core's instruction cache, which holds the bundles
fetched before (log entry 79). Register space is not fetched from (10 R273). -/
def State.fetch (s : State) (ag : Agent) (pc : Nat) : FetchRes :=
  match s.trAg ag pc .exec with
  | .fault c r => .fault c r s
  | .ats p => .ats p s
  | .ok t =>
    let noted := s.noteUse ag t
    if t.isReg then .fault cPROT 1 noted else
    match s.farGate (s.unitOf ag) (s.pasidOf ag) t.key with
    | some none => .fault cPOISON 0 noted
    | some (some p) => .ats p noted
    | none =>
    let m := (s.seeHost t.key).memRead t.key 16 t.zb
    let u := noted.sawHost t.key
    let kept := match ag with
      | .ctx _ => false
      | .gang _ _ => s.icache.any fun l => l.core == s.unitOf ag && l.key == t.key
    if !kept && s.portHeld t.key s.cycle then .busy noted else
    match ag with
    | .ctx _ => if m.2 then .fault cPOISON 0 u else .ok m.1 u
    | .gang _ _ =>
      let core := s.unitOf ag
      match s.icache.find? fun l => l.core == core && l.key == t.key with
      | some l => .ok (if m.2 then leBytes l.data else mixWords s.fresh (leBytes l.data) m.1) u
      | none =>
        if m.2 then .fault cPOISON 0 u
        else .ok m.1 { u with icache := { core := core, key := t.key, data := toBytes 16 m.1 } :: u.icache }

/-- The operation word's use of the datapath: wide forms take one slice per pass (11 R309). -/
def wideOp (i : Instr) : Bool := (shape false i).wide

/-- The passes that an agent's bundle takes (02 R30): four slices to a pass. -/
def State.passesOf (s : State) (ag : Agent) (wide : Bool) : Nat :=
  match ag with
  | .ctx _ => 1
  | .gang gid fid =>
    match s.gang? gid with
    | none => 1
    | some g =>
      let n := (slicesOf g.width (((g.frags.find? fid).map (·.mask)).getD 0)).length
      max 1 (if wide then n else ceilDiv n 4)

/-- The lanes that an agent's bundle runs in. -/
def State.maskOfAg (s : State) : Agent → LaneMask
  | .gang gid fid => ((s.frag? gid fid).map (·.mask)).getD 0
  | .ctx _ => 1

/-- The target that a JIND read before its bundle issued, of a bundle whose sequencing alone is left (11 R299); none after a return from a
handler, which performs the sequencing anew (09 R257). -/
def State.keptJt (s : State) : Agent → Option Nat
  | .gang gid fid => (s.frag? gid fid).bind (·.jt)
  | .ctx n => (s.ctx n).jt

/-- The bundle that an agent starts to issue: a JIND's pair is read before its operation word (11 R299). -/
def State.newIssue (s : State) (ag : Agent) (ctl : Ctl) (wide seqOnly : Bool) : Issue :=
  let is : Issue :=
    { ag := ag, pc := s.pcOf ag, ctl := ctl, mask := s.maskOfAg ag, jt := 0, seqOnly := seqOnly, after := 0, cyc := s.cycleOf ag,
      passes := s.passesOf ag wide, haz := s.hazAll ag }
  if ctl.nsel = 7 then
    let n := ctl.ntgt.toNat % 64
    let word := fun (k : Nat) => s.seqRead ag is.cyc is.haz (.s k) 0 (960 + k) (s.rdS ag k).toNat
    { is with jt := (if seqOnly then s.keptJt ag else none).getD (word n + 2 ^ 32 * word (n + 1)) }
  else is

/-- A bundle counted: its gang's last fragment to issue, its skid after a halt (09 R252), its datapath busy until its last
pass (02 R30), and the target of its JIND kept. -/
def State.countIssue (s : State) (is : Issue) : State :=
  let t := { s with issue := some is }
  match is.ag with
  | .ctx n => t.updCtx n fun c => { c with jt := some is.jt }
  | .gang gid fid =>
    match s.gang? gid with
    | none => t
    | some g =>
      let u := (t.updFrag gid fid fun f => { f with jt := some is.jt }).updGang gid fun x =>
        { x with lastFid := fid, halt := match x.halt with | .received n => .received (n + 1) | h => h }
      { u with dps := u.dps.put (4 * g.core + g.dp) (gid, fid, is.lastPass + 1) }

/-- What an agent chosen to issue comes to. -/
inductive Begin where
  /-- Nothing is left to issue: a cause, or a wait. -/
  | stop (s : State)
  /-- The bundle stands at a re-gang point that its fragment has not passed. -/
  | regang (gid fid : Nat) (s : State)
  /-- The operation and its control word. -/
  | op (i : Instr) (ctl : Ctl) (s : State)
  /-- Only the sequencing is left (09 R249). -/
  | seq (ctl : Ctl) (s : State)

/-- A fetch that an agent's bundle cannot make (05 R126, 09 Table 9.3): POISON, of the asynchronous kind, marks no lane. Of a bundle of which only
the sequencing is left SEQONLY is 1, so that its operation word is not issued again on the return: the model's choice, since Table 9.2 gives
these causes 0 (log entry 96). -/
def State.fetchFault (s : State) (ag : Agent) (seqOnly : Bool) (cause reason : Nat) : State :=
  (s.dropFar (s.pasidOf ag)).takeCause ag (if seqOnly then .seqFault else .fault)
    { causes := cause, faddr := s.pcOf ag, fsub := 3 + 16 * reason + 7 * 256,
      fmask := if cause = cPOISON then 0 else s.maskOfAg ag }

/-- The host's translation of a bundle's page is asked for, and the agent waits (09 R263). -/
def State.fetchAts (s : State) (ag : Agent) (page : Nat) : State :=
  (s.askAts (some (s.pasidOf ag, page))).blockRetry ag .ats

/-- A bundle of a fragment fetched: its re-gang point, its decoding, its sequencing alone. -/
def State.startWord (s : State) (ag : Agent) (w : Nat) (seqOnly rgOk : Bool) : Begin :=
  let ctl := ctlOf w
  let stop := fun (is : Issue) (k : RKind) => Begin.stop
    (let t := s.countIssue is
     t.takeCause ag k (decodeTrap t is cILLOP))
  match ag with
  | .gang gid fid =>
    if ctl.rg && !rgOk && (!seqOnly || ctl.nsel == 8) then .regang gid fid s
    else if seqOnly then
      let is := s.newIssue ag ctl false true
      if ctl.nsel.toNat ≥ 9 then stop is .seqFault else .seq ctl (s.countIssue is)
    else
      match decode w with
      | none => stop (s.newIssue ag ctl false false) .fault
      | some (i, _) => .op i ctl (s.countIssue (s.newIssue ag ctl (wideOp i) false))
  | .ctx _ =>
    let is := s.newIssue ag ctl false seqOnly
    if seqOnly then (if ctl.nsel.toNat ≥ 9 then stop is .seqFault else .seq ctl (s.countIssue is))
    else
      match decode w with
      | none => stop is .fault
      | some (i, _) => .op i ctl (s.countIssue is)

/-- A chosen agent's bundle begins: a cause held back from a bundle before it is raised first (09 R253), but not in a handler that another
cause has entered meanwhile, then the bundle is fetched. -/
def State.startIssue (s : State) (ag : Agent) : Begin :=
  match ag with
  | .ctx n =>
    match s.fetch ag (s.ctx n).pc with
    | .fault c r t => .stop (t.fetchFault ag (s.ctx n).seqOnly c r)
    | .ats p t => .stop (t.fetchAts ag p)
    | .busy t => .stop (t.blockRetry ag (.drain []))
    | .ok w t => t.startWord ag w (s.ctx n).seqOnly true
  | .gang gid fid =>
    match s.frag? gid fid with
    | none => .stop s
    | some f =>
      if (f.pendTrap || f.pendBkpt) && (s.gang? gid).any (fun g => g.slot.isNone) then
        let t := s.updFrag gid fid fun x => { x with pendTrap := false, pendBkpt := false }
        .stop (t.takeCause ag (if f.pendSeq then .exitAfter else .after)
          { causes := (if f.pendTrap then cSWTRAP else 0) + (if f.pendBkpt then cBKPT else 0) })
      else
        match s.fetch ag f.pc with
        | .fault c r t => .stop (t.fetchFault ag f.pendSeq c r)
        | .ats p t => .stop (t.fetchAts ag p)
        | .busy t => .stop (t.blockRetry ag (.drain []))
        | .ok w t => t.startWord ag w f.pendSeq f.rgOk

/-- The operation at an agent's program counter, as issue selection looks ahead (03 R73). -/
def State.nextInstr (s : State) (ag : Agent) : Option Instr :=
  match s.trAg ag (s.pcOf ag) .exec with
  | .ok t => (decode ((s.seeHost t.key).memRead t.key 16 t.zb).1).map (·.1)
  | _ => none

/-- The bits of the bundle at an agent's program counter, and whether it is a re-gang point. -/
def State.nextRg (s : State) (ag : Agent) : Bool :=
  match s.trAg ag (s.pcOf ag) .exec with
  | .ok t => (ctlOf ((s.seeHost t.key).memRead t.key 16 t.zb).1).rg
  | _ => false

/-- Is the bundle at an agent's program counter an EXIT bundle (02 R41)? -/
def State.nextExits (s : State) (ag : Agent) : Bool :=
  match s.trAg ag (s.pcOf ag) .exec with
  | .ok t => (ctlOf ((s.seeHost t.key).memRead t.key 16 t.zb).1).nsel == 8
  | _ => false

end Sys2Proof.Machine
end

