-- ==== Sys2Proof/Machine/FrontEnd.lean ====
section
/-!
DEFINITION. The front end (03 R57-R62, R479): how a published packet is read and consumed, and what each TYPE of packet does.
-/
namespace Sys2Proof.Machine

/-- Bytes `off` to `off + n - 1` of a packet. -/
def pkt (x off n : Nat) : Nat := x / 256 ^ off % 256 ^ n

/-- A packet that the front end can read now: its index, its first slot, and its second when it is a LAUNCH. -/
structure Packet where
  index : Nat
  slot : Nat
  whole : Nat
deriving DecidableEq, Repr

/-- The packet at the head of an enabled queue, when one is published (03 R59). -/
def State.nextPacket (s : State) (w : WorkQ) : DRes (Option Packet) :=
  let part := s.frontPart w
  let size := 2 ^ w.log2
  let at_ := fun (i : Nat) => w.base + 64 * (i % size)
  if !(w.qflags.getLsbD 0) || w.enabling.isSome then .ok none s else
  (s.devRead devUnit w.pasid part w.widxAddr 8).bind fun widx t =>
    if widx = w.ridx ∨ (widx + 2 ^ 64 - w.ridx) % 2 ^ 64 ≥ 2 ^ 63 then .ok none t
    else
      (t.devRead devUnit w.pasid part (at_ w.ridx) 8).bind fun h t =>
        if h / 256 % 2 ≠ w.ridx / size % 2 then .ok none t
        else
          (t.devRead devUnit w.pasid part (at_ w.ridx) 64).bind fun x t =>
            if x % 256 = 1 then
              (t.devRead devUnit w.pasid part (at_ (w.ridx + 1)) 64).bind fun y t =>
                .ok (some { index := w.ridx, slot := x, whole := x + 2 ^ 512 * y }) t
            else .ok (some { index := w.ridx, slot := x, whole := x }) t

/-- A packet consumed: the read index advances, in memory too (03 R59); when that write faults, the queue stops and the packet,
which was read, keeps its effect (03 R479). -/
def State.consume (s : State) (q : Nat) (w : WorkQ) (p : Packet) : DRes Unit :=
  let n := (p.index + (if p.slot % 256 = 1 then 2 else 1)) % 2 ^ 64
  match s.devWrite devUnit w.pasid (s.frontPart w) w.ridxAddr 8 n with
  | .ok _ t => .ok () { t with queues := t.queues.upd (fun (x : WorkQ) => { x with ridx := n }) q }
  | .fault va t => .ok () (t.queueStop q va)
  | .wait v => .wait v

/-- A step of the front end on a queue: the packet, if `want` it, is consumed once `ready` and then acts; a faulting read
stops the queue with nothing done (03 R479). -/
def State.frontEnd (s : State) (q : Nat) (want : Nat → Bool) (ready : Packet → Bool)
    (act : WorkQ → Packet → State → DRes Unit) : DRes Unit :=
  match s.queues.find? q with
  | none => .ok () s
  | some w =>
    let r := (s.nextPacket w).bind fun p t =>
      match p with
      | none => DRes.ok none t
      | some p => if want p.slot && ready p then (t.consume q w p).bind fun _ u => .ok (some p) u else .ok none s
    match r with
    | .ok none _ => .ok () s
    | .ok (some p) t => act w p t
    | .fault va t => .ok () (t.queueStop q va)
    | .wait v => .wait v

/-- A packet's rejection (03 R62). -/
def reject (q : Nat) (p : Packet) (code : Nat) (s : State) : DRes Unit := s.queueErr q p.index code (pkt p.slot 4 4)

/-- Are the header's reserved bits zero, TARGET among them where it means nothing (03 Table 3.2)? -/
def headerBad (x : Nat) : Bool := natBits x 15 9 ≠ 0 || natBits x 31 16 ≠ 0

/-- A step without a condition beyond the packet's type. -/
def anyReady : Packet → Bool := fun _ => true

/-- PACKET_LAUNCH (03 R63, R64). -/
def execPacketLaunch (q : Nat) (s : State) : OutC :=
  devEv s (s.frontEnd q (fun x => x % 256 == 1) anyReady fun w p t =>
    (t.launchRecord (.queue (w.qflags.getLsbD 1) (w.qflags.getLsbD 2) w.partMask) w.pasid 0 p.whole
      (some (q, p.index, pkt p.slot 4 4))).bind fun code u =>
        if code = 0 then .ok () u else reject q p code u)

/-- The engine that a LAUTER packet names (07 R206). -/
def State.lauterTarget (s : State) (x : Nat) : Nat := s.engineFor (natBits x 20 16) (natBits x 23 16)

/-- PACKET_LAUTER (07 R206, R207): a full command queue holds the front end back. -/
def execPacketLauter (q : Nat) (s : State) : OutC :=
  let mask := ((s.queues.find? q).map (·.partMask)).getD 0
  let outside := fun (x : Nat) => lauterOutside x mask || !(mask.testBit (partOfCluster (natBits x 20 16)))
  devEv s (s.frontEnd q (fun x => x % 256 == 2)
    (fun p => lauterBad p.slot || outside p.slot || !(s.cmdFull (s.lauterTarget p.slot)))
    fun w p t =>
      if lauterBad p.slot then reject q p 1 t
      else if outside p.slot then reject q p 6 t
      else .ok () (t.accept (s.lauterTarget p.slot)
        (lauterFields p.slot w.pasid (partOfCluster (natBits p.slot 20 16)) [] none)))

/-- A DCOP packet's bytes that are reserved, or hold a value outside their field's range (03 Table 3.3). -/
def dcopBad (x : Nat) : Bool :=
  headerBad x || pkt x 9 1 ≠ 0 || pkt x 24 40 ≠ 0 || decide (pkt x 10 2 > 4095) || decide (pkt x 12 4 > 8388607)

/-- PACKET_DCOP_SET (03 R61, R75, R76). -/
def execPacketDcopSet (q : Nat) (s : State) : OutC :=
  devEv s (s.frontEnd q (fun x => x % 256 == 3 && pkt x 8 1 == 1) anyReady fun w p t =>
    let x := p.slot
    let id := pkt x 10 2
    let task := pkt x 16 8
    if dcopBad x || task % 64 ≠ 0 || decide (task ≥ 2 ^ 57) then reject q p 1 t
    else if !(w.partMask.testBit (id / 512)) then reject q p 6 t
    else
      (t.dcSetTo id (pkt x 12 4) task w.pasid).bind fun refused u =>
        if refused then reject q p 1 u else .ok () u)

/-- PACKET_DCOP_DECREMENT (03 R61, R76); an OP that is neither is rejected. -/
def execPacketDcopDecrement (q : Nat) (s : State) : OutC :=
  devEv s (s.frontEnd q (fun x => x % 256 == 3 && pkt x 8 1 != 1) anyReady fun w p t =>
    let x := p.slot
    let id := pkt x 10 2
    if dcopBad x || pkt x 8 1 ≠ 2 || pkt x 12 4 == 0 then reject q p 1 t
    else if !(w.partMask.testBit (id / 512)) then reject q p 6 t
    else t.dcDecrement id (pkt x 12 4))

/-- A CBOP packet's reserved bytes, scope and alignment (03 R61, Table 3.3). -/
def cbopBad (x : Nat) : Bool :=
  headerBad x || decide (pkt x 9 1 > 5) || pkt x 10 6 ≠ 0 || pkt x 28 4 ≠ 0 || pkt x 40 24 ≠ 0 || pkt x 16 8 % 32 ≠ 0

/-- A CBOP at its barrier's home (03 R61, 05 R141), held as a CBINIT or CBARR is while its chip is not reached (10 R284): a failure is kept until the home reports it. -/
def State.cbopAct (s : State) (q : Nat) (w : WorkQ) (p : Packet) (op : HomeOp) (f : Nat → Nat) : DRes Unit :=
  let x := p.slot
  let va := pkt x 16 8
  let part := s.frontPart w
  let fail := fun (t : State) =>
    DRes.ok () { t with
      nextId := t.nextId + 1,
      cbops := t.cbops.put t.nextId { q := q, index := p.index, tag := pkt x 4 4, pasid := w.pasid, part := part, addr := va,
                                      op := op, scope := pkt x 9 1 } }
  match s.translate devUnit w.pasid part va .rmw false with
  | .fault _ _ => fail s
  | .ats page => if page < 2 ^ 50 then fail s else .wait (some (w.pasid, page))
  | .ok t =>
    if t.isReg || t.tier == 3 then fail s
    else match s.farGate devUnit w.pasid t.key with
    | some none => fail (s.dropFar w.pasid)
    | some (some page) => .wait (some (w.pasid, page))
    | none =>
      if t.hold || s.portHeld t.key s.cycle then .wait none
      else
        let r := s.cbUpdate (.mem t.key t.zb) f
        let u := if keyTier t.key = 2 then r.1.sendReq (schedSlot + 1 + q) 8 (peerOf t.key) 0 msgRequest [t.key, 8] else r.1
        if r.2.2 then fail s else .ok () ((u.noteUseEv devUnit w.pasid t).countXfer t.key)

/-- PACKET_CBOP_INITIALISE (03 R61, 05 Table 5.5). -/
def execPacketCbopInitialise (q : Nat) (s : State) : OutC :=
  devEv s (s.frontEnd q (fun x => x % 256 == 4 && pkt x 8 1 == 1) anyReady fun w p t =>
    let x := p.slot
    if cbopBad x then reject q p 1 t
    else t.cbopAct q w p (.cbInit (pkt x 24 4) (pkt x 32 8)) fun b => cbInitFn b (pkt x 24 4) (pkt x 32 8))

/-- PACKET_CBOP_ARRIVE (03 R61, 05 Table 5.5); an OP that is neither is rejected. -/
def execPacketCbopArrive (q : Nat) (s : State) : OutC :=
  devEv s (s.frontEnd q (fun x => x % 256 == 4 && pkt x 8 1 != 1) anyReady fun w p t =>
    let x := p.slot
    if cbopBad x || pkt x 8 1 ≠ 2 then reject q p 1 t
    else t.cbopAct q w p (.cbArrive (pkt x 24 4) (pkt x 32 8)) fun b => cbArriveFn b (pkt x 24 4) (pkt x 32 8))

/-- PACKET_NOP (03 R61); a TYPE that is not recognised is rejected. -/
def execPacketNop (q : Nat) (s : State) : OutC :=
  devEv s (s.frontEnd q (fun x => decide (x % 256 = 0 ∨ x % 256 > 4)) anyReady fun _ p t =>
    if p.slot % 256 ≠ 5 || headerBad p.slot || pkt p.slot 8 56 ≠ 0 then reject q p 1 t else .ok () t)

/-- CBOP_FAILURE_REPORT (03 R61): the rejection with code 8. -/
def execCbopFailureReport (k : Nat) (s : State) : OutC :=
  match s.cbops.find? k with
  | none => runEv s s
  | some c => devEv s (({ s with cbops := s.cbops.del k } : State).queueErr c.q c.index 8 c.tag)

end Sys2Proof.Machine
end

