-- ==== Sys2Proof/Machine/Logic.lean ====
section
/-!
DEFINITION. The logic and bit family: AND to BPERM (12 R334-R338, R348; 13 R374, R393; 14 R426; 15 R447, R474).
-/
namespace Sys2Proof.Machine

/-- The words of a B32 or B64 form. -/
def subWords (o : Opw) : Nat := if o.sub = 0 then 1 else 2

/-- AND (15 R474). -/
def execAndB (o : Opw) (s : State) : Out := aluOp (.andB o) o .raw (subWords o) (fun a b _ => (a &&& b, 0)) s

/-- OR (15 R474). -/
def execOrB (o : Opw) (s : State) : Out := aluOp (.orB o) o .raw (subWords o) (fun a b _ => (a ||| b, 0)) s

/-- XOR (15 R474). -/
def execXorB (o : Opw) (s : State) : Out := aluOp (.xorB o) o .raw (subWords o) (fun a b _ => (a ^^^ b, 0)) s

/-- NOT (15 R474). -/
def execNotB (o : Opw) (s : State) : Out :=
  aluOp (.notB o) o .raw (subWords o) (fun a _ _ => (2 ^ (32 * subWords o) - 1 - a, 0)) s

/-- A truth table over three words, bit by bit (13 R393). -/
def truth3 (w tt a b c : Nat) : Nat :=
  (List.range w).foldl (fun acc i =>
    let ix := (a / 2 ^ i) % 2 + 2 * ((b / 2 ^ i) % 2) + 4 * ((c / 2 ^ i) % 2)
    if tt.testBit ix then acc + 2 ^ i else acc) 0

/-- LOGT (13 R393). -/
def execLogt (o : Opw) (s : State) : Out :=
  aluOp (.logt o) o .raw (subWords o) (fun a b c => (truth3 (32 * subWords o) (o.imm.toNat % 256) a b c, 0)) s

/-- SHL (15 R447). -/
def execShl (o : Opw) (s : State) : Out :=
  let w := 32 * subWords o
  aluOp (.shl o) o .raw (subWords o) (fun a b _ => (if b ≥ w then 0 else a * 2 ^ b % 2 ^ w, 0)) s

/-- SHR (15 R447). -/
def execShr (o : Opw) (s : State) : Out :=
  let w := 32 * subWords o
  aluOp (.shr o) o .raw (subWords o) (fun a b _ => (if b ≥ w then 0 else a / 2 ^ b, 0)) s

/-- SAR (15 R447). -/
def execSar (o : Opw) (s : State) : Out :=
  let w := 32 * subWords o
  aluOp (.sar o) o .raw (subWords o)
    (fun a b _ => (wrapInt (sextNat a w / ((2 ^ (if b ≥ w then w else b) : Nat) : Int)) w, 0)) s

/-- FSHF (13 R374). -/
def execFshf (o : Opw) (s : State) : Out :=
  let k := o.sub.toNat
  aluOp (.fshf o) o .raw 1
    (fun lo hi c =>
      let v := hi * 2 ^ 32 + lo
      let sh := if k < 2 then c % 32 else (if c < 32 then c else 32)
      (if k = 0 ∨ k = 2 then natBits (v * 2 ^ sh) 63 32 else (v / 2 ^ sh) % 2 ^ 32, 0)) s

/-- Position and clamped length of a bit field (12 R334). -/
def fieldOf (w ctl : Nat) : Nat × Nat :=
  let pos := ctl % 256
  let len := ctl / 256 % 256
  (pos, if pos ≥ w then 0 else if len < w - pos then len else w - pos)

/-- BFE (12 R334). -/
def execBfe (o : Opw) (s : State) : Out :=
  let k := o.sub.toNat
  let n := if k < 2 then 1 else 2
  let w := 32 * n
  aluOp (.bfe o) o .raw n
    (fun a b _ =>
      let f := fieldOf w b
      if f.2 = 0 then (0, 0)
      else
        let x := a / 2 ^ f.1 % 2 ^ f.2
        (if k % 2 = 1 then wrapInt (sextNat x f.2) w else x, 0)) s

/-- BFI (12 R335). -/
def execBfi (o : Opw) (s : State) : Out :=
  let n := if o.sub = 0 then 1 else 2
  let w := 32 * n
  aluOp (.bfi o) o .raw n
    (fun a b c =>
      let f := fieldOf w c
      if f.2 = 0 then (b, 0)
      else (b - (b / 2 ^ f.1 % 2 ^ f.2) * 2 ^ f.1 + (a % 2 ^ f.2) * 2 ^ f.1, 0)) s

/-- The number of set bits among the low `w`. -/
def popNat (w x : Nat) : Nat := ((List.range w).filter fun i => x.testBit i).length

/-- POPC (14 R426). -/
def execPopc (o : Opw) (s : State) : Out :=
  aluOp (.popc o) o .raw 1 (fun a _ _ => (popNat (32 * subWords o) a, 0)) s

/-- CLZ (12 R348). -/
def execClz (o : Opw) (s : State) : Out :=
  let w := 32 * subWords o
  aluOp (.clz o) o .raw 1 (fun a _ _ => (if a = 0 then w else w - 1 - Nat.log2 a, 0)) s

/-- The low `w` bits in reverse order. -/
def revBits (w x : Nat) : Nat :=
  (List.range w).foldl (fun acc i => if x.testBit i then acc + 2 ^ (w - 1 - i) else acc) 0

/-- BREV (12 R338). -/
def execBrev (o : Opw) (s : State) : Out :=
  aluOp (.brev o) o .raw (subWords o) (fun a _ _ => (revBits (32 * subWords o) a, 0)) s

/-- Byte `i` of a number. -/
def byteAt (x i : Nat) : Nat := x / 256 ^ i % 256

/-- BPERM's plain selection from eight bytes (12 R337). -/
def bpermSel (a b c : Nat) : Nat :=
  let pool := a + 2 ^ 32 * b
  (List.range 4).foldl (fun r i =>
    let n := c / 16 ^ i % 16
    let p := byteAt pool (n % 8)
    r + 256 ^ i * (if n ≥ 8 then (if p ≥ 128 then 255 else 0) else p)) 0

/-- BPERM's 16-entry byte table (12 R337). -/
def bpermTab (hi : Bool) (a tab : Nat) : Nat :=
  (List.range 4).foldl (fun r i =>
    let k := if hi then a / 16 ^ (2 * i + 1) % 16 else a / 16 ^ (2 * i) % 16
    r + 256 ^ i * byteAt tab k) 0

/-- BPERM (12 R337). -/
def execBperm (o : Opw) (s : State) : Out :=
  aluOp (.bperm o) o .raw 1
    (fun a b c => (if o.sub = 0 then bpermSel a b c else bpermTab (o.sub == 2) a b, 0)) s

end Sys2Proof.Machine
end

