-- ==== Sys2Proof/Machine/Fabric.lean ====
section
/-!
DEFINITION. Cohort phases on one chip and over several (12 R350-R352), and the requests of peer chips (06 R182-R184; 10 R283).
-/
namespace Sys2Proof.Machine

/-! ### Cohorts -/

/-- Has a workgroup of a grid ended? -/
def State.cohortEnded (s : State) (grid : Nat) (g : Grid) (lin : Nat) : Bool :=
  g.dead.has lin || (decide (lin < g.nextLinear) &&
    (match List.find? (fun (e : Nat × Wg) => e.2.grid == grid && e.2.linear == lin) s.wgs with
      | none => true
      | some e => s.lanesLeft e.1 == 0))

/-- Has a workgroup of a grid arrived at a cohort's open phase, or ended (12 R350)? -/
def State.cohortIn (s : State) (grid : Nat) (g : Grid) (x : Cohort) (lin : Nat) : Bool :=
  g.dead.has lin || (decide (lin < g.nextLinear) &&
    (match List.find? (fun (e : Nat × Wg) => e.2.grid == grid && e.2.linear == lin) s.wgs with
      | none => true
      | some e => (let n := s.lanesLeft e.1
                   n == 0 || (match x.lanes.find? lin with | some k => decide (k ≥ n) | none => false))))

/-- Is a cohort's open phase complete among this chip's workgroups? -/
def State.cohortFull (s : State) (grid : Nat) (g : Grid) (c : Nat) (x : Cohort) : Bool :=
  !x.lanes.isEmpty && (List.range g.count).all fun i =>
    !((g.members.getD (g.first + i) []).contains c) || s.cohortIn grid g x (g.first + i)

/-- A fragment that waited for a phase goes on: its COBAR or CORED is done, with the phase's result; leaving the wait is an
acquire (12 R352). -/
def State.leaveCohort (s : State) (gid fid c res : Nat) (rels : List Nat) : State :=
  let ag := Agent.gang gid fid
  let away := !((s.gang? gid).bind fun g => s.wgOf g).any Wg.onChip
  let t := { s with flights := s.flights.map fun (e : Nat × Flight) =>
    (e.1,
      if e.2.ag == ag && e.2.cur == c && (match e.2.instr with | .cobar _ => true | .cored _ => true | _ => false) &&
          !(e.2.accs.all fun a => a.done) then
        { e.2 with accs := [doneAcc 0 res], sw := if away then [res] else e.2.sw,
                   grant := if away && e.2.dest != Dest.none then 1 else e.2.grant }
      else e.2) }
  ((t.unblock gid fid).acquireFrom ag rels).dropL1 ag

/-- A phase of a cohort is complete on this chip's share of its grid: every fragment that waits for it goes on with the result. -/
def State.endPhase (s : State) (grid c res : Nat) (x : Cohort) : State :=
  let waiting := s.gangs.flatMap fun e =>
    if (s.wgOf e.2).any (fun w => w.grid == grid) then
      (e.2.frags.filter fun (f : Nat × Frag) => f.2.stat == .blocked (.cohort c x.phase)).map fun f => (e.1, f.1)
    else []
  let y : Cohort := { Cohort.zero with phase := (x.phase + 1) % 2 ^ 32 }
  waiting.foldl (fun (t : State) w => t.leaveCohort w.1 w.2 c res x.flights) (s.updGrid grid fun r => { r with cohorts := r.cohorts.put c y })

/-- A value free where R350 leaves a phase's result unspecified. -/
def State.freeResult (s : State) : Nat := (Config.freeWord s.fresh 2).toNat + 2 ^ 32 * (Config.freeWord s.fresh 3).toNat

/-! ### Cohorts of a grid over several chips -/

/-- The release of a phase reaches a chip (12 R352). -/
def State.releaseHere (s : State) (origin gen c phase res : Nat) : State :=
  match List.find? (fun (e : Nat × Grid) => e.2.mc == some (origin, gen)) s.grids with
  | none => s
  | some (id, g) =>
    let x := Tab.get Cohort.zero g.cohorts c
    if x.phase = phase then s.endPhase id c res x else s

/-- Has the origin all that a chip has to say of a cohort's open phase: its share, its members' end, or no member at all? -/
def Hub.has (h : Hub) (c chip : Nat) (x : HubCohort) : Bool :=
  let sh := h.lr.share chip
  (x.shares.find? chip).isSome || h.gone.contains chip || h.ended.contains (chip, c) ||
    (List.range sh.2).all fun i => !((h.members.getD (sh.1 + i) []).contains c)

/-- The origin completes a cohort's phase once every chip's share has arrived: it combines the contributions and releases the phase on
every chip (12 R350-R352). -/
def State.hubCheck (s : State) (gen c : Nat) : State :=
  match s.hubs.find? fun h => h.gen == gen with
  | none => s
  | some h =>
    let x := Tab.get { phase := 0, shares := [] } h.cohorts c
    let chips := chipsOf h.lr.chipset
    if x.shares.isEmpty || !(chips.all fun k => h.has c k x) then s else
    let ops := x.shares.filterMap fun e => e.2.1
    let bad := x.shares.any (fun e => e.2.2.1) || ops.eraseDups.length > 1
    let res := match ops with
      | [] => 0
      | op :: _ => cohortResult op bad (x.shares.flatMap fun e => e.2.2.2) s.freeResult
    let y : HubCohort := { phase := (x.phase + 1) % 2 ^ 32, shares := [] }
    let t := { s with hubs := s.hubs.map fun k => if k.gen == gen then { k with cohorts := k.cohorts.put c y } else k }
    let u := (chips.filter fun k => k != s.chip).foldl
      (fun (u : State) k => u.sendReq schedSlot 8 k 0 msgRelease [s.chip, gen, c, x.phase, res]) t
    u.releaseHere s.chip gen c x.phase res

/-- A chip's share reaches the origin. A share of a cohort that the launch has not says that the chip's part of the grid is over. -/
def State.hubShare (s : State) (chip gen c phase : Nat) (arrived gone : Bool) (op : Option Nat) (bad : Bool) (values : List Nat) : State :=
  match s.hubs.find? fun h => h.gen == gen with
  | none => s
  | some h =>
    let put := fun (g : Hub → Hub) => { s with hubs := s.hubs.map fun k => if k.gen == gen then g k else k }
    if !arrived && gone && decide (c ≥ 2 ^ 32) then
      let t := put fun k => { k with gone := chip :: k.gone }
      if (chipsOf h.lr.chipset).all (fun k => k == chip || h.gone.contains k) then { t with hubs := t.hubs.filter fun k => k.gen != gen }
      else h.cohorts.foldl (fun (u : State) e => u.hubCheck gen e.1) t
    else
      let t := put fun k =>
        let x := Tab.get { phase := 0, shares := [] } k.cohorts c
        { k with
          ended := if gone then (chip, c) :: k.ended else k.ended,
          cohorts := if arrived && x.phase == phase then k.cohorts.put c { x with shares := x.shares.put chip (op, bad, values) }
            else k.cohorts }
      t.hubCheck gen c

/-- A chip's share of a phase goes to the origin, as a fabric request, or at once on the origin itself. -/
def State.sendShare (s : State) (origin gen c phase : Nat) (arrived gone : Bool) (op : Option Nat) (bad : Bool) (values : List Nat) :
    State :=
  if origin = s.chip then s.hubShare s.chip gen c phase arrived gone op bad values
  else
    s.sendReq schedSlot 8 origin 0 msgShare
      ([gen, c, phase, arrived.toNat, gone.toNat, (op.map (· + 1)).getD 0, bad.toNat] ++ values)

/-- This chip's share of a phase of a grid over several chips (12 R352): sent once all its members have arrived or ended and every write
that the arrivals release at fabric scope has been acknowledged (06 R183). -/
def State.shareDone (s : State) (grid : Nat) (g : Grid) (origin gen c : Nat) (x : Cohort) : State :=
  let mine := (List.range g.count).filter fun i => (g.members.getD (g.first + i) []).contains c
  let gone := mine.all fun i => s.cohortEnded grid g (g.first + i)
  if x.sent || mine.isEmpty || !(mine.all fun i => s.cohortIn grid g x (g.first + i)) || (x.lanes.isEmpty && !gone) ||
      !(x.flights.all s.acknowledged) then s
  else
    (s.updGrid grid fun r => { r with cohorts := r.cohorts.put c { x with sent := true } }).sendShare origin gen c x.phase
      (!x.lanes.isEmpty) gone x.op x.bad (x.values.map (·.2))

/-- COHORT_PHASE_COMPLETE (12 R350-R352). -/
def execCohortPhaseComplete (grid cohort : Nat) (s : State) : OutC :=
  match s.grids.find? grid with
  | none => runEv s s
  | some g =>
    let x := Tab.get Cohort.zero g.cohorts cohort
    match g.mc with
    | some (origin, gen) => runEv s (if cohort < g.cohortN then s.shareDone grid g origin gen cohort x else s)
    | none =>
      if !(s.cohortFull grid g cohort x) then runEv s s
      else
        let res := match x.op with
          | none => 0
          | some op => cohortResult op x.bad (x.values.map (·.2)) s.freeResult
        runEv s (s.endPhase grid cohort res x)

/-- The origin is told that this chip's part of a launch is over. -/
def State.mcOver (s : State) (g : Grid) : State :=
  match g.mc with
  | some (origin, gen) => if g.cohortN = 0 then s else s.sendShare origin gen (2 ^ 32) 0 false true none false []
  | none => s

/-! ### Requests of peer chips -/

/-- The message by which a request from a peer chip is acknowledged: chip, stream, number, prior value, poison. -/
def msgAck : Nat := 8

/-- What a request of a peer does at this chip's home (06 R182), or at its task scheduler (12 R352): the prior value, and whether it met
poison. -/
def State.fabAct (s : State) (p : Spot) (r : FabReq) : State × Nat × Bool :=
  match r.op with
  | .store bytes =>
    let w := s.spotWrite p bytes.length (leBytes bytes) 0 false
    (w.1, 0, w.2)
  | .rmw .gath8 x _ =>
    let g := s.spotGather p x
    (s, g.1, g.2)
  | .rmw f x y => s.spotUpdate p (HomeFn.bytes f) fun old => homeFn f old x y
  | .cbInit ae be => s.cbUpdate p fun v => cbInitFn v ae be
  | .cbArrive n bytes => s.cbUpdate p fun v => cbArriveFn v n bytes
  | .or64 m => s.spotUpdate p 8 fun v => (v ||| m, v)
  | .merge g d id fl => s.spotUpdate p 16 fun v => (visMerge g d id fl v, 0)
  | .cohortShare gen c phase arrived gone op bad values => (s.hubShare r.src gen c phase arrived gone op bad values, 0, false)
  | .cohortRelease origin gen c phase res => (s.releaseHere origin gen c phase res, 0, false)

/-- The bytes that a request of a peer writes. -/
def fabBytes (r : FabReq) : Nat :=
  match r.op with
  | .store bytes => bytes.length
  | .rmw .gath8 _ _ => 0
  | .rmw f _ _ => HomeFn.bytes f
  | .or64 _ => 8
  | .merge _ _ _ _ => 16
  | .cbInit _ _ => 32
  | .cbArrive _ _ => 32
  | _ => 0

/-- A request of a peer applied: reads through other paths than its own may still find the bytes before (06 R178). -/
def State.fabApply (s : State) (r : FabReq) : State × Nat × Bool :=
  let p : Spot := .mem r.key (s.blockZb r.key)
  let x := s.fabAct p r
  if x.2.2 || r.path > 6 then x
  else (x.1.replaced r.path 0 r.key (fabBytes r) (s.spotRead p (fabBytes r)).1 (x.1.spotRead p (fabBytes r)).1, x.2)

/-- An acknowledgement sent. -/
def State.fabAck (s : State) (r : FabReq) (v : Nat) : State :=
  { s with fabricOut := s.fabricOut ++ [{ kind := msgAck, args := [r.src, r.stream, r.seq, v] }] }

/-- The next requests in number order applied, while the window holds them (10 R283). -/
def fabDrain : Nat → Window → State → Window × State
  | 0, w, s => (w, s)
  | fuel + 1, w, s =>
    match w.heldReqs.find? fun r => r.seq == w.next with
    | none => (w, s)
    | some r =>
      let x := s.fabApply r
      let v := x.2.1 + 2 ^ 256 * x.2.2.toNat
      let applied := w.applied.put r.seq v
      let w' := { w with
        next := (w.next + 1) % 2 ^ 32,
        applied := applied.filter (fun e => decide ((w.next + 2 ^ 32 - e.1) % 2 ^ 32 < 64)),
        heldReqs := w.heldReqs.filter fun q => q.seq != r.seq }
      fabDrain fuel w' (x.1.fabAck r v)

/-- FABRIC_REQUEST_ARRIVE (06 R182, R184; 10 R283): a request already in the window is only acknowledged, with the recorded
prior value. -/
def execFabricRequestArrive (r : FabReq) (s : State) : OutC :=
  if keyTier r.key ≥ 2 then .next s else
  let mine := fun (w : Window) => w.src == r.src && w.stream == r.stream
  let w := (s.windows.find? mine).getD { src := r.src, stream := r.stream, next := 0, applied := [], heldReqs := [] }
  match w.applied.find? r.seq with
  | some v => runEv s (s.fabAck r v)
  | none =>
    if (r.seq + 2 ^ 32 - w.next) % 2 ^ 32 ≥ 2 ^ 31 then runEv s (s.fabAck r 0)
    else
      let held := if w.heldReqs.any fun q => q.seq == r.seq then w.heldReqs else w.heldReqs ++ [r]
      let x := fabDrain held.length { w with heldReqs := held } s
      runEv s { x.2 with windows := (s.windows.filter fun v => !(mine v)) ++ [x.1] }

end Sys2Proof.Machine
end

