-- ==== Sys2Proof/Machine/Scheduler.lean ====
section
/-!
DEFINITION. The events of issue selection, re-gang points and the register cache (02 R34-R37, R52; 03 R73, R74), and those of the
schedulers: dispatch rounds, work graphs, grid completion, DLAUNCH's records and multi-chip starts (03 R66, R67, R79,
R82-R91).
-/
namespace Sys2Proof.Machine

/-! ### Re-gang points -/

/-- REGANG_CHECK (02 R34-R37, R41): the fragment's next bundle is a re-gang point, and has not issued; it merges, goes on alone or waits. An EXIT
bundle merges or goes on. -/
def execRegangCheck (gid fid : Nat) (s : State) : OutC :=
  match s.frag? gid fid with
  | none => runEv s s
  | some f =>
    if f.stat == .ready && !f.rgOk && !f.stopped && !((s.gang? gid).any fun g => g.trapWaits fid) && s.nextRg (.gang gid fid) &&
        (!f.pendSeq || s.nextExits (.gang gid fid)) then
      runEv s (s.heirs (s.updGang gid fun g => (g.applyRg fid (s.nextExits (.gang gid fid))).1))
    else runEv s s

/-- REGANG_RELEASE (02 R37): a waiting fragment is examined again. A step also examines every waiter of the gangs (State.settleRg). -/
def execRegangRelease (gid fid : Nat) (s : State) : OutC :=
  match s.frag? gid fid with
  | none => runEv s s
  | some f =>
    if f.stat == .rgWait && !((s.gang? gid).any fun g => g.trapping fid) then
      runEv s (s.heirs (s.updGang gid fun g => (g.applyRg fid false).1))
    else runEv s s

/-! ### Issue selection -/

/-- Is every held request of a PASID still within its time, with its chip out of reach (10 R284)? -/
def State.farWaiting (s : State) (pasid : Nat) : Bool :=
  let l := s.flights.filter fun e => (match e.2.instr with | .fabricHoldTimeout _ => true | _ => false) && e.2.sw.head? == some pasid
  !l.isEmpty && l.all fun e => e.2.sw.getD 2 0 == 0 && s.routeMask (e.2.sw.getD 1 0 % 2 ^ 10) == 0

/-- Is the wait of a blocked fragment over, so that it may issue its bundle again? Waits that events of their own end are not
listed (02 R35). -/
def State.blockOver (s : State) (gid fid : Nat) (g : Gang) (b : Block) : Bool :=
  let ag := Agent.gang gid fid
  let core := g.core
  let part := s.partOf ag
  match b with
  | .inflight => (List.range 7).all fun p => !(s.counterFull ag p)
  | .ats => !(s.hostOut.any fun m => m.kind == 1 && m.args.head? == some (s.pasidOf ag)) && !(s.farWaiting (s.pasidOf ag))
  | .hold fl =>
    match s.flights.find? fl with
    | none => true
    | some f =>
      let acc : Access := match f.sw.getD 1 0 with | 0 => .read | 1 => .write | 2 => .rmw | _ => .exec
      match s.trAg ag (f.sw.getD 0 0) acc with
      | .ok t => !t.hold
      | _ => true
  | .lxsub => (List.range 4).any fun e => !(s.cmdFull (4 * clusterOf core + e))
  | .rastq => decide ((s.rastOf (clusterOf core)).length < 64)
  | .dlaunch =>
    decide ((s.pending.filter fun p => p.core == core && !p.spilled).length < 4) ||
      decide ((s.pending.filter fun p => p.part == part && p.spilled).length < 4096)
  | .pri => (List.range 512).any fun i => (s.pri.find? i).isNone
  | .counter c k => decide (s.counter ag c ≤ k)
  | .drain fls => fls.all fun i => (s.flights.find? i).isNone
  | _ => false

/-- The V lines that an agent's next bundle reads or writes, by register and slice (02 R52). -/
def State.needsLines (s : State) (gid fid : Nat) (g : Gang) : List (Nat × Nat) :=
  match s.nextInstr (.gang gid fid), g.frags.find? fid with
  | some i, some f =>
    match opParts i with
    | some (_, o) =>
      let sh := shape false i
      (sh.a.regsOf o.a ++ sh.b.regsOf o.b ++ sh.c.regsOf o.c ++ sh.dst.regsOf o.dst).flatMap fun r =>
        match r with
        | .v n => (slicesOf g.width f.mask).map fun k => (n, k)
        | _ => []
    | none => []
  | _, _ => []

/-- Are a fragment's operand lines in the register cache? -/
def State.linesIn (s : State) (gid fid : Nat) (g : Gang) : Bool :=
  g.rcMissing.isEmpty || !((s.needsLines gid fid g).any fun x => g.rcMissing.contains x)

/-- May a gang go on issuing under its workgroup's halt (09 Table 9.4)? -/
def Gang.mayRun (g : Gang) (w : Wg) (cycle : Nat) : Bool :=
  match g.halt with
  | .running => !w.halted || decide (cycle ≤ w.haltAt + 64)
  | .received n => decide (n < 8)
  | .stopped => true

/-- Does a fragment act in its workgroup now? One that is being saved acts no more, but for an LXSUB whose packet its engine's full queue
has kept waiting: the save waits for the packet to be accepted (05 R139, 13 R397). -/
def Frag.acts (f : Frag) (w : Wg) : Bool :=
  w.acts || (match w.stat with | .swapping k => k != 3 && f.stat == .blocked .lxsub | _ => false)

/-- May a fragment issue its next bundle now (03 R73, R74)? -/
def State.mayIssue (s : State) (gid fid : Nat) (g : Gang) (f : Frag) : Bool :=
  match s.wgOf g with
  | none => false
  | some w =>
    f.acts w && g.mayRun w s.cycle && !f.stopped && decide (f.readyAt ≤ s.coreCycle g.core) &&
    (match f.stat with
      | .ready => true
      | .blocked b => s.blockOver gid fid g b
      | .rgWait => false) &&
    (g.asyncFor fid == 0 || f.pendSeq || f.skip ≠ 0) && s.linesIn gid fid g

/-- A fragment that may issue, with what the choice looks at. -/
structure Cand where
  gid : Nat
  fid : Nat
  prio : Nat
  run : Nat
  last : Nat
  placed : Nat
deriving DecidableEq, Repr

/-- The fragments of a datapath that may issue (03 R73). -/
def State.readyOn (s : State) (core dp : Nat) : List Cand :=
  (s.gangs.filter fun e => e.2.core == core && e.2.dp == dp).flatMap fun e =>
    (e.2.frags.filter fun (x : Nat × Frag) => s.mayIssue e.1 x.1 e.2 x.2).map fun x =>
      let w := s.wgOf e.2
      { gid := e.1, fid := x.1, prio := (w.map (·.prio)).getD 0, run := x.2.run, last := x.2.lastIssue,
        placed := (w.map (·.placedAt)).getD 0 }

/-- Has a candidate waited longer than another, ties going to the gang placed earlier? Where that does not part them, the lower gang number
goes first, and of two fragments of one gang the first in its table: the model's choice (log entry 50). -/
def Cand.before (a b : Cand) : Bool :=
  decide (a.last < b.last) || (a.last == b.last && (decide (a.placed < b.placed) || (a.placed == b.placed && decide (a.gid ≤ b.gid))))

/-- The candidate that has waited longest; of two that nothing parts the first in the list (log entry 50). -/
def longest : List Cand → Option Cand
  | [] => none
  | x :: t => match longest t with
    | none => some x
    | some y => if x.before y then some x else some y

/-- issue_select's choice (03 R73): the fragment and its run count. -/
def chooseCand (f0 : Option (Nat × Nat)) (ready : List Cand) : Option (Cand × Nat) :=
  let top := ready.foldl (fun m c => max m c.prio) 0
  let cand := ready.filter fun c => c.prio == top
  let mine := cand.find? fun c => f0 == some (c.gid, c.fid)
  match mine with
  | some c =>
    if c.run < 64 then some (c, c.run + 1)
    else
      match longest (cand.filter fun x => x != c) with
      | some x => some (x, 1)
      | none => some (c, c.run + 1)
  | none => (longest cand).map fun x => (x, 1)

/-- Is a datapath free to choose: its previous bundle has completed its last pass, and no bundle waits to issue? -/
def State.dpFree (s : State) (core dp : Nat) : Bool :=
  s.latch.isNone && (match s.dps.find? (4 * core + dp) with | some (_, _, t) => decide (t ≤ s.coreCycle core) | none => true)

/-- The fragment that issued last on a datapath. -/
def State.lastOn (s : State) (core dp : Nat) : Option (Nat × Nat) := (s.dps.find? (4 * core + dp)).map fun e => (e.1, e.2.1)

/-- ISSUE_SELECT (03 R73, R74): the datapath chooses a fragment, whose bundle the next step issues. -/
def execIssueSelect (core dp : Nat) (s : State) : OutC :=
  if core ≥ 256 ∨ dp ≥ 4 ∨ !(s.dpFree core dp) then runEv s s else
  match chooseCand (s.lastOn core dp) (s.readyOn core dp) with
  | none => runEv s s
  | some (c, run) =>
    let t := s.updFrag c.gid c.fid fun f => { f with run := run, stat := .ready }
    runEv s { t with latch := some (.gang c.gid c.fid), dps := t.dps.put (4 * core + dp) (c.gid, c.fid, s.coreCycle core + 1) }

/-- REGISTER_CACHE_FILL (02 R52): a line of a gang comes into the register cache. -/
def execRegisterCacheFill (gid reg slice : Nat) (s : State) : OutC :=
  runEv s (s.updGang gid fun g => { g with rcMissing := g.rcMissing.filter fun x => x != (reg, slice) })

/-! ### Work graphs -/

/-- NRALLOC_GRANT (03 R84, 14 R420): the first request in blocking order is served when it can be met whole. -/
def execNrallocGrant (graph : Nat) (s : State) : OutC :=
  match s.graphs.find? graph with
  | none => runEv s s
  | some gr =>
    match gr.blocked with
    | [] => runEv s s
    | (gid, fid) :: rest =>
      let gr' := { gr with blocked := rest }
      match s.nrallocOf gid fid, (s.gang? gid).bind s.graphOf with
      | some f, some (_, node) =>
        match s.grantFlight graph gr' f gid node with
        | some t => runEv s (t.unblock gid fid)
        | none => runEv s s
      | _, _ => runEv s { s with graphs := s.graphs.put graph gr' }

/-- BATCH_TIMEOUT (03 R85): an open batch without an append for its node's TIMEOUT closes. -/
def execBatchTimeout (graph node : Nat) (s : State) : OutC :=
  match s.graphs.find? graph with
  | none => runEv s s
  | some gr =>
    match gr.nodes[node]? with
    | none => runEv s s
    | some nd =>
      if nd.open_.isEmpty || decide (s.cycle < nd.lastAppend + nd.timeout) then runEv s s
      else
        let gr' := { gr with nodes := gr.nodes.set node { nd with open_ := [] } }
        devEv s (({ s with graphs := s.graphs.put graph gr' }).closeBatch graph node nd.open_)

/-! ### Completion -/

/-- A completion action's NMOP add (03 R66): dropped and recorded when it cannot be applied. -/
def State.nmAdd (s : State) (pasid part : Nat) (r : Launch) : DRes Unit :=
  let va := r.nmAddr
  let drop := fun (t : State) => DRes.ok () (t.devErr part va 35 r.tag noLinear)
  match s.translate devUnit pasid part va .rmw false with
  | .fault _ k => drop (s.devFail pasid k)
  | .ats p => .wait (some (pasid, p))
  | .ok t =>
    if t.isReg then drop s
    else match s.farGate devUnit pasid t.key with
    | some none => drop (s.dropFar pasid)
    | some (some p) => .wait (some (pasid, p))
    | none =>
    if t.hold || s.portHeld t.key s.cycle then .wait none
    else
      let u := s.noteUseEv devUnit pasid t
      let r' := u.spotUpdate (.mem t.key t.zb) 8 fun x => ((x + r.nmAddend) % 2 ^ 64, 0)
      if r'.2.2 then drop s else .ok () ((r'.1.sendDev t.key).countXfer t.key)

/-- A completion action, performed once (03 R66): the decrement, then the add. The counter is the one that the record names, whichever
partition's it is: neither R75 nor Table 3.5 says more of a record's DC_ID (log entry 75). -/
def State.complete (s : State) (pasid : Nat) (r : Launch) : DRes Unit :=
  let d := if r.cflags.testBit 0 then s.dcDecrement r.dcId 1 else .ok () s
  d.bind fun _ t => if r.cflags.testBit 1 then t.nmAdd pasid r.part r else .ok () t

/-- Has a grid ended: every workgroup placed, and every one of them over? -/
def Grid.isOver (g : Grid) : Bool := g.next == g.count && g.live == 0

/-- GRID_COMPLETION (03 R66, R87; 08 R239): the grid's last gang has exited. -/
def execGridCompletion (grid : Nat) (s : State) : OutC :=
  match s.grids.find? grid with
  | none => runEv s s
  | some g =>
    if !g.isOver then runEv s s else
    let t := ({ s with grids := s.grids.del grid, entries := s.entries.filter fun e => e.grid != grid } : State).mcOver g
    match g.kind with
    | .launch => if g.killed then runEv s t else devEv s (t.complete g.pasid g.lr)
    | .graphRoot k =>
      runEv s { t with graphs := t.graphs.upd (fun (x : Graph) =>
        { x with rootDone := true, lr := if g.killed then { x.lr with cflags := 0 } else x.lr }) k }
    | _ => runEv s t

/-- Is a graph drained (03 R87)? -/
def State.graphOver (s : State) (graph : Nat) (gr : Graph) : Bool :=
  gr.rootDone && gr.cask.isEmpty && gr.nodes.all (fun d => d.open_.isEmpty) &&
    !(s.grids.any fun e => match e.2.kind with | .node k _ => k == graph | _ => false)

/-- GRAPH_DRAIN (03 R87): the start record's completion action is performed. -/
def execGraphDrain (graph : Nat) (s : State) : OutC :=
  match s.graphs.find? graph with
  | none => runEv s s
  | some gr =>
    if !(s.graphOver graph gr) then runEv s s
    else devEv s (({ s with graphs := s.graphs.del graph }).complete gr.pasid gr.lr)

/-! ### Dispatch -/

/-- DISPATCH_ROUND (03 R67-R71): gangs whose raster entries pinned tiles no longer do once they are back (08 R236). -/
def execDispatchRound (part : Nat) (s : State) : OutC :=
  if part ≥ 8 then runEv s s else
  let t := s.dispatchRound part
  let back := s.wgs.filter fun e => !e.2.onChip && (t.wgs.find? e.1).any Wg.onChip
  let u := back.foldl (fun (u : State) e => u.refill e.1) t
  runEv s ((back.flatMap fun e => e.2.gangs).foldl State.faultPin u)

/-- DLAUNCH_RELEASE (03 R79): the oldest record of a core enters dispatch, or its rejection is recorded. -/
def execDlaunchRelease (core : Nat) (s : State) : OutC :=
  match s.pending.find? fun p => p.core == core with
  | none => runEv s s
  | some p =>
    if s.cycle < p.issued + 256 ∨ !(p.cons.all s.applied) then runEv s s
    else
      let t := { s with pending := s.pending.erase p }
      let r := s.pendingRecord p
      let x := r.1
      if r.2 then runEv s (t.devErr p.part 0 8 (x / 2 ^ 32 % 2 ^ 32) noLinear) else
      devEv s ((t.launchRecord (.device p.part p.base) p.pasid 0 x none).bind fun code u =>
        .ok () (if code = 0 then u else u.devErr p.part 0 code (x / 2 ^ 32 % 2 ^ 32) noLinear))

/-! ### Multi-chip starts -/

/-- A record's 64-bit words as one number. -/
def recordNat (l : List (BitVec 64)) : Nat := l.foldr (fun w a => w.toNat + 2 ^ 64 * a) 0

/-- MC_REPORT (03 R88, R91): a copy of a record reaches this chip, or a report reaches the origin. -/
def execMcReport (m : McMsg) (s : State) : OutC :=
  match m with
  | .copy origin gen part pasid record => devEv s (s.mcCopy origin gen part pasid (recordNat record))
  | .report gen fromChip code => devEv s (s.mcReportIn gen fromChip code)

/-- MC_START (03 R88-R90). -/
def execMcStart (origin gen : Nat) (s : State) : OutC := runEv s (s.mcBegin origin gen)

/-- MC_ABORT (03 R91): the origin gives the launch up. -/
def execMcAbort (origin gen : Nat) (s : State) : OutC :=
  if origin = s.chip then runEv s s else runEv s (s.dropMc origin gen)

/-- MC_TIMEOUT (03 R91): the start barrier of a launch of this chip has waited for MCTIMEOUT. -/
def execMcTimeout (gen : Nat) (s : State) : OutC :=
  match s.mc? s.chip gen with
  | none => runEv s s
  | some m =>
    let limit := (s.part m.part).mctimeout.toNat
    if limit = 0 ∨ m.full ∨ s.cycle < m.since + limit then runEv s s
    else devEv s (s.abortMc m 11)

end Sys2Proof.Machine
end

