-- ==== Sys2Proof/Machine/System.lean ====
section
/-!
DEFINITION. The events of power, the vertical bus, retired units, links, scrubbing and firmware (10 R280, R282-R293, R296).
-/
namespace Sys2Proof.Machine

/-! ### Power -/

/-- POWER_THROTTLE (10 R289): firmware sets a cluster's kiln budget and the core clock, in steps of 100 MHz between 1.0 and
2.0 GHz, and shows whether heat or power makes it throttle. -/
def execPowerThrottle (cluster budget mhz : Nat) (thermal active : Bool) (s : State) : OutC :=
  let t := s.kbudgetSet cluster (min budget 255)
  let clk := if mhz % 100 = 0 ∧ 1000 ≤ mhz ∧ mhz ≤ 2000 then BitVec.ofNat 32 mhz else t.dev.clkstep
  runEv s { t with dev := { t.dev with
    clkstep := clk, thermal := if thermal then active else t.dev.thermal,
    pwrcap := if thermal then t.dev.pwrcap else active } }

/-! ### Retired units -/

/-- Tiles spilled one after the other; one whose status cannot be reached yet is spilled by a notice, once it can be. -/
def spillPins : List Pin → State → State
  | [], s => s
  | q :: rest, s =>
    match s.spillPin q with
    | .ok _ t => spillPins rest t
    | .fault _ t => spillPins rest t
    | .wait w => spillPins rest ((s.askAts w).tileNotice q.pasid (.spill q.pass q.part q.tile))

/-- An L2 slice retired (10 R291, R293): its pinned tiles spill, its dirty lines are written to memory, and its lines are homed on
the next slice of its die. -/
def State.retireSlice (s : State) (k : Nat) : State :=
  if k ≥ 320 ∨ s.retiredSlices.has k then s else
  let t := spillPins (s.pins.filter fun q => (s.pinSlices q).contains k) s
  { t with
    retiredSlices := t.retiredSlices.ins k, slices := t.slices - 1,
    l2old := t.l2old.filter fun e => s.homeOf (e.1 / 128 * 128) != k,
    dev := { t.dev with replace := true } }

/-- A core retired (10 R292, R293): every workgroup on it stops, to be saved as SWAPO saves, where its partition has a shadow region, and to
enter dispatch again. -/
def State.retireCore (s : State) (k : Nat) : State :=
  if k ≥ 256 ∨ s.retiredCores.has k then s else
  let out := (s.wgs.filter fun e => e.2.onChip && e.2.cores.contains k && !(s.allExited e.2)).map (·.1)
  let t := out.foldl (fun (t : State) w => t.updWg w fun x =>
    match x.stat with
    | .swapping 2 => x
    | _ =>
      { x with stat := .swapping 1, emptied := if x.swapo then none else some [],
               swapo := x.swapo || (s.part x.part).shadow ≠ 0 }) s
  { t with
    retiredCores := t.retiredCores.ins k, cores := t.cores - 1,
    entries := t.entries.map fun e => if e.room.any (fun r => r.core == k) then { e with room := [] } else e,
    grids := t.grids.map fun e => (e.1, if e.2.reserve == some (clusterOf k) then { e.2 with reserve := none } else e.2),
    l1 := t.l1.filter fun l => l.core != k, icache := t.icache.filter fun l => l.core != k,
    dev := { t.dev with replace := true } }

/-- UNIT_RETIRE (10 R291-R293). -/
def execUnitRetire (isCore : Bool) (k : Nat) (s : State) : OutC :=
  runEv s (if isCore then s.retireCore k else s.retireSlice k)

/-! ### The vertical bus -/

/-- A bond region replaced. -/
def State.setRegion (s : State) (r : Nat) (x : Region) : State := { s with regions := Tab.set Region.reset s.regions r x }

/-- A repair of a region is needed (10 R286, R288): scheduled, or when no spare is left its slice retires. -/
def State.needRepair (s : State) (r : Nat) : State :=
  let x := s.region r
  if x.spares ≥ 8 then s.retireSlice (r / 10)
  else if x.scheduled then s
  else s.setRegion r { x with scheduled := true, since := s.cycle }

/-- CANARY_MEASURE (10 R286): the canary has drifted beyond 1.5 times its value at manufacture, or not. -/
def execCanaryMeasure (region : Nat) (drifted : Bool) (s : State) : OutC :=
  if drifted && decide (region < 3200) then runEv s (s.needRepair region) else runEv s s

/-- BUS_CRC_REPLAY (10 R285, R286): a transfer is replayed; errors that mark a signal bond as failing schedule a repair. -/
def execBusCrcReplay (region : Nat) (failing : Bool) (s : State) : OutC :=
  if region ≥ 3200 then runEv s s else
  let x := s.region region
  let n := Tab.get 0 s.xfers (region / 10)
  let t := s.setRegion region { x with fails := n :: x.fails.filter fun k => decide (n < k + 4096) }
  runEv s (if failing then t.needRepair region else t)

/-- Is a transfer through a slice's port in flight, of an operation issued before a cycle if one is given? Mash-array operations and tensor
movement make a stream of transfers, each of which is over in its step: one that is under way defers a retraining, whichever elements of a
tensor movement lie on the slice. What a CBWAIT or a PIXLK waits for, and a merge that its unit has not begun, are no transfers in flight. -/
def State.portBusy (s : State) (slice : Nat) (before : Option Nat) : Bool :=
  let here := fun (k : Nat) => decide (keyTier k < 2) && s.homeOf k == slice
  let polls := fun (i : Instr) => (match i with | .cbwait _ => true | .pixlk _ => true | _ => false : Bool)
  let begun := fun (op : HomeOp) => (match op with | .merge _ _ _ _ _ _ => false | _ => true : Bool)
  s.flights.any fun e => before.all (fun c => decide (e.2.born < c)) && !(polls e.2.instr) && e.2.accs.any fun a => !a.done && begun a.op &&
    ((match a.loc with | .mem k _ _ => here k | _ => false) ||
      before.isNone && (isTensor e.2.instr || (e.2.path == 4 && e.2.pages.any fun g => (List.range 32).any fun i => here (g.key + 128 * i))))

/-- A new repair record written by firmware, into the copy not in use (10 R286, R295). -/
def State.writeRecord (s : State) : State :=
  let n := ((bestRecord s.repair).map (·.seq)).getD 0
  let rec_ : RepairRec := { seq := n + 1, valid := true, spares := s.soft }
  { s with repair := match s.repair with
      | [a, b] => if (bestRecord [a, b]).any (fun r => r == a) then [a, rec_] else [rec_, b]
      | l => rec_ :: l.take 1 }

/-- A region's retraining ends (10 R286, R287): a scheduled repair takes effect on a free spare. -/
def State.endRetrain (s : State) (r : Nat) : State :=
  let x := s.region r
  let done := { x with retraining := false, pause := none, fails := [] }
  if x.scheduled && decide (x.spares < 8) then
    let t := s.setRegion r { done with spares := x.spares + 1, scheduled := false }
    let u := { t with soft := Tab.set 0 t.soft r (x.spares + 1),
                      dev := { t.dev with nospare := if x.spares + 1 = 8 then min (t.dev.nospare + 1) 255 else t.dev.nospare } }
    u.writeRecord
  else s.setRegion r done

/-- REGION_RETRAIN (10 R286, R287): a region that needs to retrain starts once no transfer through its port is in flight, or, after its
deferral, once those in flight then have completed; one that retrains is done. -/
def execRegionRetrain (region : Nat) (s : State) : OutC :=
  let x := s.region region
  if x.retraining then runEv s (s.endRetrain region)
  else if (x.scheduled || x.pause.isSome) && !(s.portBusy (region / 10) x.pause) then
    runEv s (s.setRegion region { x with retraining := true })
  else runEv s s

/-- RETRAIN_DEFERRAL_EXPIRE (10 R287): after 128,000 cycles of deferral, transfers issued from now on wait. -/
def execRetrainDeferralExpire (region : Nat) (s : State) : OutC :=
  let x := s.region region
  if x.scheduled && !x.retraining && x.pause.isNone && decide (s.cycle ≥ x.since + 128000) then
    runEv s (s.setRegion region { x with pause := some s.cycle })
  else runEv s s

/-- The transfers through a region, among the last 4,096, that failed their CRC. -/
def State.recentFails (s : State) (region : Nat) : Nat :=
  ((s.region region).fails.filter fun k => decide (Tab.get 0 s.xfers (region / 10) < k + 4096)).length

/-- CRC_BURST_RETRAIN (10 R287): more than 16 of 4,096 consecutive transfers failed their CRC; retraining starts with the same pause and
no deferral. -/
def execCrcBurstRetrain (region : Nat) (s : State) : OutC :=
  let x := s.region region
  if s.recentFails region > 16 ∧ !x.retraining ∧ x.pause.isNone then
    runEv s (s.setRegion region { x with pause := some s.cycle })
  else runEv s s

/-! ### Links -/

/-- FABRIC_LINK_RETRAIN (10 R284): an active link retrains; one that retrains is active again. -/
def execFabricLinkRetrain (link : Nat) (s : State) : OutC :=
  match s.links[link]? with
  | some 0 => runEv s { s with links := s.links.set link 1 }
  | some 1 => runEv s { s with links := s.links.set link 0 }
  | _ => runEv s s

/-- The message of a request sent again: the peer, and its three identifiers. -/
def msgResend : Nat := 10

/-- FABRIC_LINK_FAIL (10 R283, R284; 06 R184): a link that is not active after retraining is removed from every route mask; its streams
move to another link of their route, and their unacknowledged requests are sent again in sequence order with their identifiers. How many
of a stream's oldest requests had been acknowledged is free: a home acknowledges in sequence order. -/
def execFabricLinkFail (link : Nat) (s : State) : OutC :=
  if s.links[link]? != some 1 then runEv s s else
  let t := { s with links := s.links.set link 2, dev := { s.dev with fabdeg := true },
                    routes := s.routes.map fun w => w &&& ~~~(1#64 <<< link) }
  let moved := fun (x : Stream) => x.link == link && t.routeMask x.peer ≠ 0
  let rest := fun (x : Stream) => x.unacked.drop (Config.freeNat s.fresh (2 ^ 48 + x.num) % (x.unacked.length + 1))
  let u := (t.streams.filter moved).foldl (fun (u : State) x =>
    (rest x).foldl (fun (v : State) n => v.fabSend msgResend [x.peer, s.chip, x.num, n.1]) u) t
  let go := fun (x : Stream) => if moved x then { x with link := lowLink (t.routeMask x.peer), unacked := rest x } else x
  runEv s { u with streams := u.streams.map go }

/-- FABRIC_FLIT_REPLAY (10 R282): a flit with a CRC error is sent again on its link. -/
def execFabricFlitReplay (_link : Nat) (s : State) : OutC := runEv s s

/-- A CXL port's link goes down or comes up (10 R280). -/
def State.cxlSet (s : State) (port : Nat) (up : Bool) : State :=
  let l := s.cxl.set port up
  { s with cxl := l, dev := { s.dev with cxldeg := l.any fun x => !x } }

/-- CXL_LINK_DOWN (10 R280): accesses to the port's range complete with POISON. -/
def execCxlLinkDown (port : Nat) (s : State) : OutC := runEv s (s.cxlSet port false)

/-- CXL_LINK_UP (10 R280). -/
def execCxlLinkUp (port : Nat) (s : State) : OutC := runEv s (s.cxlSet port true)

/-! ### Errors -/

/-- A corrected error counted (10 R290). -/
def State.corrected (s : State) : State := { s with dev := { s.dev with corr := (s.dev.corr + 1) % 2 ^ 16 } }

/-- The sector that stands for a gang's register line: V register `n` of slice `k` (10 R290, log entry 10). -/
def regSector (gid n k : Nat) : Nat := 13 * 2 ^ 55 + gid * 2 ^ 15 + 128 * n + k

/-- The sector that stands for one of a gang's in the accumulator store and the mash planes (10 R290, log entry 10): sector `i` of its tiles
by `Gang.abad`'s numbers, 8,192 + `i` of its active plane, 8,704 + `i` of its shadow plane. -/
def engSector (gid i : Nat) : Nat := 12 * 2 ^ 55 + gid * 2 ^ 15 + i

/-- Data of a sector of a gang's tiles or planes lost. -/
def Gang.poisonEngine (g : Gang) (i : Nat) : Gang :=
  if i < 8192 then { g with abad := NSet.ins g.abad i }
  else if i < 8704 then
    if 32 * (i - 8192) < g.active.data.length then { g with active := { g.active with bad := NSet.ins g.active.bad (i - 8192) } } else g
  else if 32 * (i - 8704) < g.shadow.data.length then { g with shadow := { g.shadow with bad := NSet.ins g.shadow.bad (i - 8704) } }
  else g

/-- Data of a 32-byte sector lost: of memory, of scratchpad, of tiles and planes, or a register line. -/
def State.poisonSector (s : State) (sector : Nat) : State :=
  if sector / 2 ^ 55 = 13 then
    s.updGang (sector % 2 ^ 55 / 2 ^ 15) fun g =>
      { g with vbad := (List.range 8).foldl (fun b l => NSet.ins b (vKey (sector / 128 % 256) (8 * (sector % 128) + l))) g.vbad }
  else if sector / 2 ^ 55 = 12 then s.updGang (sector % 2 ^ 55 / 2 ^ 15) fun g => g.poisonEngine (sector % 2 ^ 15)
  else { s with poison := NSet.ins s.poison sector }

/-- PATROL_SCRUB (10 R290): an error found in a 32-byte sector (log entry 10) is corrected and counted, or the sector is poisoned. -/
def execPatrolScrub (sector : Nat) (bad : Bool) (s : State) : OutC := runEv s (if bad then s.poisonSector sector else s.corrected)

/-- GDDR_CXL_CRC_RETRY (10 R290): a transfer is retried, and the corrected error counted. -/
def execGddrCxlCrcRetry (_sector : Nat) (s : State) : OutC := runEv s s.corrected

/-- FIRMWARE_MAILBOX_ACCESS (10 R296): a new image, which takes effect at the next cold reset. -/
def execFirmwareMailboxAccess (image : List Byte) (s : State) : OutC := runEv s { s with flashNew := some image }

end Sys2Proof.Machine
end

