-- ==== Sys2Proof/Machine/Policy.lean ====
section
/-!
DEFINITION. The default policy (log entry 4): when no event is on the agenda, the events that the device may take of its own
accord are taken in turn, and a local cycle passes when each has had its turn. The policy is one schedule among those that the
spec allows; an agenda gives any other.
-/
namespace Sys2Proof.Machine

/-- The event that a blocked or waiting fragment may take. -/
def fragEvents (gid fid : Nat) (f : Frag) (w : Option Wg) : List Instr :=
  match f.stat with
  | .rgWait => [.regangRelease gid fid]
  | .blocked b =>
    match b with
    | .cohort c _ => (w.map fun x => [Instr.cohortPhaseComplete x.grid c]).getD []
    | .mwait _ _ => [.monitorFire (.gang gid fid) false, .mwaitTimeout (.gang gid fid)]
    | .sleep _ => [.sleepExpire gid fid]
    | .queue => [.queueUnblock gid fid]
    | .cbwait _ => [.cbwaitRelease gid fid]
    | .pixlk => [.pixlkRelease gid fid]
    | _ => []
  | _ => []

/-- The events of a gang. -/
def State.gangEvents (s : State) (gid : Nat) (g : Gang) : List Instr :=
  let w := s.wgOf g
  (if g.asyncs.isEmpty then [] else
    (.asyncCauseTake gid 0 : Instr) :: g.frags.map fun e => .asyncCauseTake gid e.1) ++
  (if w.any (·.halted) then [.haltReach gid true, .handlerEnter gid] else []) ++
  (g.frags.flatMap fun e => fragEvents gid e.1 e.2 w) ++
  (match g.rcMissing with | (r, k) :: _ => [.registerCacheFill gid r k] | [] => [])

/-- The events of an operation in flight: its next access, or its completion. -/
def State.flightEvents (s : State) (f : Flight) : List Instr :=
  if isMtag f.instr then [.mtagRetire f.id] else
  match f.instr with
  | .migrationHoldExpire _ => [.migrationHoldExpire f.id]
  | .fabricHoldTimeout _ => [.fabricHoldTimeout f.id]
  | _ =>
  match f.accs.zipIdx.find? fun (e : Acc × Nat) => !e.1.done with
  | some (a, k) => .homeApply f.id k false ::
      (if s.unreachable a || f.path == 4 then [.fabricHoldTimeout f.id] else []) ++ (if a.waitSince ≠ 0 then [.migrationHoldExpire f.id] else [])
  | none => [.inFlightCompletion f.id, .homeApply f.id 0 false]

/-- The events of a workgroup that leaves its cores or waits to return. -/
def wgEvents (wid : Nat) (w : Wg) (kh : KHdr) : List Instr :=
  match w.stat with
  | .resident => if kh.swapwait = 0 then [] else [.waitSwapOut wid]
  | .preempting => [.preemptTakeEffect wid]
  | .swapping 1 => [.preemptTakeEffect wid]
  | .swapping _ => [.waitSwapOut wid]
  | .away _ => [.wakeCondition wid]
  | .parked => []

/-- The packets that an enabled queue's next packet may be. -/
def queueEvents (q : Nat) : List Instr :=
  [.packetLaunch q, .packetLauter q, .packetDcopSet q, .packetDcopDecrement q, .packetCbopInitialise q, .packetCbopArrive q,
   .packetNop q]

/-- The events of a context. -/
def ctxEvents (n : Nat) (c : Ctx) : List Instr :=
  match c.stat with
  | .waiting _ _ _ => [.monitorFire (.ctx n) false, .mwaitTimeout (.ctx n)]
  | .completing => [.lauterCompletion n]
  | _ => []

/-- The events of the schedulers. -/
def State.schedEvents (s : State) : List Instr :=
  (s.wgs.flatMap fun e => wgEvents e.1 e.2 (s.khWg e.2)) ++
  (s.grids.filterMap fun e => if e.2.isOver then some (.gridCompletion e.1) else none) ++
  (s.grids.flatMap fun e => if e.2.mc.isSome then (List.range e.2.cohortN).map fun c => .cohortPhaseComplete e.1 c else []) ++
  (if s.cycle % 4 = 0 then (s.entries.map fun (e : Entry) => e.part).eraseDups.map fun p => .dispatchRound p else []) ++
  ((s.pending.map fun (p : Pending) => p.core).eraseDups.map fun c => .dlaunchRelease c) ++
  (s.graphs.flatMap fun e => (.graphDrain e.1 : Instr) :: .nrallocGrant e.1 ::
    ((List.range e.2.nodes.length).map fun j => .batchTimeout e.1 j)) ++
  ((s.mcs.filter fun m => m.origin == s.chip).flatMap fun m =>
    if m.full then [.mcStart m.origin m.gen] else [.mcTimeout m.gen])

/-- The events of the front end and the engines. -/
def State.engineEvents (s : State) : List Instr :=
  (s.queues.flatMap fun e => if e.2.on then queueEvents e.1 else []) ++
  (s.cbops.map fun e => .cbopFailureReport e.1) ++
  (s.kilns.flatMap fun e => (.kilnGrant e.1 : Instr) :: e.2.1.map fun r => .kilnPeriodExpire e.1 r.who false) ++
  (s.latches.flatMap fun e => [.jointStart e.1, .jointAbort e.1]) ++
  (s.cmdqs.map fun e => .lauterContextStart e.1) ++ (s.ctxs.flatMap fun e => ctxEvents e.1 e.2) ++
  ((s.lfHeld.map fun (r : LfRec) => r.part).eraseDups.map fun p => .lauterFaultRecordWrite p) ++
  (s.rast.flatMap fun e => [.rasterRequest e.1, .rflushProcess e.1]) ++ (s.seals.map fun e => .tileSeal e.1) ++
  (s.scans.map fun e => .classifyScan e.1) ++ (s.bins.map fun b => .binTimeout b.cluster b.pass b.bin) ++
  (s.rays.map fun e => .rayDelivery e.1) ++
  ((List.range s.passes.length).flatMap fun k => [.passClose k, .passDone k]) ++
  ((s.pinWait.flatMap fun w => s.pinOver w.pin).eraseDups.map fun k => .pinSpillTimeout k) ++
  (s.regions.flatMap fun e => (if e.2.scheduled || e.2.retraining || e.2.pause.isSome then [.regionRetrain e.1, .retrainDeferralExpire e.1] else []) ++
    [.crcBurstRetrain e.1]) ++
  (s.atsInv.map fun e => .atsInvalidate e.1 e.2.1) ++ (s.queues.filterMap fun e => e.2.enabling.map fun v => .queueEnable e.1 v)

/-- The datapaths and engines with an agent that may issue: one bundle each in a cycle (03 R73, 07 R206). -/
def State.issueEvents (s : State) : List Instr :=
  ((s.gangs.flatMap fun e => e.2.frags.filterMap fun (f : Nat × Frag) =>
    match f.2.stat with
    | .ready => some (Instr.issueSelect e.2.core e.2.dp)
    | .blocked b => (match b with
      | .cohort _ _ => none | .mwait _ _ => none | .sleep _ => none | .queue => none | .cbwait _ => none | .pixlk => none
      | _ => some (Instr.issueSelect e.2.core e.2.dp))
    | .rgWait => none).eraseDups) ++
  ((s.ctxs.filterMap fun e => if e.2.stat == .running then some (Instr.lauterIssue (e.1 / 16)) else none).eraseDups)

/-- The events that the policy looks at in a state, the last first: the oldest operation in flight comes before newer ones. -/
def State.candidates (s : State) : List Instr :=
  s.engineEvents ++ s.schedEvents ++ s.issueEvents ++ (s.gangs.flatMap fun e => s.gangEvents e.1 e.2) ++
    (s.flights.reverse.flatMap fun e => (s.flightEvents e.2).reverse)

/-- The policy's choice, and the state in which it is taken: the candidates in turn, then a new cycle. -/
def State.choice (s : State) : Instr × State :=
  let l := s.candidates
  let k := min s.round l.length
  if k = 0 then (l.getD (l.length - 1) (.issueSelect 0 0), { s.passCycles 1 with round := l.length - 1 })
  else (l.getD (k - 1) (.issueSelect 0 0), { s with fresh := s.fresh + 1, round := k - 1 })

/-- A fragment that passed its re-gang point alone issues next; a merged one is chosen again (02 R36, R37). -/
def State.afterRegang (s : State) (gid fid : Nat) : State :=
  if (s.frag? gid fid).any fun f => f.rgOk && f.stat == .ready then { s with latch := some (.gang gid fid) } else s

end Sys2Proof.Machine
end

