-- ==== Sys2Proof/Machine/Seat.lean ====
section
/-!
DEFINITION. A bundle placed where the next step fetches (log entry 1): at the program counter of the agent chosen to issue, or else
in a small launched kernel of the model's own, as a launch from outside would leave it.
-/
namespace Sys2Proof.Machine

/-- An event taken from the agenda: its cycles pass first (log entry 4). -/
def State.takeAgenda (s : State) (e : Sched) (rest : List Sched) : State :=
  { s with agenda := rest }.passCycles e.wait

/-- A chosen agent's turn begins. -/
def State.turn (s : State) : State := { s with latch := none, fresh := s.fresh + 1 }

/-- Bytes stored in memory outside any event. -/
def storeBytes (m : List Host.Cell) (k : Nat) : List Byte → List Host.Cell
  | [] => m
  | b :: t => storeBytes (Tab.set 0 m k b) (k + 1) t

/-- A 64-bit word stored in memory. -/
def store64 (m : List Host.Cell) (k x : Nat) : List Host.Cell := storeBytes m k (toBytes 8 x)

/-- Where the placed kernel's structures stand in tier 0: the PASID table, the tables of levels 4 to 0, the code page. -/
def seatPasid : Nat := 0x100000
def seatTable : Nat := 0x200000
def seatCode : Nat := 0x300000

/-- The header of the placed kernel, which declares all that a header may (11 Table 11.12). -/
def seatKhdr : KHdr :=
  { base := 0, hflags := 0, entry := 256, vregs := 256, sregs := 64, barriers := 16, scratch := 196608, splitd := 64,
    calld := 32, width := 32, trapoff := 0, swapwait := 0, fmt := 0, bufoff := 0, bufcnt := 0 }

/-- The launch record of the placed kernel. -/
def seatLaunch : Launch :=
  { addr := 0, tag := 0, khdr := 0, gx := 1, gy := 1, gz := 1, gangs := 1, width := 32, prio := 0, lflags := 0, part := 0,
    dcId := 0, cflags := 0, arg := 0, cohort := 0, nmAddr := 0, nmAddend := 0, chipset := 0, gen := 0, graph := 0 }

/-- The grid of the placed kernel. -/
def seatGrid : Grid :=
  { lr := seatLaunch, kh := seatKhdr, kind := .launch, pasid := 0, base := 0, first := 0, count := 1, next := 1, live := 1,
    killed := false, members := [], cohortN := 0, cohorts := [], lanes := 0, entries := [], reserve := none, dead := [], mc := none }

/-- The workgroup of the placed kernel. -/
def seatWg (grid gid placed : Nat) : Wg :=
  { grid := grid, linear := 0, gangs := [gid], stat := .resident, halted := false, haltAt := 0, prio := 0, part := 0,
    cores := [0], fused := false, scr := [], bars := List.replicate 16 Barrier.zero, image := 0, imageLen := 0,
    placedAt := placed, forEntry := none, wakes := [], woken := false, swapo := false, dblFault := false,
    emptied := none, bufs := [] }

/-- The memory of the placed kernel: a PASID table entry, one table for each level, and the bundle behind the header. -/
def seatMem (m : List Host.Cell) (w : Nat) : List Host.Cell :=
  let m := store64 m seatPasid (1 + seatTable)
  let m := (List.range 4).foldl (fun m i => store64 m (seatTable + 4096 * i) (1 + 7 * 2 ^ 9 + (seatTable + 4096 * (i + 1)))) m
  let m := store64 m (seatTable + 4096 * 4) (0x18F + seatCode)
  storeBytes m (seatCode + 256) (toBytes 16 w)

/-- Is a bundle one that only a Lauter engine runs? -/
def ctxOnly (w : Nat) : Bool := decide (0xA0 ≤ opcOf w) && decide (opcOf w ≤ 0xA3)

/-- The placed kernel, its only fragment (or a Lauter context) chosen to issue next. -/
def State.seat (s : State) (w : Nat) : State :=
  let t := { s with mem := seatMem s.mem w, dev := { s.dev with pasidtab := BitVec.ofNat 64 seatPasid } }
  if ctxOnly w then
    { t.updCtx 0 (fun _ => { Ctx.free with stat := .running, pc := 256, readyAt := s.cycle }) with latch := some (.ctx 0) }
  else
    let n := s.nextId
    { t with
      nextId := n + 4,
      grids := t.grids.put n seatGrid, wgs := t.wgs.put (n + 1) (seatWg n (n + 2) n),
      gangs := t.gangs.put (n + 2) (startGang seatGrid (n + 1) 0 0 0 0 0 (n + 3) (s.coreCycle 0) (fun _ => 0) 0),
      latch := some (.gang (n + 2) (n + 3)) }

/-- The bundle of bits `w` stored where the next step fetches. -/
def State.placeWord (s : State) (_nbits w : Nat) : State :=
  match s.latch with
  | none => s.seat w
  | some ag =>
    match s.turn.trAg ag (s.pcOf ag) .exec with
    | .ok t => { s with mem := storeBytes s.mem t.key (toBytes 16 w), icache := s.icache.filter fun l => l.key != t.key }
    | _ => s.seat w

end Sys2Proof.Machine
end

