-- ==== Sys2Proof/Machine/Sequencing.lean ====
section
/-!
DEFINITION. The sequencing forms (11 R299-R302; 12 R339-R341, R362, R363; 13 R386, R387, R394; 14 R437).
-/
namespace Sys2Proof.Machine

/-- The value of a register as BRU, BRL and LOOP read it (11 R299): the bundle's own results are in; a latency standing
before the bundle may still show the old value, unless the bundle wrote the register. -/
def seqVal (s : State) (is : Issue) (r : RegId) (key cur : Nat) : Nat :=
  if (s.hazOf is.ag).any fun h => h.reg == r && !(is.haz.contains h) then cur
  else s.seqRead is.ag is.cyc is.haz r key 11 cur

/-- The displacement target (11 R301). -/
def Issue.target (is : Issue) : Nat := wrapInt ((is.pc : Int) + 16 * sextNat is.ctl.ntgt.toNat 16) 57

/-- The next bundle (11 R302): past the last address of a space its fetch raises PROT (09 R258). -/
def Issue.next (is : Issue) : Nat := is.pc + 16

/-- The issuing agent goes on at an address once the bundle's stall has passed (11 R300). -/
def State.goOn (s : State) (is : Issue) (pc : Nat) : State :=
  let ready := is.lastPass + 1 + is.ctl.stall.toNat
  let t : State := { s with issue := none }
  match is.ag with
  | .gang gid fid =>
    t.updFrag gid fid fun f =>
      { f with pc := pc, readyAt := ready, lastIssue := is.cyc, pendSeq := false, skip := 0, rgOk := false,
               jt := none, run := if is.ctl.yld then 64 else f.run }
  | .ctx n => t.updCtx n fun c => { c with pc := pc, readyAt := ready, seqOnly := false, jt := none }

/-- A trap-after cause is taken once the sequencing is done (09 R249): a context's record names the bundle. -/
def State.seqTrap (s : State) (is : Issue) (ag : Agent) : State :=
  if is.after = 0 then s else
  match ag with
  | .gang _ _ => s.takeCause ag .after { causes := is.after }
  | .ctx n => { s with issue := none }.parkCtx n is.after is.pc 0 0xFFFFFFFF false

/-- A form that goes on at one address. -/
def State.seqTo (s : State) (is : Issue) (pc : Nat) : State := (s.goOn is pc).seqTrap is is.ag

/-- A sequencing fault (09 Table 9.2): the operation word stands, the sequencing does not. -/
def State.seqFault (s : State) (is : Issue) (cause : Nat) : State :=
  s.takeCause is.ag .seqFault { causes := cause ||| is.after }

/-- The frame of a sequencing form's meaning: it acts for the agent that issues. -/
def seqOp (s : State) (body : Issue → State) : Host.Outcome State Fault Refusal :=
  match s.issue with
  | none => .fault .noAgent
  | some is => runOp s (body is)

/-- SEQ (11 R302). -/
def execSeqF (_c : Ctl) (s : State) : OutC := seqOp s fun is => s.seqTo is is.next

/-- JMP (13 R387). -/
def execJmp (_c : Ctl) (s : State) : OutC := seqOp s fun is => s.seqTo is is.target

/-- BRU (12 R340). -/
def execBru (c : Ctl) (s : State) : OutC :=
  seqOp s fun is =>
    let n := c.npred.toNat
    let v := seqVal s is (.k n) 0 (if s.rdK is.ag n then 1 else 0) = 1
    s.seqTo is (if v != c.nneg then is.target else is.next)

/-- The lanes that a BRL takes (02 R31). -/
def brlTaken (c : Ctl) (s : State) (is : Issue) (g : Gang) : LaneMask :=
  let n := c.npred.toNat
  maskOf ((lanesOf g.width is.mask).filter fun l =>
    let v := n = 0 ∨ seqVal s is (.p n) l (if (g.rdP n).getLsbD l then 1 else 0) = 1
    (decide v) != c.nneg)

/-- BRL's effect (12 R339, 02 R31, R32, R44). After a split, a trap-after cause is taken by either child. -/
def brlEffect (c : Ctl) (s : State) (is : Issue) : State :=
  match is.ag with
  | .ctx _ => s.seqTo is (if c.nneg then is.next else is.target)
  | .gang gid fid =>
    match s.gang? gid, s.frag? gid fid with
    | some g, some f =>
      let taken := brlTaken c s is g
      let act := is.mask
      if taken &&& act = act then s.seqTo is is.target
      else if taken &&& act = 0 then s.seqTo is is.next
      else if f.sdepth + 1 > (s.khOf g).splitd then s.seqFault is cSPLITDEPTH
      else
        let t := s.goOn is is.pc
        let kid := if s.pick (2 ^ 48) then t.nextId else t.nextId + 1
        (t.splitFrag gid fid taken is.target is.next).seqTrap is (.gang gid kid)
    | _, _ => s

/-- BRL (12 R339). -/
def execBrl (c : Ctl) (s : State) : OutC := seqOp s (brlEffect c s)

/-- The call depth that a gang's fragment may reach: 4 in handler mode (09 R255). -/
def State.callLimit (s : State) (g : Gang) : Nat := if g.mode = .user then (s.khOf g).calld else 4

/-- CALL's effect (12 R341, 11 R302). -/
def callEffect (s : State) (is : Issue) : State :=
  match is.ag with
  | .ctx n =>
    let c := s.ctx n
    if c.frames.length + 1 > 8 then s.seqFault is cCALLDEPTH
    else (s.updCtx n fun k => { k with frames := is.next :: k.frames }).seqTo is is.target
  | .gang gid fid =>
    match s.gang? gid, s.frag? gid fid with
    | some g, some f =>
      if f.frames.length + 1 > s.callLimit g then s.seqFault is cCALLDEPTH
      else (s.updFrag gid fid fun x => { x with frames := { ret := is.next, owner := fid } :: x.frames }).seqTo is is.target
    | _, _ => s

/-- CALL (12 R341). -/
def execCallF (_c : Ctl) (s : State) : OutC := seqOp s (callEffect s)

/-- RET's effect (14 R437, 02 R42, R43). -/
def retEffect (s : State) (is : Issue) : State :=
  match is.ag with
  | .ctx n =>
    match (s.ctx n).frames with
    | [] => s.takeCause is.ag .seqFault { causes := cILLOP ||| is.after }
    | a :: rest => (s.updCtx n fun k => { k with frames := rest }).seqTo is a
  | .gang gid fid =>
    match s.gang? gid, s.frag? gid fid with
    | some g, some f =>
      match f.frames with
      | [] => s.takeCause is.ag .seqFault { causes := cILLOP ||| is.after }
      | a :: rest =>
        let t := s.updFrag gid fid fun x => { x with frames := rest }
        let out := !(g.slot.any fun x => x.fid == fid) &&
          (match f.parent.bind fun r => g.recs.find? r with
            | some r => decide (rest.length < r.frames.length)
            | none => false)
        (if out then t.updGang gid fun x => x.detach fid else t).seqTo is a.ret
    | _, _ => s

/-- RET (14 R437). -/
def execRetF (_c : Ctl) (s : State) : OutC := seqOp s (retEffect s)

/-- LOOP (13 R394). -/
def execLoopF (c : Ctl) (s : State) : OutC :=
  seqOp s fun is =>
    let n := c.npred.toNat
    let v := seqVal s is (.lc n) 0 (s.rdLc is.ag n).toNat
    let x := BitVec.ofNat 32 (v + (2 ^ 32 - 1))
    (s.wrLc is.ag n x).seqTo is (if x ≠ 0 then is.target else is.next)

/-- JIND (13 R386): the target was read before the operation word; one performed alone is checked here. -/
def execJind (_c : Ctl) (s : State) : OutC :=
  seqOp s fun is =>
    match jindTrap is with
    | some ti => s.takeCause is.ag .seqFault { ti with causes := ti.causes ||| is.after }
    | none => s.seqTo is is.jt

/-- The cask slots that a gang's exit returns (03 R83, Table 3.8; 12 R363): those it holds and those it runs on. -/
def State.exitCask (s : State) (gid : Nat) : State :=
  { s with graphs := s.graphs.map fun e =>
      (e.1, { e.2 with cask := e.2.cask.filter fun c =>
        match c.2 with
        | .held g _ => g != gid
        | .running g _ _ => g != gid
        | .committed _ => true }) }

/-- The raster references that a fragment's exit releases (08 R240), after the fragment's accesses. -/
def State.exitRefs (s : State) (gid fid : Nat) (lanes : LaneMask) : State :=
  match s.gang? gid with
  | none => s
  | some g =>
    let pass := (s.binPass g).getD 0
    let earlier := s.allEarlier (.gang gid fid)
    let t := (g.endedEntries lanes).foldl (fun (t : State) tile =>
      let id := t.nextId
      let u := t.devFlight (.gang gid fid) .dev (.refsDec pass (s.partOf (.gang gid 0)) tile)
      { u with flights := u.flights.upd (fun (f : Flight) => { f with after := earlier }) id }) s
    t.updGang gid fun g => g.dropEntries lanes

/-- The exit of a fragment's lanes (12 R363). -/
def State.exitLanes (s : State) (gid fid : Nat) : State :=
  match s.gang? gid, s.frag? gid fid with
  | some g, some f =>
    let last := g.frags.length == 1
    let t := s.exitRefs gid fid f.mask
    let t := if last then t.exitCask gid else t
    let t := t.updGang gid fun x => x.dropFrag fid
    let t := if last then t.updGang gid fun x => { x with q := x.q.map fun y => { y with words := [] } } else t
    (t.checkBars g.wid).reap gid
  | _, _ => s

/-- EXIT's effect (12 R362, R363; 07 R210): a trap-after cause comes before the exit. -/
def exitEffect (s : State) (is : Issue) : State :=
  if is.after ≠ 0 then s.takeCause is.ag .exitAfter { causes := is.after }
  else
    match is.ag with
    | .ctx n => { s with issue := none }.updCtx n fun c => { c with stat := .completing, seqOnly := false }
    | .gang gid fid => { s with issue := none }.exitLanes gid fid

/-- EXIT (12 R362, R363). -/
def execExitF (_c : Ctl) (s : State) : OutC := seqOp s (exitEffect s)

end Sys2Proof.Machine
end

