-- ==== Sys2Proof/Machine/Dispatch.lean ====
section
/-!
DEFINITION. One arm per instruction of the table: the dispatch of every bundle part and event to its meaning.
-/
namespace Sys2Proof.Machine

/-- The meaning of an instruction at a state. -/
def exec (i : Instr) (s : State) : Host.Outcome State Fault Refusal :=
  match i with
  | .nop o => Sys2Proof.Machine.execNop o s
  | .srd o => Sys2Proof.Machine.execSrd o s
  | .swr o => Sys2Proof.Machine.execSwr o s
  | .trap o => Sys2Proof.Machine.execTrap o s
  | .hret o => Sys2Proof.Machine.execHret o s
  | .cclr o => Sys2Proof.Machine.execCclr o s
  | .bar o => Sys2Proof.Machine.execBar o s
  | .bara o => Sys2Proof.Machine.execBara o s
  | .barw o => Sys2Proof.Machine.execBarw o s
  | .waitc o => Sys2Proof.Machine.execWaitc o s
  | .fence o => Sys2Proof.Machine.execFence o s
  | .fencex o => Sys2Proof.Machine.execFencex o s
  | .mon o => Sys2Proof.Machine.execMon o s
  | .mwait o => Sys2Proof.Machine.execMwait o s
  | .sleep o => Sys2Proof.Machine.execSleep o s
  | .bkpt o => Sys2Proof.Machine.execBkpt o s
  | .iadd o => Sys2Proof.Machine.execIadd o s
  | .isub o => Sys2Proof.Machine.execIsub o s
  | .imul o => Sys2Proof.Machine.execImul o s
  | .imulh o => Sys2Proof.Machine.execImulh o s
  | .imad o => Sys2Proof.Machine.execImad o s
  | .imin o => Sys2Proof.Machine.execImin o s
  | .imax o => Sys2Proof.Machine.execImax o s
  | .iabs o => Sys2Proof.Machine.execIabs o s
  | .lea o => Sys2Proof.Machine.execLea o s
  | .icmp o => Sys2Proof.Machine.execIcmp o s
  | .sel o => Sys2Proof.Machine.execSel o s
  | .mov o => Sys2Proof.Machine.execMov o s
  | .idiv o => Sys2Proof.Machine.execIdiv o s
  | .andB o => Sys2Proof.Machine.execAndB o s
  | .orB o => Sys2Proof.Machine.execOrB o s
  | .xorB o => Sys2Proof.Machine.execXorB o s
  | .notB o => Sys2Proof.Machine.execNotB o s
  | .logt o => Sys2Proof.Machine.execLogt o s
  | .shl o => Sys2Proof.Machine.execShl o s
  | .shr o => Sys2Proof.Machine.execShr o s
  | .sar o => Sys2Proof.Machine.execSar o s
  | .fshf o => Sys2Proof.Machine.execFshf o s
  | .bfe o => Sys2Proof.Machine.execBfe o s
  | .bfi o => Sys2Proof.Machine.execBfi o s
  | .popc o => Sys2Proof.Machine.execPopc o s
  | .clz o => Sys2Proof.Machine.execClz o s
  | .brev o => Sys2Proof.Machine.execBrev o s
  | .bperm o => Sys2Proof.Machine.execBperm o s
  | .fadd o => Sys2Proof.Machine.execFadd o s
  | .fmul o => Sys2Proof.Machine.execFmul o s
  | .fmac o => Sys2Proof.Machine.execFmac o s
  | .fmin o => Sys2Proof.Machine.execFmin o s
  | .fmax o => Sys2Proof.Machine.execFmax o s
  | .fcmp o => Sys2Proof.Machine.execFcmp o s
  | .fclass o => Sys2Proof.Machine.execFclass o s
  | .frnd o => Sys2Proof.Machine.execFrnd o s
  | .cvt o => Sys2Proof.Machine.execCvt o s
  | .hadd2 o => Sys2Proof.Machine.execHadd2 o s
  | .hmul2 o => Sys2Proof.Machine.execHmul2 o s
  | .hmac2 o => Sys2Proof.Machine.execHmac2 o s
  | .vdot o => Sys2Proof.Machine.execVdot o s
  | .frcp o => Sys2Proof.Machine.execFrcp o s
  | .frsq o => Sys2Proof.Machine.execFrsq o s
  | .fsqrt o => Sys2Proof.Machine.execFsqrt o s
  | .fex2 o => Sys2Proof.Machine.execFex2 o s
  | .flg2 o => Sys2Proof.Machine.execFlg2 o s
  | .fsin o => Sys2Proof.Machine.execFsin o s
  | .fcos o => Sys2Proof.Machine.execFcos o s
  | .fdiv o => Sys2Proof.Machine.execFdiv o s
  | .dadd o => Sys2Proof.Machine.execDadd o s
  | .dmul o => Sys2Proof.Machine.execDmul o s
  | .dmac o => Sys2Proof.Machine.execDmac o s
  | .dcmp o => Sys2Proof.Machine.execDcmp o s
  | .plop o => Sys2Proof.Machine.execPlop o s
  | .pmov o => Sys2Proof.Machine.execPmov o s
  | .vote o => Sys2Proof.Machine.execVote o s
  | .shfl o => Sys2Proof.Machine.execShfl o s
  | .redf o => Sys2Proof.Machine.execRedf o s
  | .scanf o => Sys2Proof.Machine.execScanf o s
  | .matchV o => Sys2Proof.Machine.execMatchV o s
  | .ld o => Sys2Proof.Machine.execLd o s
  | .st o => Sys2Proof.Machine.execSt o s
  | .lds o => Sys2Proof.Machine.execLds o s
  | .sts o => Sys2Proof.Machine.execSts o s
  | .ldk o => Sys2Proof.Machine.execLdk o s
  | .stk o => Sys2Proof.Machine.execStk o s
  | .atom o => Sys2Proof.Machine.execAtom o s
  | .atoms o => Sys2Proof.Machine.execAtoms o s
  | .red o => Sys2Proof.Machine.execRed o s
  | .nmop o => Sys2Proof.Machine.execNmop o s
  | .pref o => Sys2Proof.Machine.execPref o s
  | .cctlIinv o => Sys2Proof.Machine.execCctlIinv o s
  | .cctlL1inv o => Sys2Proof.Machine.execCctlL1inv o s
  | .cctlL2wb o => Sys2Proof.Machine.execCctlL2wb o s
  | .cctlL2ev o => Sys2Proof.Machine.execCctlL2ev o s
  | .samp o => Sys2Proof.Machine.execSamp o s
  | .sampg o => Sys2Proof.Machine.execSampg o s
  | .sampl o => Sys2Proof.Machine.execSampl o s
  | .txld o => Sys2Proof.Machine.execTxld o s
  | .imld o => Sys2Proof.Machine.execImld o s
  | .imst o => Sys2Proof.Machine.execImst o s
  | .attr o => Sys2Proof.Machine.execAttr o s
  | .pixlk o => Sys2Proof.Machine.execPixlk o s
  | .pixul o => Sys2Proof.Machine.execPixul o s
  | .rtrace o => Sys2Proof.Machine.execRtrace o s
  | .rastq o => Sys2Proof.Machine.execRastq o s
  | .rflush o => Sys2Proof.Machine.execRflush o s
  | .vbwr o => Sys2Proof.Machine.execVbwr o s
  | .tlrel o => Sys2Proof.Machine.execTlrel o s
  | .lxsub o => Sys2Proof.Machine.execLxsub o s
  | .lxsubNb o => Sys2Proof.Machine.execLxsubNb o s
  | .cbinit o => Sys2Proof.Machine.execCbinit o s
  | .cbarr o => Sys2Proof.Machine.execCbarr o s
  | .cbwait o => Sys2Proof.Machine.execCbwait o s
  | .cbtest o => Sys2Proof.Machine.execCbtest o s
  | .dcset o => Sys2Proof.Machine.execDcset o s
  | .dcdec o => Sys2Proof.Machine.execDcdec o s
  | .dlaunch o => Sys2Proof.Machine.execDlaunch o s
  | .nralloc o => Sys2Proof.Machine.execNralloc o s
  | .nrsend o => Sys2Proof.Machine.execNrsend o s
  | .nrdone o => Sys2Proof.Machine.execNrdone o s
  | .qbind o => Sys2Proof.Machine.execQbind o s
  | .cobar o => Sys2Proof.Machine.execCobar o s
  | .cored o => Sys2Proof.Machine.execCored o s
  | .mldw o => Sys2Proof.Machine.execMldw o s
  | .mswap o => Sys2Proof.Machine.execMswap o s
  | .mma o => Sys2Proof.Machine.execMma o s
  | .mmaG o => Sys2Proof.Machine.execMmaG o s
  | .mmaJ o => Sys2Proof.Machine.execMmaJ o s
  | .mmaGJ o => Sys2Proof.Machine.execMmaGJ o s
  | .mgrp o => Sys2Proof.Machine.execMgrp o s
  | .mrd o => Sys2Proof.Machine.execMrd o s
  | .mclr o => Sys2Proof.Machine.execMclr o s
  | .mtag o => Sys2Proof.Machine.execMtag o s
  | .mcbt o => Sys2Proof.Machine.execMcbt o s
  | .mwr o => Sys2Proof.Machine.execMwr o s
  | .tmov o => Sys2Proof.Machine.execTmov o s
  | .tgath o => Sys2Proof.Machine.execTgath o s
  | .tscat o => Sys2Proof.Machine.execTscat o s
  | .tfill o => Sys2Proof.Machine.execTfill o s
  | .ptmap o => Sys2Proof.Machine.execPtmap o s
  | .ptinv o => Sys2Proof.Machine.execPtinv o s
  | .prireq o => Sys2Proof.Machine.execPrireq o s
  | .swapoOut o => Sys2Proof.Machine.execSwapoOut o s
  | .swapoIn o => Sys2Proof.Machine.execSwapoIn o s
  | .gkill o => Sys2Proof.Machine.execGkill o s
  | .gres o => Sys2Proof.Machine.execGres o s
  | .seqF c => Sys2Proof.Machine.execSeqF c s
  | .jmp c => Sys2Proof.Machine.execJmp c s
  | .bru c => Sys2Proof.Machine.execBru c s
  | .brl c => Sys2Proof.Machine.execBrl c s
  | .callF c => Sys2Proof.Machine.execCallF c s
  | .retF c => Sys2Proof.Machine.execRetF c s
  | .loopF c => Sys2Proof.Machine.execLoopF c s
  | .jind c => Sys2Proof.Machine.execJind c s
  | .exitF c => Sys2Proof.Machine.execExitF c s
  | .regangCheck gid fid => Sys2Proof.Machine.execRegangCheck gid fid s
  | .regangRelease gid fid => Sys2Proof.Machine.execRegangRelease gid fid s
  | .issueSelect core dp => Sys2Proof.Machine.execIssueSelect core dp s
  | .registerCacheFill gid reg slice => Sys2Proof.Machine.execRegisterCacheFill gid reg slice s
  | .inFlightCompletion fl => Sys2Proof.Machine.execInFlightCompletion fl s
  | .haltReach gid stop => Sys2Proof.Machine.execHaltReach gid stop s
  | .handlerEnter gid => Sys2Proof.Machine.execHandlerEnter gid s
  | .asyncCauseTake gid fid => Sys2Proof.Machine.execAsyncCauseTake gid fid s
  | .pageRequestResponse index outcome => Sys2Proof.Machine.execPageRequestResponse index outcome s
  | .atsInvalidate pasid page => Sys2Proof.Machine.execAtsInvalidate pasid page s
  | .migrationHoldExpire fl => Sys2Proof.Machine.execMigrationHoldExpire fl s
  | .homeApply fl acc fromL1 => Sys2Proof.Machine.execHomeApply fl acc fromL1 s
  | .monitorFire ag displaced => Sys2Proof.Machine.execMonitorFire ag displaced s
  | .mwaitTimeout ag => Sys2Proof.Machine.execMwaitTimeout ag s
  | .sleepExpire gid fid => Sys2Proof.Machine.execSleepExpire gid fid s
  | .cbwaitRelease gid fid => Sys2Proof.Machine.execCbwaitRelease gid fid s
  | .cohortPhaseComplete grid cohort => Sys2Proof.Machine.execCohortPhaseComplete grid cohort s
  | .pixlkRelease gid fid => Sys2Proof.Machine.execPixlkRelease gid fid s
  | .queueUnblock gid fid => Sys2Proof.Machine.execQueueUnblock gid fid s
  | .nrallocGrant graph => Sys2Proof.Machine.execNrallocGrant graph s
  | .batchTimeout graph node => Sys2Proof.Machine.execBatchTimeout graph node s
  | .graphDrain graph => Sys2Proof.Machine.execGraphDrain graph s
  | .packetLaunch q => Sys2Proof.Machine.execPacketLaunch q s
  | .packetLauter q => Sys2Proof.Machine.execPacketLauter q s
  | .packetDcopSet q => Sys2Proof.Machine.execPacketDcopSet q s
  | .packetDcopDecrement q => Sys2Proof.Machine.execPacketDcopDecrement q s
  | .packetCbopInitialise q => Sys2Proof.Machine.execPacketCbopInitialise q s
  | .packetCbopArrive q => Sys2Proof.Machine.execPacketCbopArrive q s
  | .packetNop q => Sys2Proof.Machine.execPacketNop q s
  | .cbopFailureReport k => Sys2Proof.Machine.execCbopFailureReport k s
  | .dispatchRound part => Sys2Proof.Machine.execDispatchRound part s
  | .preemptTakeEffect wid => Sys2Proof.Machine.execPreemptTakeEffect wid s
  | .waitSwapOut wid => Sys2Proof.Machine.execWaitSwapOut wid s
  | .wakeCondition wid => Sys2Proof.Machine.execWakeCondition wid s
  | .gridCompletion grid => Sys2Proof.Machine.execGridCompletion grid s
  | .dlaunchRelease core => Sys2Proof.Machine.execDlaunchRelease core s
  | .mcReport m => Sys2Proof.Machine.execMcReport m s
  | .mcStart origin gen => Sys2Proof.Machine.execMcStart origin gen s
  | .mcAbort origin gen => Sys2Proof.Machine.execMcAbort origin gen s
  | .mcTimeout gen => Sys2Proof.Machine.execMcTimeout gen s
  | .kilnGrant cluster => Sys2Proof.Machine.execKilnGrant cluster s
  | .kilnPeriodExpire cluster holder waited => Sys2Proof.Machine.execKilnPeriodExpire cluster holder waited s
  | .jointStart latch => Sys2Proof.Machine.execJointStart latch s
  | .jointAbort latch => Sys2Proof.Machine.execJointAbort latch s
  | .mtagRetire fl => Sys2Proof.Machine.execMtagRetire fl s
  | .lauterContextStart engine => Sys2Proof.Machine.execLauterContextStart engine s
  | .lauterIssue engine => Sys2Proof.Machine.execLauterIssue engine s
  | .lauterFaultRecordWrite part => Sys2Proof.Machine.execLauterFaultRecordWrite part s
  | .lauterCompletion ctx => Sys2Proof.Machine.execLauterCompletion ctx s
  | .lauterResume ctx => Sys2Proof.Machine.execLauterResume ctx s
  | .lauterAbort ctx => Sys2Proof.Machine.execLauterAbort ctx s
  | .rasterRequest cluster => Sys2Proof.Machine.execRasterRequest cluster s
  | .tileSeal cluster => Sys2Proof.Machine.execTileSeal cluster s
  | .rflushProcess cluster => Sys2Proof.Machine.execRflushProcess cluster s
  | .pinSpillTimeout slice => Sys2Proof.Machine.execPinSpillTimeout slice s
  | .classifyScan cluster => Sys2Proof.Machine.execClassifyScan cluster s
  | .binTimeout cluster pass bin => Sys2Proof.Machine.execBinTimeout cluster pass bin s
  | .rayDelivery k => Sys2Proof.Machine.execRayDelivery k s
  | .passClose pass => Sys2Proof.Machine.execPassClose pass s
  | .passDone pass => Sys2Proof.Machine.execPassDone pass s
  | .queueEnable q flags => Sys2Proof.Machine.execQueueEnable q flags s
  | .queueDisable q flags => Sys2Proof.Machine.execQueueDisable q flags s
  | .errheadWrite q v => Sys2Proof.Machine.execErrheadWrite q v s
  | .devctlWarmReset v => Sys2Proof.Machine.execDevctlWarmReset v s
  | .preset part => Sys2Proof.Machine.execPreset part s
  | .kbudgetWrite cluster v => Sys2Proof.Machine.execKbudgetWrite cluster v s
  | .pinmaxWrite v => Sys2Proof.Machine.execPinmaxWrite v s
  | .registerWrite owner off size v => Sys2Proof.Machine.execRegisterWrite owner off size v s
  | .hostBar2Access off len wr => Sys2Proof.Machine.execHostBar2Access off len wr s
  | .coldReset => Sys2Proof.Machine.execColdReset s
  | .warmReset => Sys2Proof.Machine.execWarmReset s
  | .functionLevelReset => Sys2Proof.Machine.execFunctionLevelReset s
  | .thermalTrip celsius => Sys2Proof.Machine.execThermalTrip celsius s
  | .powerThrottle cluster budget mhz thermal active => Sys2Proof.Machine.execPowerThrottle cluster budget mhz thermal active s
  | .canaryMeasure region drifted => Sys2Proof.Machine.execCanaryMeasure region drifted s
  | .regionRetrain region => Sys2Proof.Machine.execRegionRetrain region s
  | .retrainDeferralExpire region => Sys2Proof.Machine.execRetrainDeferralExpire region s
  | .crcBurstRetrain region => Sys2Proof.Machine.execCrcBurstRetrain region s
  | .busCrcReplay region failing => Sys2Proof.Machine.execBusCrcReplay region failing s
  | .unitRetire isCore k => Sys2Proof.Machine.execUnitRetire isCore k s
  | .fabricLinkRetrain link => Sys2Proof.Machine.execFabricLinkRetrain link s
  | .fabricLinkFail link => Sys2Proof.Machine.execFabricLinkFail link s
  | .fabricFlitReplay link => Sys2Proof.Machine.execFabricFlitReplay link s
  | .fabricRequestArrive r => Sys2Proof.Machine.execFabricRequestArrive r s
  | .fabricHoldTimeout fl => Sys2Proof.Machine.execFabricHoldTimeout fl s
  | .cxlLinkDown port => Sys2Proof.Machine.execCxlLinkDown port s
  | .patrolScrub sector bad => Sys2Proof.Machine.execPatrolScrub sector bad s
  | .cxlLinkUp port => Sys2Proof.Machine.execCxlLinkUp port s
  | .gddrCxlCrcRetry sector => Sys2Proof.Machine.execGddrCxlCrcRetry sector s
  | .firmwareMailboxAccess image => Sys2Proof.Machine.execFirmwareMailboxAccess image s
  | .atsTranslationCompletion pasid page granted => Sys2Proof.Machine.execAtsTranslationCompletion pasid page granted s

end Sys2Proof.Machine
end

