-- ==== Sys2Proof/Machine/Step.lean ====
section
/-!
DEFINITION. One step of the device (log entries 1 and 4): the chosen agent's bundle, else the next event of the agenda, else
the event that the default policy picks.
-/
namespace Sys2Proof.Machine

/-- The bundle's sequencing form follows its operation, unless the operation ended the issue (11 R299). -/
def thenSeq (ctl : Ctl) : Host.Outcome State Fault Refusal → Host.Outcome State Fault Refusal
  | .next u => if u.issue.isSome then exec (seqInstr ctl) u else .next u
  | o => o

/-- A chosen agent's turn (11 R299; 02 R34). -/
def stepAgent (ag : Agent) (s : State) : Host.Outcome State Fault Refusal :=
  match s.startIssue ag with
  | .stop t => runOp s t
  | .op i ctl t => thenSeq ctl (exec i t)
  | .seq ctl t => exec (seqInstr ctl) t
  | .regang gid fid t =>
    match exec (.regangCheck gid fid) t with
    | .next u => .next (u.afterRegang gid fid)
    | o => o

/-- What a step does before the fragments that wait at re-gang points are examined again. -/
def stepBare (s : State) : Host.Outcome State Fault Refusal :=
  match s.latch with
  | some ag => stepAgent ag s.turn
  | none =>
    match s.agenda with
    | e :: rest => exec e.ev (s.takeAgenda e rest)
    | [] => exec s.choice.1 s.choice.2

/-- One step; then every fragment that waits at a re-gang point is re-examined (02 R37, R39). -/
def step (s : State) : Host.Outcome State Fault Refusal := settled (stepBare s)

/-- The state whose next step runs the bundle of bits `w` (log entry 1). -/
def State.withFetchWord (s : State) (nbits w : Nat) : State := s.placeWord nbits w

end Sys2Proof.Machine
end

