-- ==== Sys2Proof/Safety.lean ====
section
/-!
DEFINITION. The terms in which claims about the model are stated: when a bundle gets as far as its own effect, what a
result in its destination means, and what it means that the rest of the machine is untouched.
-/
namespace Sys2Proof.Machine

/-! ### A bundle that reaches its own effect -/

/-- The operand shape by which an operation of the issuing agent is checked (11 R309, 07 R208). -/
def shapeOf (is : Issue) (i : Instr) : Shape := shape (match is.ag with | .ctx _ => true | _ => false) i

/-- The bundle that `is` issues passes all that stands before the effect of its operation word: the decode checks (11 R310), a
scratchpad access's bounds (09 R269), a JIND's target (11 R302), the words its queue registers must hold (07 R188); no register line that it
reads is poisoned (10 R290). `bad`, `rd` and `more` are the operation's own conditions.
The state is one between events: no write is under way. The issuing fragment exists. -/
structure Issues (i : Instr) (o : Opw) (s : State) (is : Issue) (bad : Issue → Bool) (rd : Issue → List RegId)
    (more : Issue → Nat) : Prop where
  issuing : s.issue = some is
  quiet : s.journal = []
  checks : decodeCauses i o is s (bad is) (rd is) (more is) = 0
  bounds : scrOut i o s is = 0
  target : jindTrap is = none
  queues : queuesReady s is (shapeOf is i) o = true
  noPush : (shapeOf is i).dst.queueOf o.dst = none
  clean : readsBad i o s is (rd is) = false
  agent : ∀ gid fid, is.ag = .gang gid fid → (s.frag? gid fid).isSome = true

/-! ### The rest of the machine -/

/-- A fragment without the records by which the model times and orders its accesses. -/
def Frag.bare (f : Frag) : Frag := { f with haz := [], po := [], con := [], skip := 0 }

/-- A gang without those records. -/
def Gang.bare (g : Gang) : Gang := { g with frags := g.frags.map fun e => (e.1, e.2.bare) }

/-- A Lauter context without those records. -/
def Ctx.bare (c : Ctx) : Ctx := { c with haz := [], po := [], con := [] }

/-- An operation in flight without the record of registers written before it retires (11 R313). -/
def Flight.bare (f : Flight) : Flight := { f with clash := [] }

/-- Is the agent a fragment of the gang? -/
def ofGang (ag : Agent) (gid : Nat) : Prop := match ag with | .gang g _ => g = gid | .ctx _ => False

/-- Every gang and context other than the agent's is as before. -/
def OthersKept (ag : Agent) (s t : State) : Prop :=
  (∀ gid, ¬ ofGang ag gid → t.gang? gid = s.gang? gid) ∧ ∀ n, ag ≠ .ctx n → t.ctx n = s.ctx n

/-- Everything but gangs, contexts and operations in flight is as before: memory and its poison, queues, the device's registers,
dispatch, the issue in progress. -/
def DeviceKept (s t : State) : Prop :=
  { t with gangs := s.gangs, ctxs := s.ctxs, flights := s.flights } = s

/-- The operations in flight are as before. -/
def FlightsKept (s t : State) : Prop := ∀ i, (t.flights.find? i).map Flight.bare = (s.flights.find? i).map Flight.bare

/-- All registers of all agents are as before: general, predicate, special and exception registers, accumulator planes, program
counters, masks. -/
def RegsKept (s t : State) : Prop :=
  (∀ gid, (t.gang? gid).map Gang.bare = (s.gang? gid).map Gang.bare) ∧ ∀ n, (t.ctx n).bare = (s.ctx n).bare

/-- Every byte of memory reads as before. -/
def MemKept (s t : State) : Prop := ∀ k, t.peek k = s.peek k

/-! ### Results in registers -/

/-- Word `i` of a result. -/
def wordOf (x i : Nat) : W32 := BitVec.ofNat 32 (x / 2 ^ (32 * i))

/-- The `n` words of `val` stand in the destination of each of the lanes; of a destination that is one for the fragment, the first
lane's. -/
def ResultAt (t : State) (ag : Agent) (dst : BitVec 10) (n : Nat) (lanes : List Nat) (val : Nat → Nat) : Prop :=
  match opnd dst, ag with
  | .v k, .gang gid _ => ∀ g, t.gang? gid = some g → ∀ l ∈ lanes, ∀ i < n, g.rdV (k + i) l = wordOf (val l) i
  | .s k, _ => ∀ l, lanes.head? = some l → ∀ i < n, t.rdS ag (k + i) = wordOf (val l) i
  | .h k, .gang gid _ => ∀ g, t.gang? gid = some g → ∀ l, lanes.head? = some l → Tab.get 0 g.h k = wordOf (val l) 0
  | _, _ => True

/-- Is the register (by its number) among the `n` that a destination of a kind names? -/
def inDst (o : Opnd) (mk : Nat → Opnd) (n k : Nat) : Prop := ∃ b, o = mk b ∧ b ≤ k ∧ k < b + n

/-- The agent's registers but for the result: `n` registers from the destination in the lanes given, and SR_FPSTAT with the flags. A value
that is not written is poisoned after if it was before (10 R290). -/
def AgentKept (s t : State) (ag : Agent) (dst : BitVec 10) (n : Nat) (lanes : List Nat) (flags : Nat) : Prop :=
  match ag with
  | .gang gid _ => ∀ g, s.gang? gid = some g → ∃ g', t.gang? gid = some g' ∧
      { g'.bare with v := g.v, s := g.s, h := g.h, vbad := g.vbad } = { g.bare with fpstat := g.fpstat ||| BitVec.ofNat 32 flags } ∧
      (∀ k l, l < 1024 → ¬ (inDst (opnd dst) .v n k ∧ l ∈ lanes) →
        g'.rdV k l = g.rdV k l ∧ g'.vbad.has (vKey k l) = g.vbad.has (vKey k l)) ∧
      (∀ k, ¬ inDst (opnd dst) .s n k → Tab.get 0 g'.s k = Tab.get 0 g.s k) ∧
      (∀ k, ¬ inDst (opnd dst) .h 1 k → Tab.get 0 g'.h k = Tab.get 0 g.h k)
  | .ctx c => { (t.ctx c).bare with s := (s.ctx c).s } = (s.ctx c).bare ∧
      ∀ k, ¬ inDst (opnd dst) .s n k → t.rdS ag k = s.rdS ag k

/-- A bundle with a queue destination that passes all that stands before its effect, its queue with room for the word (07 R186, R188);
on a LAU_CMD port the word does not complete a packet. -/
structure PushIssues (i : Instr) (o : Opw) (s : State) (is : Issue) (gid fid k : Nat) (g : Gang) : Prop where
  issuing : s.issue = some is
  quiet : s.journal = []
  checks : decodeCauses i o is s false [] 0 = 0
  bounds : scrOut i o s is = 0
  target : jindTrap is = none
  queues : queuesReady s is (shapeOf is i) o = true
  dest : (shapeOf is i).dst.queueOf o.dst = some k
  clean : readsBad i o s is [] = false
  agent : is.ag = .gang gid fid ∧ (s.frag? gid fid).isSome = true
  gang : s.gang? gid = some g
  inPacket : g.port k = 6 → (g.qwords k).length + 1 < 16

/-- `exec` answers a next state in which queue `k` holds, after the words of `u`, the low word of the result, once for the fragment
(07 R188, 11 R309); no other queue, register or byte changes, but for the flags in SR_FPSTAT. -/
def Pushes (i : Instr) (s u : State) (ag : Agent) (gid k : Nat) (lanes : List Nat) (val : Nat → Nat) (flags : Nat) : Prop :=
  ∃ t g g', exec i s = .next t ∧ u.gang? gid = some g ∧ t.gang? gid = some g' ∧
    { g'.bare with q := g.q } = { g.bare with fpstat := g.fpstat ||| BitVec.ofNat 32 flags } ∧
    g'.qwords k = g.qwords k ++ lanes.map (fun l => wordOf (val l) 0) ∧ g'.port k = g.port k ∧
    (∀ j, j ≠ k → g'.q[j]? = g.q[j]?) ∧ OthersKept ag s t ∧ DeviceKept s t ∧ FlightsKept s t ∧ MemKept s t

/-- The result of an operation with a register destination, computed by `f` from the words that its sources hold in each lane that it
acts in (11 R304, R309): `exec` answers a next state with the result in the destination, its flags in SR_FPSTAT, and the
rest of the machine as it was once the queue words of its sources were taken. -/
def AluWrites (mk : Opw → Instr) (o : Opw) (w : Widen) (n : Nat) (f : Nat → Nat → Nat → Nat × Nat) : Prop :=
  ∀ s is, Issues (mk o) o s is noBad noRd noMore →
    let sh := shape false (mk o)
    let lanes := effLanes s is sh o
    let pp := takePops s is sh o
    let r := fun l => f (srcVal s is o sh.a o.a w 1 pp.1.1 l) (srcVal s is o sh.b o.b w 2 pp.1.2.1 l)
      (srcVal s is o sh.c o.c w 3 pp.1.2.2 l)
    let flags := lanes.foldl (fun a l => a ||| (r l).2) 0
    trapsOf (s.fpctlOf is.ag) flags = 0 →
    ∃ t, exec (mk o) s = .next t ∧ ResultAt t is.ag o.dst n lanes (fun l => (r l).1) ∧
      AgentKept pp.2 t is.ag o.dst n lanes flags ∧ OthersKept is.ag s t ∧ DeviceKept s t ∧ FlightsKept s t ∧ MemKept s t

/-- The same operation with a queue destination. -/
def AluPushes (mk : Opw → Instr) (o : Opw) (w : Widen) (f : Nat → Nat → Nat → Nat × Nat) : Prop :=
  ∀ s is gid fid k g, PushIssues (mk o) o s is gid fid k g →
    let sh := shape false (mk o)
    let lanes := effLanes s is sh o
    let pp := takePops s is sh o
    let r := fun l => f (srcVal s is o sh.a o.a w 1 pp.1.1 l) (srcVal s is o sh.b o.b w 2 pp.1.2.1 l)
      (srcVal s is o sh.c o.c w 3 pp.1.2.2 l)
    let flags := lanes.foldl (fun a l => a ||| (r l).2) 0
    trapsOf (s.fpctlOf is.ag) flags = 0 → Pushes (mk o) s pp.2 is.ag gid k lanes (fun l => (r l).1) flags

/-- An operation's result in each kind of destination that it may have: registers, and a queue. -/
def AluResult (mk : Opw → Instr) (o : Opw) (w : Widen) (n : Nat) (f : Nat → Nat → Nat → Nat × Nat) : Prop :=
  AluWrites mk o w n f ∧ AluPushes mk o w f

/-- A trap that a bundle takes in place of its results (04 R112, 09 R249-R253), by the first cause of a gang outside its handlers: no
general register, predicate or queue changes, SR_FPSTAT gains the flags, SR_CAUSE the causes, SR_EPC is the bundle's address,
the fragment stops and the workgroup is halted. -/
def TrapsInstead (i : Instr) (s : State) (gid fid : Nat) (flags causes : Nat) : Prop :=
  ∀ g f w, s.gang? gid = some g → g.frags.find? fid = some f → g.slot = none → g.trap = none → s.wgs.find? g.wid = some w →
    ∃ t g' f' w', exec i s = .next t ∧ t.gang? gid = some g' ∧ g'.frags.find? fid = some f' ∧ t.wgs.find? g.wid = some w' ∧
      g'.v = g.v ∧ g'.p = g.p ∧ g'.s = g.s ∧ g'.k = g.k ∧ g'.h = g.h ∧ g'.q = g.q ∧
      g'.fpstat = g.fpstat ||| BitVec.ofNat 32 flags ∧ g'.cause = g.cause ||| BitVec.ofNat 64 causes ∧
      g'.epc = BitVec.ofNat 64 (f.pc % 2 ^ 57) ∧ g'.trap = some { fid := fid, entered := false } ∧ f'.stopped = true ∧
      w'.halted = true ∧ t.issue = none ∧ MemKept s t

/-- A bundle of a gang's fragment that reaches its own effect, whether its destination is a register or a queue. -/
def IssuesAny (i : Instr) (o : Opw) (s : State) (is : Issue) (gid fid : Nat) : Prop :=
  (Issues i o s is noBad noRd noMore ∧ is.ag = .gang gid fid) ∨ ∃ k g, PushIssues i o s is gid fid k g

/-- An operation, to a register or a queue, whose flags have an enabled trap. -/
def AluTraps (mk : Opw → Instr) (o : Opw) (w : Widen) (f : Nat → Nat → Nat → Nat × Nat) : Prop :=
  ∀ s is gid fid, IssuesAny (mk o) o s is gid fid →
    let sh := shape false (mk o)
    let lanes := effLanes s is sh o
    let pp := takePops s is sh o
    let r := fun l => f (srcVal s is o sh.a o.a w 1 pp.1.1 l) (srcVal s is o sh.b o.b w 2 pp.1.2.1 l)
      (srcVal s is o sh.c o.c w 3 pp.1.2.2 l)
    let flags := lanes.foldl (fun a l => a ||| (r l).2) 0
    trapsOf (s.fpctlOf is.ag) flags ≠ 0 → TrapsInstead (mk o) s gid fid flags (trapsOf (s.fpctlOf is.ag) flags)

/-! ### Results in predicates -/

/-- The truths stand in the predicate selector of the destination: a P register in each of the lanes (P0 keeps reading as true), a K
register from the first lane. -/
def TruthAt (t : State) (ag : Agent) (dst : BitVec 10) (lanes : List Nat) (val : Nat → Bool) : Prop :=
  if dst.getLsbD 3 then ∀ l, lanes.head? = some l → t.rdK ag (dst.toNat % 4) = val l
  else match ag with
    | .gang gid _ => ∀ g, t.gang? gid = some g → ∀ l ∈ lanes,
        (g.rdP (dst.toNat % 8)).getLsbD l = (val l || decide (dst.toNat % 8 = 0))
    | .ctx _ => True

/-- The agent's registers but for the predicate: other predicates, other lanes and every other register; SR_FPSTAT with the flags. -/
def PredKept (s t : State) (ag : Agent) (dst : BitVec 10) (lanes : List Nat) (flags : Nat) : Prop :=
  match ag with
  | .gang gid _ => ∀ g, s.gang? gid = some g → ∃ g', t.gang? gid = some g' ∧
      { g'.bare with p := g.p, k := g.k } = { g.bare with fpstat := g.fpstat ||| BitVec.ofNat 32 flags } ∧
      (∀ n l, l < 1024 → ¬ (dst.getLsbD 3 = false ∧ n = dst.toNat % 8 ∧ l ∈ lanes) →
        (g'.rdP n).getLsbD l = (g.rdP n).getLsbD l) ∧
      (∀ n, ¬ (dst.getLsbD 3 = true ∧ n = dst.toNat % 4) → g'.k.getLsbD n = g.k.getLsbD n)
  | .ctx c => { (t.ctx c).bare with k := (s.ctx c).k } = (s.ctx c).bare ∧
      ∀ n, ¬ (dst.getLsbD 3 = true ∧ n = dst.toNat % 4) → t.rdK ag n = s.rdK ag n

/-- The result of an operation with a predicate destination: as `AluResult`, for a truth. -/
def CmpResult (mk : Opw → Instr) (o : Opw) (w : Widen) (f : Nat → Nat → Bool × Nat) : Prop :=
  ∀ s is, Issues (mk o) o s is noBad noRd noMore →
    let sh := shape false (mk o)
    let lanes := effLanes s is sh o
    let pp := takePops s is sh o
    let r := fun l => f (srcVal s is o sh.a o.a w 1 pp.1.1 l) (srcVal s is o sh.b o.b w 2 pp.1.2.1 l)
    let flags := lanes.foldl (fun a l => a ||| (r l).2) 0
    trapsOf (s.fpctlOf is.ag) flags = 0 →
    ∃ t, exec (mk o) s = .next t ∧ TruthAt t is.ag o.dst lanes (fun l => (r l).1) ∧
      PredKept pp.2 t is.ag o.dst lanes flags ∧ OthersKept is.ag s t ∧ DeviceKept s t ∧ FlightsKept s t ∧ MemKept s t

/-- A compare whose flags have an enabled trap. -/
def CmpTraps (mk : Opw → Instr) (o : Opw) (w : Widen) (f : Nat → Nat → Bool × Nat) : Prop :=
  ∀ s is gid fid, Issues (mk o) o s is noBad noRd noMore → is.ag = .gang gid fid →
    let sh := shape false (mk o)
    let lanes := effLanes s is sh o
    let pp := takePops s is sh o
    let r := fun l => f (srcVal s is o sh.a o.a w 1 pp.1.1 l) (srcVal s is o sh.b o.b w 2 pp.1.2.1 l)
    let flags := lanes.foldl (fun a l => a ||| (r l).2) 0
    trapsOf (s.fpctlOf is.ag) flags ≠ 0 → TrapsInstead (mk o) s gid fid flags (trapsOf (s.fpctlOf is.ag) flags)

/-- An operation that writes a register result computed from the whole fragment: the value of each lane it acts in, once the queue
words of its sources were taken. -/
def WritesReg (i : Instr) (o : Opw) (s u : State) (is : Issue) (n : Nat) (lanes : List Nat) (val : Nat → Nat) (flags : Nat) : Prop :=
  ∃ t, exec i s = .next t ∧ ResultAt t is.ag o.dst n lanes val ∧ AgentKept u t is.ag o.dst n lanes flags ∧
    OthersKept is.ag s t ∧ DeviceKept s t ∧ FlightsKept s t ∧ MemKept s t

/-- An operation that writes a truth computed from the whole fragment. -/
def WritesTruth (i : Instr) (o : Opw) (s u : State) (is : Issue) (lanes : List Nat) (val : Nat → Bool) : Prop :=
  ∃ t, exec i s = .next t ∧ TruthAt t is.ag o.dst lanes val ∧ PredKept u t is.ag o.dst lanes 0 ∧
    OthersKept is.ag s t ∧ DeviceKept s t ∧ FlightsKept s t ∧ MemKept s t

/-! ### Operations in flight -/

/-- `t` is `u` with the operation `f` in flight, and with every other operation in flight as it was. -/
def AddsFlight (u t : State) (f : Flight) : Prop :=
  t.flights.find? f.id = some (u.inOrder f) ∧ t.nextId = u.nextId + 1 ∧
    ∀ i, i ≠ f.id → t.flights.find? i = u.flights.find? i

/-- The bundle leaves one operation in flight: `exec` answers a next state that holds it, with the registers of `u` (the state
without the queue words taken) and every byte of memory as before. `v` is the state in which the operation is issued. -/
def Flies (i : Instr) (s u v : State) (f : Flight) : Prop :=
  ∃ t, exec i s = .next t ∧ AddsFlight v t f ∧ RegsKept u t ∧ MemKept s t

/-- Every access of a bundle passes its checks and is translated (05 R124, 09 R258-R263): the translations, in order. -/
def AllPass (s : State) (is : Issue) (path : Nat) (smask : LaneMask) (chk : PageCheck) (reqs : List AReq)
    (l : List (AReq × TrOk)) : Prop :=
  s.runChunks is.ag path smask chk
    (chunkOf (reqs.filter fun r => smask ≠ 0 ∨ !((s.skipOf is.ag).getLsbD r.lane))) = (l, none)

/-- The state in which a bundle's accesses are issued: its leaves noted as used, its holds over. -/
def afterChecks (s : State) (is : Issue) (l : List (AReq × TrOk)) : State :=
  ((s.noteAll is.ag l).dropHold is.ag).dropFar (s.pasidOf is.ag)

/-- The value of a bundle's source in a lane, once the queue words of `pp` were taken. -/
def srcA (i : Instr) (o : Opw) (s : State) (is : Issue) (pp : (List W32 × List W32 × List W32) × State) (l : Nat) : Nat :=
  srcVal s is o (shape false i).a o.a .raw 1 pp.1.1 l
/-- The second source. -/
def srcB (i : Instr) (o : Opw) (s : State) (is : Issue) (pp : (List W32 × List W32 × List W32) × State) (l : Nat) : Nat :=
  srcVal s is o (shape false i).b o.b .raw 2 pp.1.2.1 l
/-- The third source. -/
def srcC (i : Instr) (o : Opw) (s : State) (is : Issue) (pp : (List W32 × List W32 × List W32) × State) (l : Nat) : Nat :=
  srcVal s is o (shape false i).c o.c .raw 3 pp.1.2.2 l

/-- The fragment of a gang, with everything but the records by which the model times its accesses, as `f` says; the rest of the gang as in
`g`. -/
def OnlyFrag (g g' : Gang) (fid : Nat) (f : Frag) : Prop :=
  { g'.bare with frags := [] } = { g.bare with frags := [] } ∧ (g'.frags.find? fid).map Frag.bare = some f.bare ∧
    ∀ j, j ≠ fid → (g'.frags.find? j).map Frag.bare = (g.frags.find? j).map Frag.bare

/-- The first register that a destination names. -/
def firstReg (o : Opw) : Nat := match opnd o.dst with | .v k => k | .s k => k | _ => 0

end Sys2Proof.Machine
end

