-- ==== Sys2Proof/WellFormed.lean ====
section
/-!
DEFINITION. Well-formed instructions: terms that stand for an encoding, or for an event of a part that the device has.
-/
namespace Sys2Proof.Machine

/-- The constructor of an operation is the one that its own fields select, where one opcode has several rows. -/
def rowOk (i : Instr) : Bool :=
  match opParts i with
  | some (opc, o) => decide (opInstr opc o = some i)
  | none => true

/-- The operation word of an operation is legal on a core or on a Lauter engine (11 R303-R309). -/
def fieldsOk (i : Instr) : Bool :=
  match opParts i with
  | some (_, o) => !(shape false i).illop o || ((shape true i).lx && !(shape true i).illop o)
  | none => true

/-- The constructor of a sequencing form is the one that its NSEL selects (11 Table 11.2). -/
def formOk (i : Instr) : Bool :=
  match ctlParts i with
  | some c => decide (seqInstr c = i) && decide (c.nsel.toNat ≤ 8)
  | none => true

/-- The control word of a sequencing form is legal (11 R301). -/
def ctlOk (i : Instr) : Bool :=
  match ctlParts i with
  | some c => !ctlIllop c false
  | none => true

/-- The part of the device that an event names exists (01 R14, R15; 03 R56; 10 R282). -/
def partsOk : Instr → Bool
  | .issueSelect core dp => decide (core < 256) && decide (dp < 4)
  | .dispatchRound part => decide (part < 8)
  | .dlaunchRelease core => decide (core < 256)
  | .kilnGrant cluster => decide (cluster < 32)
  | .kilnPeriodExpire cluster _ _ => decide (cluster < 32)
  | .lauterContextStart engine => decide (engine < 128)
  | .lauterIssue engine => decide (engine < 128)
  | .lauterFaultRecordWrite part => decide (part < 8)
  | .lauterCompletion ctx => decide (ctx < 2048)
  | .lauterResume ctx => decide (ctx < 2048)
  | .lauterAbort ctx => decide (ctx < 2048)
  | .rasterRequest cluster => decide (cluster < 32)
  | .tileSeal cluster => decide (cluster < 32)
  | .rflushProcess cluster => decide (cluster < 32)
  | .classifyScan cluster => decide (cluster < 32)
  | .preset part => decide (part < 8)
  | .kbudgetWrite cluster _ => decide (cluster < 32)
  | _ => true

/-- A well-formed instruction. -/
def WellFormed (i : Instr) : Bool := rowOk i && fieldsOk i && formOk i && ctlOk i && partsOk i

end Sys2Proof.Machine
end

