-- ==== Sys2Proof/Certificates/Slice0/Obligations.lean ====
section
/-!
DEFINITION. The statements about the model. Each says which rules of the spec it comes from; the terms are those of Safety.lean.
-/
open Sys2Proof Sys2Proof.Machine

/-! ### The machine as a whole -/

/-- What every step keeps: memory in its canonical form, and no write left under way between steps (log entries 3, 7). -/
def Sys2Proof.Machine.State.Inv (s : State) : Prop := Memory.wf s.mem = true ∧ s.journal = []

/-- The invariant holds at reset. -/
def Obligations.ResetInv : Prop := State.reset.Inv

/-- From every state that meets the invariant, a step that answers a next state answers one that meets it. -/
def Obligations.StepKeepsInv : Prop := ∀ s t : State, s.Inv → step s = .next t → t.Inv

/-- The machine at reset (10 Tables 10.3, 10.4; R297): PINMAX 8,192, each KBUDGET 32, each MCTIMEOUT 2,000,000; SR_CYC and the counts of
cores and slices; and nothing is running. Two clauses are the model's choice: CLKSTEP 2,000, for which Table 10.3 states no reset value
(log entry 2), and that every byte of memory reads 0 (log entry 3). -/
def Obligations.ResetValues : Prop :=
  State.reset.dev.pinmax = 8192 ∧ State.reset.dev.clkstep = 2000 ∧ (∀ c, c < 32 → State.reset.kbudget[c]? = some 32) ∧
  (∀ p, p < 8 → (State.reset.part p).mctimeout = 2000000) ∧ State.reset.cycle = 0 ∧ State.reset.cores = 256 ∧
  State.reset.slices = 320 ∧ State.reset.gangs = [] ∧ State.reset.flights = [] ∧ State.reset.queues = [] ∧
  (∀ n, (State.reset.ctx n).stat = .free) ∧ ∀ k, State.reset.peek k = 0

/-- No instruction is refused, and the model's one fault is a bundle's meaning without an agent that issues: whatever the state, a
bundle of an issuing agent and every event answer a next state. That a bundle's meaning without an agent stops is the model's choice (log
entry 68): the spec has no such case. -/
def Obligations.NothingRefused : Prop :=
  ∀ (i : Instr) (s : State), (∃ t, exec i s = .next t) ∨
    (exec i s = .fault .noAgent ∧ s.issue = none ∧ ((opParts i).isSome ∨ (ctlParts i).isSome))

/-- A bundle's meaning leaves every byte of memory as it was, for every form and whether it completes, waits or traps: its stores
act where HOME_APPLY applies them (05 R136, R137; log entry 7). -/
def Obligations.BundlesStoreNothingAtIssue : Prop :=
  ∀ (i : Instr) (s t : State), ((opParts i).isSome ∨ (ctlParts i).isSome) → s.journal = [] → exec i s = .next t →
    t.mem = s.mem ∧ MemKept s t

/-! ### Encoding -/

/-- The decoder reads what the encoder writes: for every well-formed operation and every control word, all fields come back. -/
def Says.DecodeEncode : Prop :=
  ∀ (i : Instr) (o : Opw) (c : Ctl) (opc : Nat), WellFormed i = true → opParts i = some (opc, o) →
    (encode i c).bind decode = some (i, c)

/-- No bit of a bundle is dropped: encoding what was decoded from 128 bits gives those bits (11 R298, R300, R303). -/
def Says.EncodeDecode : Prop :=
  ∀ (w : Nat) (i : Instr) (c : Ctl), w < 2 ^ 128 → decode w = some (i, c) → encode i c = some w

/-- Sequencing forms are told apart by NSEL alone (11 Table 11.2): the form of a legal control word has that word, and no two forms share
one. -/
def Says.FormsOfControlWord : Prop :=
  (∀ c, ctlParts (seqInstr c) = some c) ∧
  ∀ i c, WellFormed i = true → ctlParts i = some c → seqInstr c = i

/-- Decode reads back what encode writes, and no bit of a bundle is dropped (11 R298, R300, R303). -/
def Obligations.RoundTrip : Prop := Says.DecodeEncode ∧ Says.EncodeDecode ∧ Says.FormsOfControlWord

/-- Words printed in the spec decode to what it prints them for: the two bundles of Table 11.13, the ATOM of 12 R328's example, the all-zero
bundle (14 R418), and the MMA.G.J of 14 Table 14.3. -/
def Obligations.SpecWordsDecode : Prop :=
  decode (0x30004508100000500D02000000000000) =
    some (.iadd { sub := 0, gneg := false, gpred := 0, dst := 5, a := 3, b := 0x102, c := 0, aux := 0, imm := 0 },
      { nsel := 3, ntgt := 4, npred := 2, nneg := true, rg := false, stall := 1, yld := false, rsv := 0 }) ∧
  decode (0x1FFFF01C3002C0902707002000000000) =
    some (.fadd { sub := 0, gneg := true, gpred := 3, dst := 9, a := 9, b := 0x307, c := 0, aux := 0x20, imm := 0 },
      { nsel := 1, ntgt := 0xFFFF, npred := 0, nneg := false, rg := false, stall := 3, yld := true, rsv := 0 }) ∧
  (∃ o c, decode (0x00000000660800642300011800000000) = some (.atom o, c) ∧ o.sub = 2 ∧ opnd o.a = .s 8) ∧
  (∃ o c, decode (0x00000000923400042B00C00000000007) = some (.mmaGJ o, c) ∧ o.sub = 0x0D ∧ opnd o.a = .s 10 ∧ o.dst = 0 ∧
    o.b = 0x300 ∧ o.c = 0x300 ∧ o.aux = 0 ∧ o.imm = 7) ∧
  (∃ o c, decode 0 = some (.nop o, c) ∧ seqInstr c = .seqF c)

/-! ### Integer arithmetic, logic and bits (13 R380-R382, R392; 12 R334-R338, R348; 14 R414, R426; 15 R447, R450, R474) -/

/-- IADD, ISUB, IMUL, IMULH, IMAD, IMIN, IMAX and IABS of every type code, wrapped or saturated (13 Table 13.2). -/
def Obligations.IntegerResults : Prop :=
  ∀ o : Opw, let t := o.sub.toNat; let w := tyW t; let sat := satBit o
    AluResult .iadd o .raw (typeWords t) (fun a b _ => intResult t w sat (tyVal t w a + tyVal t w b)) ∧
    AluResult .isub o .raw (typeWords t) (fun a b _ => intResult t w sat (tyVal t w a - tyVal t w b)) ∧
    AluResult .imul o .raw (mulWords t)
      (fun a b _ => intResult t (32 * mulWords t) sat (tyVal t (mulW t) a * tyVal t (mulW t) b)) ∧
    AluResult .imulh o .raw (typeWords t)
      (fun a b _ => (wrapInt ((tyVal t w a * tyVal t w b).fdiv ((2 ^ w : Nat) : Int)) w, 0)) ∧
    AluResult .imad o .raw (mulWords t)
      (fun a b c => intResult t (32 * mulWords t) sat
        (tyVal t (mulW t) a * tyVal t (mulW t) b + tyVal t (32 * mulWords t) c)) ∧
    AluResult .imin o .raw (typeWords t) (fun a b _ => (if tyVal t w b < tyVal t w a then b else a, 0)) ∧
    AluResult .imax o .raw (typeWords t) (fun a b _ => (if tyVal t w a < tyVal t w b then b else a, 0)) ∧
    AluResult .iabs o .raw (typeWords t) (fun a _ _ => intResult t w sat (sextNat a w).natAbs)

/-- What the narrowing of an exact result does (04 R98): without SAT it is the result modulo 2^w; with SAT the nearest number of the
type's range, with the SAT flag exactly when the exact result lies outside it. -/
def Obligations.IntegerNarrowing : Prop :=
  ∀ (t : Nat) (r : Int), t < 4 → let w := tyW t
    let lo : Int := if tySigned t then -(2 ^ (w - 1) : Nat) else 0
    let hi : Int := if tySigned t then (2 ^ (w - 1) : Nat) - 1 else (2 ^ w : Nat) - 1
    intResult t w false r = ((r % (2 ^ w : Nat)).toNat, 0) ∧
    (intResult t w true r).1 = ((max lo (min hi r)) % (2 ^ w : Nat)).toNat ∧
    (intResult t w true r).2 = (if lo ≤ r ∧ r ≤ hi then 0 else 32)

/-- 13 R392: LEA's opcode, its legal SUB and AUX, its latency, and its three forms. -/
def Obligations.LeaRule : Prop :=
  (∀ o, opInstr 0x18 o = some (.lea o)) ∧
  (∀ o b, (shape b (.lea o)).lat = 2 ∧ ((o.sub.toNat > 2 ∨ o.aux ≠ 0) → (shape b (.lea o)).illop o = true)) ∧
  ∀ o : Opw,
    (o.sub = 0 → AluResult .lea o .raw 1 (fun a b s => (((a : Int) + b * 2 ^ (s % 32)) % 2 ^ 32 |>.toNat, 0))) ∧
    (o.sub = 1 → AluResult .lea o .raw 2 (fun a b s => (((a : Int) + b * 2 ^ (s % 64)) % 2 ^ 64 |>.toNat, 0))) ∧
    (o.sub = 2 → AluResult .lea o .raw 2 (fun a b s => (((a : Int) + sextNat b 32 * 2 ^ (s % 64)) % 2 ^ 64 |>.toNat, 0)))

/-- 15 R474: the opcodes, legality, latency and results of AND, OR, XOR and NOT. -/
def Obligations.BitwiseRule : Prop :=
  (∀ o, opInstr 0x20 o = some (.andB o) ∧ opInstr 0x21 o = some (.orB o) ∧ opInstr 0x22 o = some (.xorB o) ∧
    opInstr 0x23 o = some (.notB o)) ∧
  (∀ o b i, i ∈ [Instr.andB o, .orB o, .xorB o, .notB o] → (shape b i).lat = 2 ∧ (shape b i).alu = true ∧
    ((o.sub.toNat > 1 ∨ o.c ≠ 0 ∨ o.aux ≠ 0 ∨ (i = .notB o ∧ o.b ≠ 0)) → (shape b i).illop o = true)) ∧
  ∀ o : Opw, let n := if o.sub = 0 then 1 else 2
    AluResult .andB o .raw n (fun a b _ => (a &&& b, 0)) ∧
    AluResult .orB o .raw n (fun a b _ => (a ||| b, 0)) ∧
    AluResult .xorB o .raw n (fun a b _ => (a ^^^ b, 0)) ∧
    AluResult .notB o .raw n (fun a _ _ => (2 ^ (32 * n) - 1 - a, 0))

/-- LOGT, SHL, SHR, SAR, FSHF, BFE, BFI and BPERM (13 R393, R374; 15 R447; 12 R334, R335, R337). -/
def Says.ShiftAndFieldResults : Prop :=
  ∀ o : Opw, let n := if o.sub = 0 then 1 else 2; let w := 32 * n
    AluResult .logt o .raw n (fun a b c => (truth3 w (o.imm.toNat % 256) a b c, 0)) ∧
    AluResult .shl o .raw n (fun a b _ => (if b ≥ w then 0 else a * 2 ^ b % 2 ^ w, 0)) ∧
    AluResult .shr o .raw n (fun a b _ => (if b ≥ w then 0 else a / 2 ^ b, 0)) ∧
    AluResult .sar o .raw n (fun a b _ => (wrapInt ((sextNat a w).fdiv ((2 ^ min b w : Nat) : Int)) w, 0)) ∧
    AluResult .fshf o .raw 1 (fun lo hi c =>
      let v := hi * 2 ^ 32 + lo
      let k := if o.sub.toNat < 2 then c % 32 else min c 32
      (if o.sub.toNat % 2 = 0 then v * 2 ^ k / 2 ^ 32 % 2 ^ 32 else v / 2 ^ k % 2 ^ 32, 0)) ∧
    AluResult .bperm o .raw 1 (fun a b c => (if o.sub = 0 then bpermSel a b c else bpermTab (o.sub == 2) a b, 0)) ∧
    AluResult .bfe o .raw (if o.sub.toNat < 2 then 1 else 2) (fun a b _ =>
      let w := if o.sub.toNat < 2 then 32 else 64
      let f := fieldOf w b
      let x := a / 2 ^ f.1 % 2 ^ f.2
      (if f.2 = 0 then 0 else if o.sub.toNat % 2 = 1 then wrapInt (sextNat x f.2) w else x, 0)) ∧
    AluResult .bfi o .raw n (fun a b c =>
      let f := fieldOf w c
      (if f.2 = 0 then b else b - (b / 2 ^ f.1 % 2 ^ f.2) * 2 ^ f.1 + (a % 2 ^ f.2) * 2 ^ f.1, 0))

/-- What the bit functions of those results are: a truth table read bit by bit, a field's position and clamped length (12 R334), and a
byte chosen by each selector nibble (12 R337). -/
def Says.BitFunctions : Prop :=
  (∀ w tt a b c i, i < w → tt < 256 → (truth3 w tt a b c).testBit i =
    tt.testBit ((a.testBit i).toNat + 2 * (b.testBit i).toNat + 4 * (c.testBit i).toNat)) ∧
  (∀ w ctl, (fieldOf w ctl).1 = ctl % 256 ∧
    ((fieldOf w ctl).1 < w → (fieldOf w ctl).2 = min (ctl / 256 % 256) (w - (fieldOf w ctl).1)) ∧
    (w ≤ (fieldOf w ctl).1 → (fieldOf w ctl).2 = 0)) ∧
  (∀ a b c i, i < 4 → a < 2 ^ 32 → c / 16 ^ i % 16 < 8 →
    bpermSel a b c / 256 ^ i % 256 = (a + 2 ^ 32 * b) / 256 ^ (c / 16 ^ i % 16) % 256)

/-- The bit operations: their results and frame, and their functions bit by bit. -/
def Obligations.ShiftAndFieldResults : Prop := Says.ShiftAndFieldResults ∧ Says.BitFunctions

/-- 12 R338: BREV's opcode, legality, latency and result. -/
def Obligations.BrevRule : Prop :=
  (∀ o, opInstr 0x2D o = some (.brev o)) ∧
  (∀ o b, (shape b (.brev o)).lat = 2 ∧
    ((o.sub.toNat > 1 ∨ o.b ≠ 0 ∨ o.c ≠ 0) → (shape b (.brev o)).illop o = true)) ∧
  ∀ o : Opw, let n := if o.sub = 0 then 1 else 2; let w := 32 * n
    ∃ f : Nat → Nat, AluResult .brev o .raw n (fun a _ _ => (f a, 0)) ∧
      ∀ a i, i < w → (f a).testBit i = a.testBit (w - 1 - i)

/-- 12 R348: CLZ's opcode, legality, latency and result. -/
def Obligations.ClzRule : Prop :=
  (∀ o, opInstr 0x2C o = some (.clz o)) ∧
  (∀ o b, (shape b (.clz o)).lat = 2 ∧
    ((o.sub.toNat > 1 ∨ o.b ≠ 0 ∨ o.c ≠ 0) → (shape b (.clz o)).illop o = true)) ∧
  ∀ o : Opw, let w := if o.sub = 0 then 32 else 64
    ∃ f : Nat → Nat, AluResult .clz o .raw 1 (fun a _ _ => (f a, 0)) ∧ f 0 = w ∧
      ∀ a, 0 < a → a < 2 ^ w → f a < w ∧ a.testBit (w - 1 - f a) = true ∧ ∀ i, w - 1 - f a < i → a.testBit i = false

/-- 14 R426: POPC's opcode, legality, latency and result. -/
def Obligations.PopcRule : Prop :=
  (∀ o, opInstr 0x2B o = some (.popc o)) ∧
  (∀ o b, (shape b (.popc o)).lat = 2 ∧ (shape b (.popc o)).alu = true ∧
    ((o.sub.toNat > 1 ∨ o.b ≠ 0 ∨ o.c ≠ 0 ∨ o.aux ≠ 0) → (shape b (.popc o)).illop o = true)) ∧
  ∀ o : Opw, AluResult .popc o .raw 1
    (fun a _ _ => (((List.range (if o.sub = 0 then 32 else 64)).countP fun i => a.testBit i), 0))

/-- 13 R381: ICMP's opcode, its reserved conditions, its latency and its truth. -/
def Obligations.IcmpRule : Prop :=
  (∀ o, opInstr 0x19 o = some (.icmp o)) ∧
  (∀ o b, (shape b (.icmp o)).lat = 2 ∧
    ((o.sub.toNat % 8 ≥ 6 ∨ o.c ≠ 0 ∨ o.aux ≠ 0) → (shape b (.icmp o)).illop o = true)) ∧
  ∀ o : Opw, let t := o.sub.toNat / 8
    CmpResult .icmp o .raw (fun a b =>
      let x := tyVal t (tyW t) a
      let y := tyVal t (tyW t) b
      (match o.sub.toNat % 8 with
        | 0 => x == y | 1 => x != y | 2 => decide (x < y) | 3 => decide (x ≤ y) | 4 => decide (y < x) | _ => decide (y ≤ x), 0))

/-- MOV of registers (14 R414): the source's words in the destination. -/
def Says.MovResults : Prop :=
  ∀ o : Opw, (o.sub = 0 → AluResult .mov o .raw 1 (fun a _ _ => (a, 0))) ∧
    (o.sub = 1 → AluResult .mov o .raw 2 (fun a _ _ => (a, 0)))

/-- IDIV by a divisor that is zero in no lane (13 R382): the quotient rounded towards zero or the remainder with the dividend's sign;
the quotient of the least number by -1 wraps, or clamps with the SAT flag. -/
def Says.IdivResults : Prop :=
  ∀ (o : Opw) (s : State) (is : Issue), Issues (.idiv o) o s is noBad noRd noMore →
    let sh := shape false (.idiv o)
    let lanes := effLanes s is sh o
    let pp := takePops s is sh o
    let a := srcA (.idiv o) o s is pp
    let b := srcB (.idiv o) o s is pp
    (∀ l ∈ lanes, b l ≠ 0) →
    let r := fun l => idivResult o.sub.toNat (satBit o) (a l) (b l)
    let flags := lanes.foldl (fun f l => f ||| (r l).2) 0
    trapsOf (s.fpctlOf is.ag) flags = 0 →
    ∃ t, exec (.idiv o) s = .next t ∧ ResultAt t is.ag o.dst (typeWords o.sub.toNat) lanes (fun l => (r l).1) ∧
      AgentKept pp.2 t is.ag o.dst (typeWords o.sub.toNat) lanes flags ∧ OthersKept is.ag s t ∧ DeviceKept s t ∧
      FlightsKept s t ∧ MemKept s t

/-- A zero divisor in a lane that IDIV acts in raises IDIVZ, and no lane is written (13 R382). -/
def Says.IdivZero : Prop :=
  ∀ (o : Opw) (s : State) (is : Issue), Issues (.idiv o) o s is noBad noRd noMore →
    let sh := shape false (.idiv o)
    let pp := takePops s is sh o
    let zeros := (effLanes s is sh o).filter fun l => srcB (.idiv o) o s is pp l = 0
    zeros ≠ [] →
    ∃ fsub, exec (.idiv o) s = runOp s (s.takeCause is.ag .fault
      { causes := 2 ^ 16, faddr := 0, fsub := fsub, fmask := if sh.scalarDst o then guardMask s is o else maskOf zeros })

/-- IDIV to a queue pushes the low word of its result (07 R188). -/
def Says.IdivPush : Prop :=
  ∀ (o : Opw) (s : State) (is : Issue) (gid fid k : Nat) (g : Gang), PushIssues (.idiv o) o s is gid fid k g →
    let lanes := effLanes s is (shape false (.idiv o)) o
    let pp := takePops s is (shape false (.idiv o)) o
    (∀ l ∈ lanes, srcB (.idiv o) o s is pp l ≠ 0) →
    let r := fun l => idivResult o.sub.toNat (satBit o) (srcA (.idiv o) o s is pp l) (srcB (.idiv o) o s is pp l)
    let flags := lanes.foldl (fun f l => f ||| (r l).2) 0
    trapsOf (s.fpctlOf is.ag) flags = 0 → Pushes (.idiv o) s pp.2 is.ag gid k lanes (fun l => (r l).1) flags

/-- IDIV by a divisor that is zero in no lane, to registers and to a queue, and by one that is zero in a lane (13 R382). -/
def Obligations.IdivForms : Prop := Says.IdivResults ∧ Says.IdivPush ∧ Says.IdivZero

/-- MOV to a loop counter (14 R414): the fragment's or the context's counter takes the source when the guard holds; no other register of
the agent changes. -/
def Says.MovToLoopCounter : Prop :=
  ∀ (o : Opw) (s : State) (is : Issue), Issues (.mov o) o s is noBad noRd noMore → o.sub = 2 → anyGuard s is o = true →
    ∃ t, exec (.mov o) s = .next t ∧ MemKept s t ∧ DeviceKept s t ∧ OthersKept is.ag s t ∧
      t.rdLc is.ag (o.dst.toNat % 4) = BitVec.ofNat 32 (srcVal s is o (shape false (.mov o)).a o.a .raw 1 [] 0) ∧
      (∀ n, n < 4 → n ≠ o.dst.toNat % 4 → t.rdLc is.ag n = s.rdLc is.ag n) ∧ FlightsKept s t ∧
      (∀ gid fid g f, is.ag = .gang gid fid → s.gang? gid = some g → s.frag? gid fid = some f →
        ∃ g' lc, t.gang? gid = some g' ∧ OnlyFrag g g' fid { f with lc := lc }) ∧
      ∀ n, is.ag = .ctx n → { (t.ctx n).bare with lc := (s.ctx n).lc } = (s.ctx n).bare

/-- MOV from a loop counter outside any latency (14 R414), to a register and to a queue. -/
def Says.MovFromLoopCounter : Prop :=
  (∀ (o : Opw) (s : State) (is : Issue), Issues (.mov o) o s is noBad noRd noMore → o.sub = 3 → s.hazOf is.ag = [] →
    WritesReg (.mov o) o s s is 1 (effLanes s is (shape false (.mov o)) o) (fun _ => (s.rdLc is.ag (o.a.toNat % 4)).toNat) 0) ∧
  ∀ (o : Opw) (s : State) (is : Issue) (gid fid k : Nat) (g : Gang), PushIssues (.mov o) o s is gid fid k g → o.sub = 3 →
    s.hazOf is.ag = [] →
    Pushes (.mov o) s s is.ag gid k (effLanes s is (shape false (.mov o)) o) (fun _ => (s.rdLc is.ag (o.a.toNat % 4)).toNat) 0

/-- A full queue, or one without the words to pop, blocks the fragment at its MOV, which it will issue again (07 R188, 02 R35): nothing is
popped, pushed or written. -/
def Says.MovWaitsForQueue : Prop :=
  ∀ (o : Opw) (s : State) (is : Issue) (gid fid : Nat) (f : Frag), s.issue = some is → s.journal = [] →
    decodeCauses (.mov o) o is s false [] 0 = 0 → jindTrap is = none → is.ag = .gang gid fid → s.frag? gid fid = some f →
    queuesReady s is (shape false (.mov o)) o = false →
    ∃ t, exec (.mov o) s = .next t ∧ t.issue = none ∧ MemKept s t ∧ t.flights = s.flights ∧ OthersKept is.ag s t ∧
      (∀ g, s.gang? gid = some g → ∃ g', t.gang? gid = some g' ∧ { g' with frags := g.frags } = g) ∧
      t.frag? gid fid = some { f with stat := .blocked .queue, blockedAt := s.cycleOf is.ag }

/-- The MOV whose word completes a packet of 16 words at a LAU_CMD port (07 R186, R189, R207): the engine that the binding names takes the
packet and the queue is empty, with no register and no other queue changed; a faulty packet raises ENGFAULT, and the word is not pushed. -/
def Says.MovCompletesPacket : Prop :=
  ∀ (o : Opw) (s : State) (is : Issue) (gid fid k : Nat) (g : Gang), s.issue = some is → s.journal = [] →
    decodeCauses (.mov o) o is s false [] 0 = 0 → jindTrap is = none → is.ag = .gang gid fid → (s.frag? gid fid).isSome = true →
    s.gang? gid = some g → o.sub = 0 → (shape false (.mov o)).dst.queueOf o.dst = some k → anyGuard s is o = true →
    queuesReady s is (shape false (.mov o)) o = true → g.port k = 6 → (g.qwords k).length = 15 →
    let pp := takePops s is (shape false (.mov o)) o
    let x := wordsNat (g.qwords k ++ [wordOf (srcA (.mov o) o s is pp 0) 0])
    let e := 4 * clusterOf g.core + ((g.q.getD k { bind := 0, words := [] }).bind).toNat / 256 % 4
    ((lauterBad x = true ∨ lauterOutside x (2 ^ s.partOf is.ag) = true) →
      ∃ ti : TrapInfo, ti.causes = cENGFAULT ∧ exec (.mov o) s = runOp s (s.takeCause is.ag .fault ti)) ∧
    (lauterBad x = false → lauterOutside x (2 ^ s.partOf is.ag) = false → s.cmdFull e = false →
      ∃ t g', exec (.mov o) s = .next t ∧ MemKept s t ∧ t.gang? gid = some g' ∧ g'.qwords k = [] ∧
        t.cmdq e = s.cmdq e ++ [lauterFields x (s.pasidOf (.gang gid 0)) (s.partOf (.gang gid 0)) [] (some g.wid)] ∧
        (∀ e', e' ≠ e → t.cmdq e' = s.cmdq e') ∧
        (∀ g1, pp.2.gang? gid = some g1 → ({ g'.bare with q := g1.q } : Gang) = g1.bare ∧ g'.port k = g1.port k ∧
          ∀ j, j ≠ k → g'.q[j]? = g1.q[j]?) ∧
        OthersKept is.ag s t ∧ FlightsKept s t ∧
        ({ t with gangs := s.gangs, ctxs := s.ctxs, flights := s.flights, cmdqs := s.cmdqs } : State) = s)

/-- MOV of registers, to a loop counter and from one (14 R414), and to a queue (07 R188). -/
def Obligations.MovForms : Prop :=
  Says.MovResults ∧ Says.MovToLoopCounter ∧ Says.MovFromLoopCounter ∧ Says.MovWaitsForQueue ∧ Says.MovCompletesPacket

/-- 15 R450: SEL's opcode, legality, latency and result. -/
def Obligations.SelRule : Prop :=
  (∀ o, opInstr 0x1A o = some (.sel o)) ∧
  (∀ o b, (shape b (.sel o)).lat = 2 ∧ ((o.sub.toNat > 1 ∨ o.aux ≠ 0) → (shape b (.sel o)).illop o = true) ∧
    ((shape b (.sel o)).scalarDst o = true → o.c.getLsbD 3 = false → (shape b (.sel o)).illop o = true)) ∧
  (∀ (o : Opw) (s : State) (is : Issue), Issues (.sel o) o s is noBad noRd noMore →
    let sh := shape false (.sel o)
    let pp := takePops s is sh o
    WritesReg (.sel o) o s pp.2 is (if o.sub = 0 then 1 else 2) (effLanes s is sh o)
      (fun l => if predVal s is o.c 3 l then srcA (.sel o) o s is pp l else srcB (.sel o) o s is pp l) 0) ∧
  ∀ (o : Opw) (s : State) (is : Issue) (gid fid k : Nat) (g : Gang), PushIssues (.sel o) o s is gid fid k g →
    let pp := takePops s is (shape false (.sel o)) o
    Pushes (.sel o) s pp.2 is.ag gid k (effLanes s is (shape false (.sel o)) o)
      (fun l => if predVal s is o.c 3 l then srcA (.sel o) o s is pp l else srcB (.sel o) o s is pp l) 0

/-! ### Floating point (04 R89-R123; 12 R353-R356; 13 R365-R373, R378; 15 R471) -/

/-- FADD, FMUL, FMAC, FMIN, FMAX, FRND, CVT, VDOT, the packed halves and FP64: the exact value rounded once in the mode of AUX, with its
flags. -/
def Obligations.FloatResults : Prop :=
  ∀ o : Opw, let m := rndOf o; let h := halfFmt o; let hw : Widen := .half (o.sub != 0)
    AluResult .fadd o .raw 1 (fun a b _ => fp32.finish m ((fp32.decode a).add m (fp32.decode b))) ∧
    AluResult .fmul o .raw 1 (fun a b _ => fp32.finish m ((fp32.decode a).mul (fp32.decode b))) ∧
    AluResult .fmac o .raw 1 (fun a b c => fp32.finish m ((fp32.decode a).fma m (fp32.decode b) (fp32.decode c))) ∧
    AluResult .fmin o .raw 1 (fun a b _ => fpMinMax fp32 false a b) ∧
    AluResult .fmax o .raw 1 (fun a b _ => fpMinMax fp32 true a b) ∧
    AluResult .frnd o .raw 1 (fun a _ _ => frndBits m a) ∧
    AluResult .cvt o (if o.b.toNat = 19 then .f64 else .raw) (if cvtWide o.sub.toNat then 2 else 1)
      (fun a _ _ => cvtBits o.sub.toNat o.b.toNat m (satBit o) a) ∧
    AluResult .vdot o (vdotWiden o) 1 (fun a b c => vdotBits o.sub.toNat m (satBit o) a b c) ∧
    AluResult .hadd2 o hw 1 (halves fun a b _ => fpAdd h m a b) ∧
    AluResult .hmul2 o hw 1 (halves fun a b _ => fpMul h m a b) ∧
    AluResult .hmac2 o hw 1 (halves fun a b c => fpFma h m a b c) ∧
    AluResult .dadd o .f64 2 (fun a b _ => fp64.finish m ((fp64.decode a).add m (fp64.decode b))) ∧
    AluResult .dmul o .f64 2 (fun a b _ => fp64.finish m ((fp64.decode a).mul (fp64.decode b))) ∧
    AluResult .dmac o .f64 2 (fun a b c => fp64.finish m ((fp64.decode a).fma m (fp64.decode b) (fp64.decode c)))

/-- FRCP, FRSQ, FSQRT, FEX2, FLG2, FSIN, FCOS and FDIV (13 Table 13.1); the approximate ones give what their functions allow of the
device's free candidate (log entry 9). -/
def Obligations.SpecialFunctionResults : Prop :=
  ∀ o : Opw, let m := rndOf o
    AluResult .frcp o .raw 1 (fun a _ _ => fp32.finish m ((RVal.fin false 1 1).div (fp32.decode a))) ∧
    AluResult .fdiv o .raw 1 (fun a b _ => fp32.finish m ((fp32.decode a).div (fp32.decode b))) ∧
    AluResult .fsqrt o .raw 1 (fun a _ _ => fp32.finish m (fp32.decode a).sqrt) ∧
    AluResult .frsq o .raw 1 (fun a _ _ => frsq a) ∧ AluResult .fex2 o .raw 1 (fun a _ _ => fex2 a) ∧
    AluResult .flg2 o .raw 1 (fun a _ _ => flg2 a) ∧ AluResult .fsin o .raw 1 (fun a _ _ => fsincos false a) ∧
    AluResult .fcos o .raw 1 (fun a _ _ => fsincos true a)

/-- FCMP, DCMP and FCLASS (13 R366, R367; 12 R356). -/
def Says.FloatCompareResults : Prop :=
  ∀ o : Opw,
    CmpResult .fcmp o .raw (fun a b => fpCompare o.sub.toNat (fp32.decode a) (fp32.decode b)) ∧
    CmpResult .dcmp o .f64 (fun a b => fpCompare o.sub.toNat (fp64.decode a) (fp64.decode b)) ∧
    CmpResult .fclass o .raw (fun a b => (b.testBit (fclassBit a), 0))

/-- Unordered operands make every ordered condition false and flag NV for LT, LE, GT and GE (12 R356, Table 12.7). -/
def Says.UnorderedCompares : Prop :=
  ∀ (a b : RVal) (c : Nat), (a.isNan = true ∨ b.isNan = true) →
    (fpCompare c a b).1 = decide (c = 1 ∨ c = 7) ∧ (2 ≤ c → c ≤ 5 → (fpCompare c a b).2 = fNV)

/-- FCMP, DCMP and FCLASS, and what unordered operands give (13 R366, R367; 12 R356). -/
def Obligations.FloatCompares : Prop := Says.FloatCompareResults ∧ Says.UnorderedCompares

/-- 04 R113: FMIN and FMAX, and REDF's MIN and MAX on floating-point data: of one NaN the numeric operand, of two the canonical NaN,
-0 below +0, and NV exactly for a signalling NaN. -/
def Obligations.MinMaxRule : Prop :=
  (∀ (f : FFmt) (mx : Bool) (x y : Nat), let a := f.decode x; let b := f.decode y
    (a.isNan = true → b.isNan = false → (fpMinMax f mx x y).1 = y) ∧
    (a.isNan = false → b.isNan = true → (fpMinMax f mx x y).1 = x) ∧
    (a.isNan = true → b.isNan = true → (fpMinMax f mx x y).1 = f.cnan) ∧
    (fpMinMax f mx x y).2 = sigFlags [a, b]) ∧
  (fpMinMax fp32 false 0x80000000 0 = (0x80000000, 0) ∧ fpMinMax fp32 false 0 0x80000000 = (0x80000000, 0) ∧
    fpMinMax fp32 true 0x80000000 0 = (0, 0) ∧ fpMinMax fp32 true 0 0x80000000 = (0, 0)) ∧
  (∀ a b : RVal, sigFlags [a, b] = fNV ↔ (∃ neg, a = .nan true neg) ∨ ∃ neg, b = .nan true neg) ∧
  (∀ o, AluResult .fmin o .raw 1 (fun a b _ => fpMinMax fp32 false a b) ∧
    AluResult .fmax o .raw 1 (fun a b _ => fpMinMax fp32 true a b)) ∧
  (∀ mode x y, redOp 1 2 mode x y = fpMinMax fp32 false x y ∧ redOp 2 2 mode x y = fpMinMax fp32 true x y ∧
    redOp 1 5 mode x y = fpMinMax fp64 false x y ∧ redOp 2 5 mode x y = fpMinMax fp64 true x y)

/-- REDF or SCANF with an enabled trap among the flags of its reduction: the trap is taken in place of every write (04 R112). -/
def ReductionTraps (mk : Opw → Instr) (flags : Nat → Nat → Nat → List Nat → Nat) : Prop :=
  ∀ (o : Opw) (s : State) (is : Issue) (gid fid : Nat), IssuesAny (mk o) o s is gid fid → anyGuard s is o = true →
    let pp := takePops s is (shape false (mk o)) o
    let ty := o.sub.toNat % 8
    let fl := flags (o.sub.toNat / 8) ty (rndOf o)
      ((activeLanes s is).map fun l => srcVal s is o (shape false (mk o)).a o.a (redWiden ty) 1 pp.1.1 l)
    trapsOf (s.fpctlOf is.ag) fl ≠ 0 → TrapsInstead (mk o) s gid fid fl (trapsOf (s.fpctlOf is.ag) fl)

/-- A flag whose trap is enabled in SR_FPCTL is taken in place of every write (04 R112), for each operation that sets floating-point flags,
to a register, a predicate or a queue: FADD, FMUL, FMAC, FDIV, FRCP, FSQRT, FRSQ, FEX2, FLG2, FSIN, FCOS, FMIN, FMAX, FRND, CVT, VDOT, DADD,
DMUL, DMAC, HADD2, HMUL2, HMAC2, FCMP, DCMP, REDF and SCANF. -/
def Obligations.FlagTraps : Prop :=
  ∀ o : Opw, let m := rndOf o
    AluTraps .fadd o .raw (fun a b _ => fp32.finish m ((fp32.decode a).add m (fp32.decode b))) ∧
    AluTraps .fmul o .raw (fun a b _ => fp32.finish m ((fp32.decode a).mul (fp32.decode b))) ∧
    AluTraps .fmac o .raw (fun a b c => fp32.finish m ((fp32.decode a).fma m (fp32.decode b) (fp32.decode c))) ∧
    AluTraps .fdiv o .raw (fun a b _ => fp32.finish m ((fp32.decode a).div (fp32.decode b))) ∧
    AluTraps .frcp o .raw (fun a _ _ => fp32.finish m ((RVal.fin false 1 1).div (fp32.decode a))) ∧
    AluTraps .fsqrt o .raw (fun a _ _ => fp32.finish m (fp32.decode a).sqrt) ∧
    AluTraps .frsq o .raw (fun a _ _ => frsq a) ∧ AluTraps .fex2 o .raw (fun a _ _ => fex2 a) ∧
    AluTraps .flg2 o .raw (fun a _ _ => flg2 a) ∧ AluTraps .fsin o .raw (fun a _ _ => fsincos false a) ∧
    AluTraps .fcos o .raw (fun a _ _ => fsincos true a) ∧
    AluTraps .fmin o .raw (fun a b _ => fpMinMax fp32 false a b) ∧
    AluTraps .fmax o .raw (fun a b _ => fpMinMax fp32 true a b) ∧
    AluTraps .frnd o .raw (fun a _ _ => frndBits m a) ∧
    AluTraps .cvt o (if o.b.toNat = 19 then .f64 else .raw) (fun a _ _ => cvtBits o.sub.toNat o.b.toNat m (satBit o) a) ∧
    AluTraps .vdot o (vdotWiden o) (fun a b c => vdotBits o.sub.toNat m (satBit o) a b c) ∧
    AluTraps .dadd o .f64 (fun a b _ => fp64.finish m ((fp64.decode a).add m (fp64.decode b))) ∧
    AluTraps .dmul o .f64 (fun a b _ => fp64.finish m ((fp64.decode a).mul (fp64.decode b))) ∧
    AluTraps .dmac o .f64 (fun a b c => fp64.finish m ((fp64.decode a).fma m (fp64.decode b) (fp64.decode c))) ∧
    AluTraps .hadd2 o (.half (o.sub != 0)) (halves fun a b _ => fpAdd (halfFmt o) m a b) ∧
    AluTraps .hmul2 o (.half (o.sub != 0)) (halves fun a b _ => fpMul (halfFmt o) m a b) ∧
    AluTraps .hmac2 o (.half (o.sub != 0)) (halves fun a b c => fpFma (halfFmt o) m a b c) ∧
    ReductionTraps .redf (fun op ty mode l => (redAll op ty mode l).2) ∧
    ReductionTraps .scanf (fun op ty mode l => (scanAll op ty mode l).2) ∧
    CmpTraps .fcmp o .raw (fun a b => fpCompare o.sub.toNat (fp32.decode a) (fp32.decode b)) ∧
    CmpTraps .dcmp o .f64 (fun a b => fpCompare o.sub.toNat (fp64.decode a) (fp64.decode b))

/-! ### Predicates and lanes (14 R400, R401, R424, R425, R435, R436; 15 R448-R452, R472) -/

/-- PLOP and PMOV's four forms (14 R424, R425), and a predicate pushed to a queue. -/
def Says.PredicateResults : Prop :=
  (∀ (o : Opw) (s : State) (is : Issue) (gid fid k : Nat) (g : Gang), PushIssues (.pmov o) o s is gid fid k g → o.sub = 1 →
    Pushes (.pmov o) s s is.ag gid k (effLanes s is (shape false (.pmov o)) o) (fun l => (predVal s is o.a 1 l).toNat) 0) ∧
  (∀ (o : Opw) (s : State) (is : Issue), Issues (.plop o) o s is noBad noRd noMore →
    WritesTruth (.plop o) o s s is (effLanes s is (shape false (.plop o)) o) (fun l =>
      o.imm.getLsbD ((predVal s is o.a 1 l).toNat + 2 * (predVal s is o.b 2 l).toNat + 4 * (predVal s is o.c 3 l).toNat))) ∧
  (∀ (o : Opw) (s : State) (is : Issue),
    Issues (.pmov o) o s is noBad (fun _ => if o.sub = 2 then
      ((List.range 8).filter fun n => o.imm.getLsbD n).map fun n => if o.imm.getLsbD 8 then RegId.k n else .p n else []) noMore →
    let sh := shape false (.pmov o)
    let lanes := effLanes s is sh o
    let pp := takePops s is sh o
    (o.sub = 0 → WritesTruth (.pmov o) o s pp.2 is lanes (fun l => decide (srcA (.pmov o) o s is pp l ≠ 0))) ∧
    (o.sub = 1 → WritesReg (.pmov o) o s s is 1 lanes (fun l => (predVal s is o.a 1 l).toNat) 0) ∧
    (o.sub = 2 → WritesReg (.pmov o) o s s is 1 lanes (fun l => packBits s is (o.imm.getLsbD 8) (o.imm.toNat % 256) l) 0))

/-- PMOV's UNPACK (14 R425): bit n of the source goes to P n in each lane that it acts in, for each n of the mask, P0 ignoring it; or to
K n once. No other register changes. -/
def Says.UnpackResults : Prop :=
  (∀ (o : Opw) (s : State) (is : Issue) (gid fid : Nat) (g : Gang), Issues (.pmov o) o s is noBad (fun _ => []) noMore → o.sub = 3 →
    o.imm.getLsbD 8 = false → is.ag = .gang gid fid →
    let pp := takePops s is (shape false (.pmov o)) o
    pp.2.gang? gid = some g →
    ∃ t g', exec (.pmov o) s = .next t ∧ MemKept s t ∧ DeviceKept s t ∧ OthersKept is.ag s t ∧ t.gang? gid = some g' ∧
      ({ g'.bare with p := g.p } : Gang) = g.bare ∧ FlightsKept s t ∧
      ∀ n l, 0 < n → n < 8 → l < 1024 → (g'.rdP n).getLsbD l =
        if o.imm.getLsbD n = true ∧ l ∈ s.lanesAg is.ag (guardMask s is o) then (srcA (.pmov o) o s is pp l).testBit n
        else (g.rdP n).getLsbD l) ∧
  (∀ (o : Opw) (s : State) (is : Issue), Issues (.pmov o) o s is noBad (fun _ => []) noMore → o.sub = 3 →
    o.imm.getLsbD 8 = true → anyGuard s is o = true →
    let pp := takePops s is (shape false (.pmov o)) o
    ∃ t, exec (.pmov o) s = .next t ∧ MemKept s t ∧ DeviceKept s t ∧ OthersKept is.ag s t ∧
      FlightsKept s t ∧
      (∀ gid fid g, is.ag = .gang gid fid → pp.2.gang? gid = some g →
        ∃ g', t.gang? gid = some g' ∧ ({ g'.bare with k := g.k } : Gang) = g.bare) ∧
      (∀ n, is.ag = .ctx n → { (t.ctx n).bare with k := (s.ctx n).k } = (s.ctx n).bare) ∧
      ∀ n, n < 4 → t.rdK is.ag n =
        if o.imm.getLsbD n = true then (srcA (.pmov o) o s is pp 0).testBit n else s.rdK is.ag n)

/-- PLOP and the four forms of PMOV (14 R424, R425). -/
def Obligations.PredicateForms : Prop := Says.PredicateResults ∧ Says.UnpackResults

/-- VOTE's four kinds (15 R472) over the active lanes in rank order. -/
def Says.VoteResults : Prop :=
  ∀ (o : Opw) (s : State) (is : Issue), Issues (.vote o) o s is noBad noRd noMore →
    let sh := shape false (.vote o)
    let act := activeLanes s is
    let set := act.filter fun l => predVal s is o.a 1 l
    let lanes := effLanes s is sh o
    (o.sub = 0 → WritesTruth (.vote o) o s s is lanes (fun _ => act.any fun l => predVal s is o.a 1 l)) ∧
    (o.sub = 1 → WritesTruth (.vote o) o s s is lanes (fun _ => act.all fun l => predVal s is o.a 1 l)) ∧
    (o.sub = 3 → WritesReg (.vote o) o s s is 1 lanes (fun _ => set.length) 0) ∧
    (o.sub = 2 → ∃ x : Nat, WritesReg (.vote o) o s s is 1 lanes (fun _ => x) 0 ∧ ∀ i, i < 32 →
      x.testBit i = ((act[32 * uniVal s is o sh.b o.b 2 + i]?).any fun l => predVal s is o.a 1 l))

/-- SHFL (15 R451, R452): a lane takes the value of the active lane at the rank that its mode gives within its segment, else its own. -/
def Says.ShuffleResults : Prop :=
  ∀ (o : Opw) (s : State) (is : Issue),
    Issues (.shfl o) o s is (fun is => !segOk (uniVal s is o (shape false (.shfl o)).c o.c 3)) noRd noMore →
    let sh := shape false (.shfl o)
    let pp := takePops s is sh o
    let act := activeLanes s is
    let c := uniVal s is o sh.c o.c 3
    WritesReg (.shfl o) o s pp.2 is (if o.sub.getLsbD 2 then 2 else 1) (s.lanesAg is.ag (guardMask s is o)) (fun l =>
      match (shflRank (o.sub.toNat % 4) c act.length (rankOf is.mask l) (srcB (.shfl o) o s is pp l)).bind (fun q => act[q]?) with
      | some l' => srcA (.shfl o) o s is pp l'
      | none => srcA (.shfl o) o s is pp l) 0

/-- REDF and SCANF without an enabled trap (14 R435, R436; 15 R448, R449), and MATCH (14 R400, R401). -/
def Says.ReductionResults : Prop :=
  (∀ (o : Opw) (s : State) (is : Issue), Issues (.redf o) o s is noBad noRd noMore → anyGuard s is o = true →
    let sh := shape false (.redf o)
    let t := o.sub.toNat % 8
    let pp := takePops s is sh o
    let r := redAll (o.sub.toNat / 8) t (rndOf o)
      ((activeLanes s is).map fun l => srcVal s is o sh.a o.a (redWiden t) 1 pp.1.1 l)
    trapsOf (s.fpctlOf is.ag) r.2 = 0 →
    WritesReg (.redf o) o s pp.2 is (redW t / 32) (effLanes s is sh o) (fun _ => r.1) r.2) ∧
  (∀ (o : Opw) (s : State) (is : Issue), Issues (.scanf o) o s is noBad noRd noMore → anyGuard s is o = true →
    let sh := shape false (.scanf o)
    let op := o.sub.toNat / 8
    let t := o.sub.toNat % 8
    let pp := takePops s is sh o
    let r := scanAll op t (rndOf o) ((activeLanes s is).map fun l => srcVal s is o sh.a o.a (redWiden t) 1 pp.1.1 l)
    trapsOf (s.fpctlOf is.ag) r.2 = 0 →
    WritesReg (.scanf o) o s pp.2 is (redW t / 32) (effLanes s is sh o) (fun l =>
      let k := rankOf is.mask l
      if sh.scalarDst o then r.1.getLastD 0
      else if o.imm.getLsbD 0 then (if k = 0 then redIdentity op t else r.1.getD (k - 1) 0) else r.1.getD k 0) r.2) ∧
  (∀ (o : Opw) (s : State) (is : Issue), Issues (.matchV o) o s is noBad noRd noMore →
    let sh := shape false (.matchV o)
    let pp := takePops s is sh o
    let act := activeLanes s is
    let same := fun l => act.filter fun k => srcA (.matchV o) o s is pp k == srcA (.matchV o) o s is pp l
    (o.sub.toNat / 2 = 0 → WritesReg (.matchV o) o s pp.2 is 1 (effLanes s is sh o)
      (fun l => ((same l).head?.map (rankOf is.mask)).getD 0) 0) ∧
    (o.sub.toNat / 2 = 1 → WritesReg (.matchV o) o s pp.2 is 1 (effLanes s is sh o) (fun l => (same l).length) 0) ∧
    (o.sub.toNat / 2 = 2 → WritesTruth (.matchV o) o s pp.2 is (effLanes s is sh o)
      (fun _ => act.all fun k => act.all fun l => srcA (.matchV o) o s is pp k == srcA (.matchV o) o s is pp l)))

/-- VOTE, SHFL, REDF, SCANF and MATCH. -/
def Obligations.CrossLaneResults : Prop := Says.VoteResults ∧ Says.ShuffleResults ∧ Says.ReductionResults

/-! ### Control (13 R370, R371, R379; 14 R410-R412, R418; 15 R453-R455, R468, R473; 12 R331-R333, R336, R345) -/

/-- 14 R418: NOP's opcode, its fields, and that it changes nothing, whatever its guard; the all-zero bundle is NOP with SEQ. -/
def Obligations.NopRule : Prop :=
  (∀ o, opInstr 0x00 o = some (.nop o)) ∧
  (∀ o b, (o.sub ≠ 0 ∨ o.dst ≠ 0 ∨ o.a ≠ 0 ∨ o.b ≠ 0 ∨ o.c ≠ 0 ∨ o.aux ≠ 0 ∨ o.imm ≠ 0) → (shape b (.nop o)).illop o = true) ∧
  (∀ (o : Opw) (s : State) (is : Issue), Issues (.nop o) o s is noBad noRd noMore → exec (.nop o) s = .next s) ∧
  (∃ o c, decode 0 = some (.nop o, c) ∧ seqInstr c = .seqF c)

/-- SRD (15 R454, R455): the special register's words in the destination, per lane where the register is. -/
def Says.SrdResults : Prop :=
  ∀ (o : Opw) (s : State) (is : Issue) (gid fid w : Nat) (lane : Bool) (rd wr : Nat),
    Issues (.srd o) o s is noBad noRd noMore → is.ag = .gang gid fid →
    srInfo (o.imm.toNat % 65536) = some (w, lane, rd, wr) →
    WritesReg (.srd o) o s s is w (effLanes s is (shape false (.srd o)) o) (srValue s gid fid (o.imm.toNat % 65536)) 0

/-- SWR (15 R454, R455; 04 R110, R115; 07 R201; 09 R251): the special register it names takes the value's legal bits, and nothing else in
the gang changes. SR_DRAWWAIT is what is added to the cycles of a wait still going on (07 R218). A value that FMT or SR_MSET may not hold
raises ILLOP, and nothing is written. -/
def Says.SwrResults : Prop :=
  ∀ (o : Opw) (s : State) (is : Issue) (gid fid : Nat) (g : Gang), Issues (.swr o) o s is noBad noRd noMore → is.ag = .gang gid fid →
    anyGuard s is o = true → s.gang? gid = some g →
    let n := o.imm.toNat % 65536
    let pp := takePops s is (shape false (.swr o)) o
    let x := srcA (.swr o) o s is pp 0
    ∀ g1, pp.2.gang? gid = some g1 →
    (n = 0x010 → fmtOk x = true → ∃ t f, exec (.swr o) s = .next t ∧ t.frag? gid fid = some f ∧ f.fmt = BitVec.ofNat 32 x ∧
      t.gang? gid = some { g1 with frags := g1.frags.upd (fun f => { f with fmt := BitVec.ofNat 32 x }) fid }) ∧
    (n = 0x010 → fmtOk x = false → ∃ ti, exec (.swr o) s = runOp s (s.takeCause is.ag .fault ti) ∧ ti.causes = cILLOP) ∧
    (n = 0x011 → ∃ t, exec (.swr o) s = .next t ∧ t.gang? gid = some { g1 with chk := BitVec.ofNat 32 (x % 2) }) ∧
    (n = 0x012 → ∃ t, exec (.swr o) s = .next t ∧ t.gang? gid = some { g1 with fpctl := BitVec.ofNat 32 (x % 32) }) ∧
    (n = 0x013 → ∃ t, exec (.swr o) s = .next t ∧ t.gang? gid = some { g1 with fpstat := BitVec.ofNat 32 (x % 64) }) ∧
    (n = 0x014 → msetOk g.num (((s.gridOf g).map fun r => r.lr.gangs).getD 0) x = true →
      ∃ t, exec (.swr o) s = .next t ∧ t.gang? gid = some { g1 with mset := BitVec.ofNat 32 x }) ∧
    (n = 0x014 → msetOk g.num (((s.gridOf g).map fun r => r.lr.gangs).getD 0) x = false →
      ∃ ti, exec (.swr o) s = runOp s (s.takeCause is.ag .fault ti) ∧ ti.causes = cILLOP) ∧
    (n = 0x015 → ∃ t, exec (.swr o) s = .next t ∧ t.gang? gid = some { g1 with vplo := BitVec.ofNat 32 x }) ∧
    (n = 0x016 → ∃ t, exec (.swr o) s = .next t ∧ t.gang? gid = some { g1 with vphi := BitVec.ofNat 32 x }) ∧
    (n = 0x017 → ∃ t, exec (.swr o) s = .next t ∧
      t.gang? gid = some { g1 with drawwait := BitVec.ofNat 32 x - BitVec.ofNat 32 (s.drawPending gid) }) ∧
    (n = 0x031 → ∃ t, exec (.swr o) s = .next t ∧
      t.gang? gid = some { g1 with epc := BitVec.ofNat 64 (x % 2 ^ 57 / 16 * 16 + x % 2) })

/-- SRD and SWR complete (15 R454, R455): a bundle that passes its checks answers a next state, SWR whenever its value is one that FMT or
SR_MSET may hold; one whose guard holds nowhere takes its queue words and writes nothing. -/
def Says.RegisterMovesComplete : Prop :=
  ∀ (o : Opw) (s : State) (is : Issue) (gid fid : Nat) (g : Gang), is.ag = .gang gid fid → s.gang? gid = some g →
    (Issues (.srd o) o s is noBad noRd noMore →
      ∃ t, exec (.srd o) s = .next t ∧ DeviceKept s t ∧ FlightsKept s t ∧ OthersKept is.ag s t ∧ MemKept s t) ∧
    (Issues (.swr o) o s is noBad noRd noMore →
      let n := o.imm.toNat % 65536
      let pp := takePops s is (shape false (.swr o)) o
      let x := srcA (.swr o) o s is pp 0
      (anyGuard s is o = true → (n = 0x010 → fmtOk x = true) →
        (n = 0x014 → msetOk g.num (((s.gridOf g).map fun r => r.lr.gangs).getD 0) x = true) →
        ∃ t, exec (.swr o) s = .next t ∧ DeviceKept s t ∧ FlightsKept s t ∧ OthersKept is.ag s t ∧ MemKept s t) ∧
      (anyGuard s is o = false → ∃ t, exec (.swr o) s = .next t ∧ RegsKept pp.2 t ∧ DeviceKept s t ∧ FlightsKept s t ∧ MemKept s t))

/-- No context of a Lauter engine runs SRD or SWR (07 R208): ILLOP at decode. -/
def Says.RegisterMovesOnEngine : Prop :=
  ∀ (o : Opw) (s : State) (is : Issue) (n : Nat), is.ag = .ctx n →
    (decodeCauses (.srd o) o is s false [] 0).testBit 0 = true ∧ (decodeCauses (.swr o) o is s false [] 0).testBit 0 = true

/-- SRD and SWR (15 R454, R455): what they read and write, that they complete, and that no engine runs them. -/
def Obligations.SpecialRegisterMoves : Prop :=
  Says.SrdResults ∧ Says.SwrResults ∧ Says.RegisterMovesComplete ∧ Says.RegisterMovesOnEngine

/-- TRAP and BKPT with a true guard (15 R468, 12 R336): the cause waits for the bundle's sequencing; with a false guard, nothing. -/
def Says.TrapAfterOps : Prop :=
  ∀ (o : Opw) (s : State) (is : Issue),
    (Issues (.trap o) o s is noBad noRd noMore →
      exec (.trap o) s = .next (if anyGuard s is o then { s with issue := some { is with after := is.after ||| 2 ^ 17 } } else s)) ∧
    (Issues (.bkpt o) o s is noBad noRd noMore →
      exec (.bkpt o) s = .next (if anyGuard s is o then { s with issue := some { is with after := is.after ||| 2 ^ 18 } } else s))

/-- CCLR (12 R345): the bits of its operand leave SR_CAUSE; a user handler cannot clear the supervisor's causes. -/
def Says.CclrResult : Prop :=
  ∀ (o : Opw) (s : State) (is : Issue) (gid fid : Nat) (g : Gang), Issues (.cclr o) o s is noBad noRd noMore → is.ag = .gang gid fid →
    anyGuard s is o = true → s.gang? gid = some g →
    let m := BitVec.ofNat 64 (srcVal s is o (shape false (.cclr o)).a o.a .raw 1 [] 0)
    let keep := BitVec.ofNat 64 (cPRIV + cPAGEFAULT + cPROT + cPOISON + cENGFAULT)
    ∃ t, exec (.cclr o) s = .next t ∧ MemKept s t ∧ DeviceKept s t ∧ OthersKept is.ag s t ∧ t.gang? gid =
      some { g with cause := g.cause &&& ~~~(if g.mode = .supHandler then m else m &&& ~~~keep) }

/-- TRAP, BKPT and CCLR (15 R468; 12 R336, R345). -/
def Obligations.TrapAndClear : Prop := Says.TrapAfterOps ∧ Says.CclrResult

/-! ### Exceptions (09 R249-R257) -/

/-- HRET (13 R379, 09 R257) when no cause but HALTSIB stands: FMT, the loop counters and the call frames come back from the slot, K0-K3
too unless it left a user handler; the fragment goes on at SR_EPC, performing only the sequencing when SEQONLY is set; with no
other trapping gang in the workgroup the halt is released. -/
def Says.HretResumes : Prop :=
  ∀ (o : Opw) (s : State) (is : Issue) (gid fid : Nat) (g : Gang) (f : Frag) (sl : Slot) (tr : TrapSt) (w : Wg),
    Issues (.hret o) o s is noBad noRd noMore → is.ag = .gang gid fid → s.gang? gid = some g → g.frags.find? fid = some f →
    g.slot = some sl → g.trap = some tr → s.wgs.find? g.wid = some w →
    g.cause.toNat &&& (2 ^ 64 - 1 - cHALTSIB) = 0 →
    (∀ j g2, s.gang? j = some g2 → j ≠ gid → g2.wid = g.wid → g2.trap = none) →
    ∃ t g' f' w', exec (.hret o) s = .next t ∧ t.gang? gid = some g' ∧ g'.frags.find? fid = some f' ∧
      t.wgs.find? g.wid = some w' ∧ g'.slot = none ∧ g'.trap = none ∧ g'.halt = .running ∧
      g'.k = (if sl.mode = .userHandler then g.k else sl.k) ∧ f'.fmt = sl.fmt ∧ f'.lc = sl.lc ∧ f'.frames = sl.frames ∧
      f'.pc = g.epc.toNat / 16 * 16 % 2 ^ 57 ∧ f'.pendSeq = g.epc.getLsbD 0 ∧ f'.stat = .ready ∧ f'.stopped = false ∧
      f'.mask = f.mask ∧ g'.v = g.v ∧ g'.s = g.s ∧ g'.p = g.p ∧ w'.halted = false ∧ t.issue = none ∧ MemKept s t

/-- HRET when a cause other than HALTSIB still stands (09 R257 step 2): the handler is entered again at once, the halt not released. -/
def Says.HretReenters : Prop :=
  ∀ (o : Opw) (s : State) (is : Issue) (gid fid : Nat) (g : Gang) (f : Frag) (sl : Slot) (w : Wg),
    Issues (.hret o) o s is noBad noRd noMore → is.ag = .gang gid fid → s.gang? gid = some g → g.frags.find? fid = some f →
    g.slot = some sl → s.wgs.find? g.wid = some w → g.cause.toNat &&& (2 ^ 64 - 1 - cHALTSIB) ≠ 0 →
    ∃ t g' f', exec (.hret o) s = .next t ∧ t.gang? gid = some g' ∧ g'.frags.find? fid = some f' ∧
      f'.pc = (s.handlerFor g).1 ∧ g'.mode = (s.handlerFor g).2 ∧ f'.fmt = sl.fmt ∧ f'.frames = [] ∧
      (∀ n, n < 4 → f'.lc.getD n 0 = 0) ∧ (t.wgs.find? g.wid).map (·.halted) = some w.halted ∧ MemKept s t

/-- HRET: the return, and the entry again while causes stand (13 R379, 09 R257). -/
def Obligations.HretSteps : Prop := Says.HretResumes ∧ Says.HretReenters

/-- Where a handler runs (09 R254): at the supervisor vector in supervisor mode when a cause of the supervisor's stands or the kernel names
no handler of its own, else at the kernel's handler offset in user handler mode. -/
def Says.HandlerChoice : Prop :=
  ∀ (s : State) (g : Gang) (w : Wg), s.wgOf g = some w →
    s.handlerFor g =
      if (g.cause.getLsbD 1 || g.cause.getLsbD 8 || g.cause.getLsbD 9 || g.cause.getLsbD 10 || g.cause.getLsbD 20) = true ∨
          (s.khOf g).trapoff = 0
      then ((s.part w.part).supvec.toNat, .supHandler)
      else ((s.khOf g).base + (s.khOf g).trapoff, .userHandler)

/-- HANDLER_ENTER (09 R254) once every fragment of the trapping gang has stopped: the trapping fragment becomes the handler fragment with
the same mask; FMT, loop counters, call frames and K0-K3 go to the slot; it starts with FMT unchanged, the counters zero, no
frames, and K0-K3 false in supervisor mode. -/
def Says.HandlerEntry : Prop :=
  ∀ (s : State) (gid : Nat) (g : Gang) (f : Frag) (tr : TrapSt) (w : Wg), s.journal = [] → s.gang? gid = some g →
    g.trap = some tr → tr.entered = false → g.halt = .stopped → (∀ e ∈ g.frags, e.2.stopped = true) → s.wgOf g = some w →
    w.acts = true → g.frags.find? tr.fid = some f →
    ∃ t g' f', exec (.handlerEnter gid) s = .next t ∧ t.gang? gid = some g' ∧ g'.frags.find? tr.fid = some f' ∧
      g'.slot = some { fid := tr.fid, mode := (s.handlerFor g).2, fmt := f.fmt, lc := f.lc, frames := f.frames, k := g.k } ∧
      f'.pc = (s.handlerFor g).1 ∧ f'.mask = f.mask ∧ f'.fmt = f.fmt ∧ f'.frames = [] ∧ (∀ n, n < 4 → f'.lc.getD n 0 = 0) ∧
      f'.stopped = false ∧ f'.stat = .ready ∧ g'.k = (if (s.handlerFor g).2 = .supHandler then 0 else g.k) ∧
      g'.v = g.v ∧ g'.s = g.s ∧ g'.p = g.p ∧ g'.cause = g.cause ∧ g'.epc = g.epc ∧ MemKept s t

/-- Which handler the causes standing choose, and entering it (09 R254). -/
def Obligations.HandlerChoiceAndEntry : Prop := Says.HandlerChoice ∧ Says.HandlerEntry

/-- The conditions of an operation word's own entry at decode: a further reason for ILLOP, further registers read, further causes. -/
def ownChecks (i : Instr) (s : State) (is : Issue) : Bool × List RegId × Nat :=
  match i with
  | .ld o => (brBad o s is, [], 0)
  | .st o => (brBad o s is, [], 0)
  | .pref o => (brBad o s is, [], 0)
  | .atom o => ((homeOpOf (o.sub.toNat % 32)).isSome && brBad o s is, [], 0)
  | .red o => ((homeOpOf (o.sub.toNat % 32)).isSome && brBad o s is, [], 0)
  | .nmop o => ((homeOpOf (o.sub.toNat % 32)).isSome && brBad o s is, [], 0)
  | .nralloc _ => (notGraph s is, [], 0)
  | .nrsend _ => (notGraph s is, [], 0)
  | .nrdone _ => (notGraph s is, [], 0)
  | .attr o => (attrBad o s is, [.v 0, .v 1, .v 2], attrPort o s is)
  | .rtrace o => (false, [], rtracePort o s is)
  | .mldw o => (false, [], mashPort o 2 s is)
  | .mrd o => (false, [], mashPort o 3 s is)
  | .mwr o => (false, [], mashPort o 1 s is)
  | .mma o => (mmaPast o s is, mmaReads o s is, mashPort o 1 s is)
  | .mmaG o => (mmaPast o s is, mmaReads o s is, mashPort o 1 s is)
  | .mmaJ o => (mmaPast o s is, mmaReads o s is, mashPort o 1 s is)
  | .mmaGJ o => (mmaPast o s is, mmaReads o s is, mashPort o 1 s is)
  | .pmov o => (false, if o.sub = 2 then
      ((List.range 8).filter fun n => o.imm.getLsbD n).map fun n => if o.imm.getLsbD 8 then RegId.k n else .p n else [], 0)
  | .shfl o => (!segOk (uniVal s is o (shape false (.shfl o)).c o.c 3), [], 0)
  | .bar o => (false, [], barDecode (.bar o) o s is)
  | .bara o => (false, [], barDecode (.bara o) o s is)
  | .barw o => (false, [], barDecode (.barw o) o s is)
  | _ => (false, [], 0)

/-- A bundle of any operation word with a decode-stage cause (11 R310, 09 R249-R253) takes it in place of every effect, by a gang with no
trap yet: SR_CAUSE gains every cause that the decode stage finds, with SCRBOUND among them; SR_EPC is the bundle's address, SR_FADDR and
SR_DMASK are zero, SR_SKID is zero unless another gang's halt was counting; the fragment stops, the workgroup is halted, no general
register changes. That SR_FMASK holds every active lane is log entry 17's reading. -/
def Obligations.DecodeCausesTrap : Prop :=
  ∀ (i : Instr) (opc : Nat) (o : Opw) (s : State) (is : Issue) (gid fid : Nat) (g : Gang) (f : Frag) (w : Wg),
    opParts i = some (opc, o) → s.issue = some is → s.journal = [] → is.ag = .gang gid fid → s.gang? gid = some g →
    g.frags.find? fid = some f → g.slot = none → g.trap = none → s.wgs.find? g.wid = some w →
    let x := ownChecks i s is
    let c := decodeCauses i o is s x.1 x.2.1 x.2.2
    c ≠ 0 →
    ∃ t g' f' w', exec i s = .next t ∧ t.gang? gid = some g' ∧ g'.frags.find? fid = some f' ∧ t.wgs.find? g.wid = some w' ∧
      g'.cause = g.cause ||| BitVec.ofNat 64 (c ||| if scrOut i o s is = 0 then 0 else cSCRBOUND) ∧
      g'.epc = BitVec.ofNat 64 (f.pc % 2 ^ 57) ∧ g'.faddr = 0 ∧ g'.fmask = is.mask ∧ g'.dmask = 0 ∧ (g.halt = .running → g'.skid = 0) ∧
      g'.v = g.v ∧ g'.p = g.p ∧ g'.s = g.s ∧ g'.k = g.k ∧ g'.h = g.h ∧ g'.q = g.q ∧ f'.pc = f.pc ∧ f'.stopped = true ∧
      w'.halted = true ∧ t.issue = none ∧ MemKept s t

/-- A cause raised in handler mode is a double fault (09 R256): the cause joins SR_CAUSE, the fragment stops, the workgroup is to
park, and a notice with its partition, grid tag and linear index goes to the device error ring; SR_EPC and the other trap registers
keep the trap being handled. -/
def Obligations.DoubleFault : Prop :=
  ∀ (s : State) (gid fid : Nat) (g : Gang) (f : Frag) (w : Wg) (sl : Slot) (k : RKind) (ti : TrapInfo),
    s.gang? gid = some g → g.frags.find? fid = some f → g.slot = some sl → s.wgs.find? g.wid = some w →
    let t := s.takeCause (.gang gid fid) k ti
    ∃ g' f' w' fl, t.gang? gid = some g' ∧ g'.frags.find? fid = some f' ∧ t.wgs.find? g.wid = some w' ∧
      g'.cause = g.cause ||| BitVec.ofNat 64 ti.causes ∧ g'.epc = g.epc ∧ g'.faddr = g.faddr ∧ g'.fsub = g.fsub ∧
      g'.fmask = g.fmask ∧ g'.dmask = g.dmask ∧ g'.skid = g.skid ∧ f' = { f with stopped := true } ∧ t.issue = none ∧
      w'.stat = .swapping 3 ∧ w'.dblFault = true ∧ w'.halted = true ∧ t.mem = s.mem ∧ t.flights.find? s.nextId = some fl ∧
      fl.accs.map (·.op) = [.devRec w.part 0 32 (((s.gridOf g).map fun r => r.lr.tag).getD 0) w.linear]

/-- HRET outside handler mode is illegal (13 R379), and the operations of Table 9.5's last rows raise PRIV outside supervisor handler
mode (09 R255). -/
def Obligations.ModeChecks : Prop :=
  ∀ (o : Opw) (s : State) (is : Issue) (gid fid : Nat) (g : Gang), is.ag = .gang gid fid → s.gang? gid = some g →
    (g.mode = .user → (decodeCauses (.hret o) o is s false [] 0).testBit 0 = true) ∧
    (g.mode = .user → (decodeCauses (.cclr o) o is s false [] 0).testBit 1 = true) ∧
    (g.mode ≠ .supHandler → ∀ i ∈ [Instr.ptmap o, .ptinv o, .prireq o, .swapoOut o, .swapoIn o, .gkill o, .gres o],
      (decodeCauses i o is s false [] 0).testBit 1 = true) ∧
    (g.mode ≠ .supHandler → o.sub = 0 → ∀ n, opnd o.a = .h n → (decodeCauses (.mov o) o is s false [] 0).testBit 1 = true)

/-! ### Barriers (12 R331-R333) -/

/-- The room that BAR, BARA and BARW act in: a declared barrier of the gang's workgroup. -/
def BarReady (i : Instr) (o : Opw) (s : State) (is : Issue) (gid fid : Nat) (g : Gang) (w : Wg) (b : Nat) : Prop :=
  Issues i o s is noBad noRd (barDecode i o s) ∧ is.ag = .gang gid fid ∧ s.gang? gid = some g ∧ s.wgs.find? g.wid = some w ∧
    anyGuard s is o = true ∧ b = uniVal s is o (shape false i).a o.a 1 % 256 ∧ b < (s.khOf g).barriers ∧ b < w.bars.length

/-- An arrival (12 R332): the guarded lanes are counted, the first arrival of a phase sets the count expected, and reaching it (or, for a
count of 0, every lane that has not exited) completes the phase. BARA goes on; the gang remembers the phase for BARW. -/
def Says.BaraArrives : Prop :=
  ∀ (o : Opw) (s : State) (is : Issue) (gid fid : Nat) (g : Gang) (w : Wg) (b : Nat), BarReady (.bara o) o s is gid fid g w b →
    let e := uniVal s is o (shape false (.bara o)).b o.b 2
    e ≤ 32768 →
    let x := w.bars.getD b Barrier.zero
    let n := x.arrived + popLanes g.width (guardMask s is o)
    let e' := if x.arrived = 0 then e else x.expect
    let target := if e' = 0 then s.lanesLeft g.wid else e'
    ∃ t w' g', exec (.bara o) s = .next t ∧ t.wgs.find? g.wid = some w' ∧ t.gang? gid = some g' ∧ t.issue = s.issue ∧ MemKept s t ∧
      g'.lastArr.find? b = some x.phase ∧
      (w'.bars.getD b Barrier.zero).phase = (if n ≥ target then (x.phase + 1) % 2 ^ 32 else x.phase) ∧
      (w'.bars.getD b Barrier.zero).arrived = (if n ≥ target then 0 else n) ∧
      (w'.bars.getD b Barrier.zero).expect = e' ∧
      ∀ c, c ≠ b → w'.bars.getD c Barrier.zero = w.bars.getD c Barrier.zero

/-- BAR arrives as BARA does (12 R332); when that completes the phase the fragment goes on, else it waits past it with only its
sequencing left. -/
def Says.BarWaits : Prop :=
  ∀ (o : Opw) (s : State) (is : Issue) (gid fid : Nat) (g : Gang) (w : Wg) (b : Nat), BarReady (.bar o) o s is gid fid g w b →
    let e := uniVal s is o (shape false (.bar o)).b o.b 2
    e ≤ 32768 →
    let x := w.bars.getD b Barrier.zero
    x.phase < 2 ^ 32 →
    let n := x.arrived + popLanes g.width (guardMask s is o)
    let e' := if x.arrived = 0 then e else x.expect
    let target := if e' = 0 then s.lanesLeft g.wid else e'
    ∃ t w', exec (.bar o) s = .next t ∧ t.wgs.find? g.wid = some w' ∧ MemKept s t ∧
      (w'.bars.getD b Barrier.zero).phase = (if n ≥ target then (x.phase + 1) % 2 ^ 32 else x.phase) ∧
      (w'.bars.getD b Barrier.zero).arrived = (if n ≥ target then 0 else n) ∧
      (n ≥ target → t.issue = s.issue) ∧
      (n < target → t.issue = none ∧ ∃ f, t.frag? gid fid = some f ∧ f.stat = .blocked (.bar b x.phase) ∧ f.pendSeq = true)

/-- BARW (12 R332) waits past the phase of the gang's last arrival: over already, it goes on. -/
def Says.BarwWaits : Prop :=
  ∀ (o : Opw) (s : State) (is : Issue) (gid fid : Nat) (g : Gang) (w : Wg) (b p : Nat), BarReady (.barw o) o s is gid fid g w b →
    g.lastArr.find? b = some p →
    ∃ t, exec (.barw o) s = .next t ∧ MemKept s t ∧ t.wgs = s.wgs ∧
      ((w.bars.getD b Barrier.zero).phase ≠ p → t.issue = s.issue ∧ RegsKept s t) ∧
      ((w.bars.getD b Barrier.zero).phase = p →
        t.issue = none ∧ ∃ f, t.frag? gid fid = some f ∧ f.stat = .blocked (.bar b p) ∧ f.pendSeq = true)

/-- BARA, BAR and BARW on a declared barrier (12 R331-R333). -/
def Obligations.NamedBarriers : Prop := Says.BaraArrives ∧ Says.BarWaits ∧ Says.BarwWaits

/-! ### Counters, fences, monitors and sleep (15 R453, R473; 13 R370, R371; 14 R410-R412; 06 R172, R173) -/

/-- The fragment that issued waits past its operation word, for `b`; it has only its sequencing left. No register changes but that. -/
def WaitsFor (i : Instr) (s : State) (ag : Agent) (b : Block) : Prop :=
  ∀ gid fid f, ag = .gang gid fid → s.frag? gid fid = some f →
    ∃ t, exec i s = .next t ∧ t.issue = none ∧ MemKept s t ∧ t.flights = s.flights ∧ OthersKept ag s t ∧
      t.frag? gid fid = some { f with stat := .blocked b, blockedAt := s.cycleOf ag, pendSeq := true }

/-- WAITC (15 R473): a counter at or below the threshold lets the fragment go on with nothing changed; above it, the fragment waits. -/
def Says.WaitcResult : Prop :=
  ∀ (o : Opw) (s : State) (is : Issue), Issues (.waitc o) o s is noBad noRd noMore → anyGuard s is o = true →
    let k := uniVal s is o (shape false (.waitc o)).b o.b 2
    let n := s.counter is.ag (o.a.toNat % 8)
    (n ≤ k → exec (.waitc o) s = .next s) ∧ (k < n → WaitsFor (.waitc o) s is.ag (.counter (o.a.toNat % 8) k))

/-- SLEEP (15 R453) of 0 cycles changes nothing; of n it waits until its core's count is n past its last pass. -/
def Says.SleepResult : Prop :=
  ∀ (o : Opw) (s : State) (is : Issue), Issues (.sleep o) o s is noBad noRd noMore → anyGuard s is o = true →
    let n := uniVal s is o (shape false (.sleep o)).a o.a 1
    (n = 0 → exec (.sleep o) s = .next s) ∧ (n ≠ 0 → WaitsFor (.sleep o) s is.ag (.sleep (is.lastPass + n)))

/-- The orders that later accesses of an agent keep after a fence over the paths of a mask (06 R172): for each earlier operation in
flight on one of them, an acquire orders later accesses of its path after its reads, a release later writes after it, and both
orders order all later ones. -/
def FenceOrders (s t : State) (ag : Agent) (order paths : Nat) : Prop :=
  (∀ i f, i ∈ (s.orderOf ag).1 → s.flights.find? i = some f → paths.testBit f.path = true →
    (order = 1 ∧ f.rd = false) ∨ ∃ c ∈ (t.orderOf ag).2, c.fl = i ∧ c.paths = 2 ^ f.path ∧ c.wr = true ∧
      (order ≠ 2 → c.rd = true)) ∧
  ∀ c ∈ (s.orderOf ag).2, (s.flights.find? c.fl).isSome = true → c ∈ (t.orderOf ag).2

/-- FENCE (13 R370, 06 R172): nothing but the order of later accesses, and at cluster scope or wider the L1 of the fragment's core
drops its lines (05 R132). -/
def Says.FenceResult : Prop :=
  ∀ (o : Opw) (s : State) (is : Issue) (gid fid : Nat), Issues (.fence o) o s is noBad noRd noMore → anyGuard s is o = true →
    is.ag = .gang gid fid →
    ∃ t, exec (.fence o) s = .next t ∧ RegsKept s t ∧ MemKept s t ∧ FenceOrders s t is.ag (orderOfAux o) allPaths ∧
      (scopeOfAux o < 2 → t.l1 = s.l1) ∧
      (2 ≤ scopeOfAux o → ∀ l ∈ t.l1, l ∈ s.l1 ∧ l.core ≠ s.unitOf is.ag)

/-- FENCEX (13 R371, 06 R173): every earlier operation on a writer path of P comes before every later access on a reader path of Q,
and the paths of both are fenced in its order; for later reads of the LSU path the L1 drops its lines at any scope. -/
def Says.FencexResult : Prop :=
  ∀ (o : Opw) (s : State) (is : Issue) (gid fid : Nat), Issues (.fencex o) o s is noBad noRd noMore → anyGuard s is o = true →
    is.ag = .gang gid fid →
    let p := o.imm.toNat % 256
    let q := o.imm.toNat / 256 % 256
    ∃ t, exec (.fencex o) s = .next t ∧ RegsKept s t ∧ MemKept s t ∧
      (∀ i f, i ∈ (s.orderOf is.ag).1 → s.flights.find? i = some f → p.testBit f.path = true →
        ∃ c ∈ (t.orderOf is.ag).2, c.fl = i ∧ c.paths = q ∧ c.rd = true ∧ c.wr = true) ∧
      (scopeOfAux o < 2 → q.testBit 0 = false → t.l1 = s.l1) ∧
      ((2 ≤ scopeOfAux o ∨ q.testBit 0 = true) → ∀ l ∈ t.l1, l ∈ s.l1 ∧ l.core ≠ s.unitOf is.ag)

/-- MON (14 R410, R411), its address translated: one operation on the NMO path (LAU from a context), which where it acts arms the
monitor of its gang on the line and reads its word. -/
def Says.MonResult : Prop :=
  ∀ (o : Opw) (s : State) (is : Issue) (r : AReq) (t : TrOk), Issues (.mon o) o s is noBad noRd noMore → anyGuard s is o = true →
    let path := match is.ag with | .gang _ _ => 6 | .ctx _ => 5
    s.counterFull is.ag path = false →
    let n := match o.sub.toNat with | 0 => 4 | 1 => 8 | _ => 0
    let va := genAddr o (srcVal s is o (shape false (.mon o)).a o.a .raw 1 [] 0) (uniVal s is o (shape false (.mon o)).b o.b 2)
    AllPass s is path (guardMask s is o) noTier3 [{ lane := 0, va := va, size := max n 1, align := max n 1, acc := .read }]
      [(r, t)] →
    let v := afterChecks s is [(r, t)]
    Flies (.mon o) s s v { newFlight v is (.mon o) path with
      scope := scopeOfAux o, acq := orderOfAux o == 1, invals := if orderOfAux o == 1 && decide (scopeOfAux o ≥ 2) then [is.ag] else [],
      rd := true, dest := match opnd o.dst with | .s k => if n = 0 then .none else .s k (n / 4) 0 | _ => .none,
      accs := [acc1 0 va (t.loc (v.partOf is.ag)) (.monArm n va)] }

/-- MWAIT (14 R412): a monitor that has fired, or is not armed, gives K 1 at once; else the fragment waits with its deadline. -/
def Says.MwaitResult : Prop :=
  ∀ (o : Opw) (s : State) (is : Issue) (gid fid : Nat) (g : Gang), Issues (.mwait o) o s is noBad noRd noMore →
    anyGuard s is o = true → is.ag = .gang gid fid → s.gang? gid = some g →
    let n := uniVal s is o (shape false (.mwait o)).a o.a 1
    ((g.mon.armed = false ∨ g.mon.fired = true) → ∃ t, exec (.mwait o) s = .next t ∧ MemKept s t ∧ DeviceKept s t ∧
      OthersKept is.ag s t ∧ t.rdK is.ag (o.dst.toNat % 4) = true ∧
      ∀ m, m < 4 → m ≠ o.dst.toNat % 4 → t.rdK is.ag m = s.rdK is.ag m) ∧
    (g.mon.armed = true → g.mon.fired = false →
      WaitsFor (.mwait o) s is.ag (.mwait (if n = 0 then 0 else is.cyc + n) (o.dst.toNat % 8)))

/-- An operation of the whole fragment whose guard holds in no active lane does nothing (11 R304, 12 R324). -/
def Says.FalseGuard : Prop :=
  ∀ (o : Opw) (s : State) (is : Issue) (i : Instr),
    i ∈ [Instr.waitc o, .sleep o, .fence o, .fencex o, .mon o, .mwait o, .cclr o, .ldk o, .stk o, .cctlIinv o, .cctlL1inv o] ++
      [Instr.lxsub o, .lxsubNb o, .cbinit o, .cbarr o, .cbwait o, .cbtest o, .dcset o, .dcdec o, .dlaunch o, .qbind o] ++
      [Instr.cobar o, .cored o, .rastq o, .rflush o, .mswap o, .mcbt o, .mgrp o, .mclr o, .mtag o, .tmov o, .tgath o, .tscat o] ++
      [Instr.tfill o, .swapoOut o, .swapoIn o, .gkill o, .gres o, .ptmap o, .ptinv o, .prireq o] →
    Issues i o s is noBad noRd noMore → anyGuard s is o = false → exec i s = .next s

/-- WAITC, FENCE, FENCEX, MON, MWAIT and SLEEP complete: each answers a next state in which the fragment has not stopped, WAITC at or
below its threshold, SLEEP of 0 cycles, MWAIT of a monitor that has fired, MON of an address that is translated, and FENCE and FENCEX
always. -/
def Says.SyncCompletes : Prop :=
  ∀ (o : Opw) (s : State) (is : Issue) (gid fid : Nat) (g : Gang), is.ag = .gang gid fid → s.gang? gid = some g →
    anyGuard s is o = true →
    (Issues (.waitc o) o s is noBad noRd noMore →
      s.counter is.ag (o.a.toNat % 8) ≤ uniVal s is o (shape false (.waitc o)).b o.b 2 → exec (.waitc o) s = .next s) ∧
    (Issues (.fence o) o s is noBad noRd noMore → ∃ t, exec (.fence o) s = .next t ∧ t.issue = some is ∧ RegsKept s t ∧ MemKept s t) ∧
    (Issues (.fencex o) o s is noBad noRd noMore → ∃ t, exec (.fencex o) s = .next t ∧ t.issue = some is ∧ RegsKept s t ∧ MemKept s t) ∧
    (Issues (.mon o) o s is noBad noRd noMore → s.counterFull is.ag 6 = false →
      (∃ l, AllPass s is 6 (guardMask s is o) noTier3
        [{ lane := 0,
           va := genAddr o (srcVal s is o (shape false (.mon o)).a o.a .raw 1 [] 0) (uniVal s is o (shape false (.mon o)).b o.b 2),
           size := max (match o.sub.toNat with | 0 => 4 | 1 => 8 | _ => 0) 1,
           align := max (match o.sub.toNat with | 0 => 4 | 1 => 8 | _ => 0) 1, acc := .read }] l) →
      ∃ t, exec (.mon o) s = .next t ∧ t.issue = some is ∧ RegsKept s t ∧ MemKept s t) ∧
    (Issues (.mwait o) o s is noBad noRd noMore → (g.mon.armed = false ∨ g.mon.fired = true) →
      ∃ t, exec (.mwait o) s = .next t ∧ t.issue = some is ∧ t.rdK is.ag (o.dst.toNat % 4) = true ∧ MemKept s t) ∧
    (Issues (.sleep o) o s is noBad noRd noMore → uniVal s is o (shape false (.sleep o)).a o.a 1 = 0 → exec (.sleep o) s = .next s)

/-- WAITC, SLEEP, FENCE, FENCEX, MON and MWAIT: their effects, that they complete, and what a guard that holds nowhere does. -/
def Obligations.SyncForms : Prop :=
  Says.FalseGuard ∧ Says.WaitcResult ∧ Says.SleepResult ∧ Says.FenceResult ∧ Says.FencexResult ∧ Says.MonResult ∧ Says.MwaitResult ∧
  Says.SyncCompletes

/-! ### Loads and stores (13 R388-R391; 15 R456-R459; 05 R149-R154) -/

/-- A generic access of `n` bytes by each of the lanes, at the address of 11 R316. -/
def laneReqs (i : Instr) (o : Opw) (s : State) (is : Issue) (pp : (List W32 × List W32 × List W32) × State) (lanes : List Nat)
    (n : Nat) (acc : Access) : List AReq :=
  lanes.map fun k => { lane := k, va := genAddr o (srcA i o s is pp k) (srcB i o s is pp k), size := n, align := n, acc := acc }

/-- The record that a bundle names is read on the LSU path (05 R149), is valid, and allows the use. -/
def UsesRec (o : Opw) (s : State) (is : Issue) (gm : LaneMask) (ok : BufRec → Bool) (r : BufRec) (t : State) : Prop :=
  s.bufRec is (o.imm.toNat / 2 ^ 24) 0 gm = .ok r t ∧ r.bad = false ∧ ok r = true

/-- LD (13 R388, R389): an operation of the LSU path that reads each guarded lane's bytes where they stand, to the lane's V registers; its
generic form, and the form through a buffer record. -/
def Says.LdResult : Prop :=
  ∀ (o : Opw) (s : State) (is : Issue) (l : List (AReq × TrOk)), Issues (.ld o) o s is (brBad o s) noRd noMore →
    s.counterFull is.ag 0 = false →
    let n := sizeBytes (o.sub.toNat % 32)
    let w := sizeWords (o.sub.toNat % 32)
    let ext := extOf (o.sub.toNat % 32)
    let gm := guardMask s is o
    let lanes := s.lanesAg is.ag gm
    let pp := takePops s is (shape false (.ld o)) o
    ((o.sub.getLsbD 5 = false ∨ gm = 0) →
      let reqs := laneReqs (.ld o) o s is pp lanes n .read
      AllPass s is 0 0 (regAccess n) reqs l →
      let v := popped (.ld o) o (afterChecks s is l) is
      ∀ b, opnd o.dst = .v b →
      Flies (.ld o) s pp.2 v { (newFlight v is (.ld o) 0).withAux o false with
        rd := true, dest := .v b w ext, mask := performed lanes reqs l,
        accs := l.flatMap fun e => accsOf v is e.1 e.2 (.rd e.1.size) }) ∧
    (∀ r t b, o.sub.getLsbD 5 = true → gm ≠ 0 → UsesRec o s is gm (fun r => r.raw || decide (n ≥ 4)) r t →
      opnd o.dst = .v b →
      let x := fun k => exactSum o (srcA (.ld o) o s is pp k) (srcB (.ld o) o s is pp k)
      let reqs := lanes.flatMap fun k => recLoadReqs r k (x k) n (Config.freeNat s.fresh 3 % 8)
      AllPass t is 0 0 (regAccess n) reqs l →
      let v := popped (.ld o) o (afterChecks t is l) is
      Flies (.ld o) s (popped (.ld o) o t is) v { (newFlight v is (.ld o) 0).withAux o r.nt with
        rd := true, dest := if r.raw then .v b w ext else .elem b w r.fmt r.scale, mask := performed lanes reqs l,
        lw := lanes.map fun k => (k, recSubs r (x k) n), accs := l.flatMap fun e => accsOf v is e.1 e.2 (.rd e.1.size) })

/-- LDK (13 R390): one read for the fragment, to S registers. -/
def Says.LdkResult : Prop :=
  ∀ (o : Opw) (s : State) (is : Issue) (l : List (AReq × TrOk)) (b : Nat), Issues (.ldk o) o s is noBad noRd noMore →
    anyGuard s is o = true →
    let path := match is.ag with | .gang _ _ => 0 | .ctx _ => 5
    s.counterFull is.ag path = false →
    let sh := shape false (.ldk o)
    let n := sizeBytes (o.sub.toNat % 32)
    let va := genAddr o (srcVal s is o sh.a o.a .raw 1 [] 0) (uniVal s is o sh.b o.b 2)
    let reqs : List AReq := [{ lane := 0, va := va, size := n, align := n, acc := .read }]
    AllPass s is path (guardMask s is o) (regAccess n) reqs l → opnd o.dst = .s b →
    let v := afterChecks s is l
    Flies (.ldk o) s s v { (newFlight v is (.ldk o) path).withAux o false with
      rd := true, dest := .s b (sizeWords (o.sub.toNat % 32)) (extOf (o.sub.toNat % 32)), mask := performed [0] reqs l,
      accs := l.flatMap fun e => accsOf v is e.1 e.2 (.rd e.1.size) }

/-- The scratchpad offsets of some lanes lie in the workgroup's declared bytes and are aligned. -/
def ScrInside (bytes n : Nat) (lanes : List Nat) (off : Nat → Int) : Prop :=
  ∀ k ∈ lanes, 0 ≤ off k ∧ off k + n ≤ bytes ∧ off k % n = 0

/-- A scratchpad operation: one access of each lane at its offset in the workgroup's scratchpad, at cluster scope at most (06 R168). -/
def FliesScr (i : Instr) (o : Opw) (s : State) (is : Issue) (pp : (List W32 × List W32 × List W32) × State) (wid : Nat)
    (lanes : List Nat) (off : Nat → Int) (rd wr : Bool) (dest : Dest) (op : Nat → HomeOp) : Prop :=
  Flies i s pp.2 (popped i o s is) { (newFlight s is i 0).withAux o false with
    scope := min (scopeOfAux o) 2, rd := rd, wr := wr, dest := dest, mask := maskOf lanes,
    accs := lanes.map fun k => acc1 k (off k).toNat (.scr wid (off k).toNat) (op k) }

/-- LDS (13 R391): each guarded lane reads its workgroup's scratchpad. -/
def Says.LdsResult : Prop :=
  ∀ (o : Opw) (s : State) (is : Issue) (wid bytes b : Nat), Issues (.lds o) o s is noBad noRd noMore →
    s.counterFull is.ag 0 = false →
    let n := sizeBytes (o.sub.toNat % 32)
    let lanes := s.lanesAg is.ag (guardMask s is o)
    let pp := takePops s is (shape false (.lds o)) o
    let off := fun k => exactSum o (srcA (.lds o) o s is pp k) (srcB (.lds o) o s is pp k)
    s.scrOf is.ag = some (wid, bytes) → ScrInside bytes n lanes off → opnd o.dst = .v b →
    FliesScr (.lds o) o s is pp wid lanes off true false
      (.v b (sizeWords (o.sub.toNat % 32)) (extOf (o.sub.toNat % 32))) (fun _ => .rd n)

/-- An offset outside the declared bytes raises SCRBOUND at decode, with no effect and no queue word taken (05 R125, 09 R250, R269): in the
guarded lanes, or, where the offset is the same constant in every lane, in the active ones whatever the guard. Which lanes SR_FMASK then
holds, and that SCRBOUND is the only cause, is the model's choice (log entries 17 and 59); FSUB stays open. -/
def Says.ScrBound : Prop :=
  ∀ (o : Opw) (s : State) (is : Issue) (gid fid : Nat) (g : Gang), s.issue = some is → s.journal = [] → is.ag = .gang gid fid →
    s.gang? gid = some g → decodeCauses (.lds o) o is s false [] 0 = 0 → queuesReady s is (shape false (.lds o)) o = true →
    let n := sizeBytes (o.sub.toNat % 32)
    let pp := takePops s is (shape false (.lds o)) o
    let off := fun k => exactSum o (srcA (.lds o) o s is pp k) (srcB (.lds o) o s is pp k)
    let lanes := s.lanesAg is.ag (if (isConst o.a && isConst o.b) = true then is.mask else guardMask s is o)
    let out := lanes.filter fun k => decide (off k < 0) || decide (off k + (n : Int) > ((s.khOf g).scratch : Int))
    out ≠ [] → ∃ fsub,
    exec (.lds o) s = runOp s (s.takeCause is.ag .fault { causes := 2 ^ 4, faddr := 0, fsub := fsub, fmask := maskOf out })

/-- Loads: LD, LDK and LDS, and LDS's bound check; the lanes and the cause of that check rest on log entries 17 and 59. -/
def Obligations.LoadForms : Prop := Says.LdResult ∧ Says.LdkResult ∧ Says.LdsResult ∧ Says.ScrBound

/-- The accesses of a store: each translated request with what its part does, told the pieces of its stored scale. -/
def storeAccs (parts : List (AReq × StOp)) (v : State) (is : Issue) (l : List (AReq × TrOk)) : List Acc :=
  let scale := fun (r : AReq) =>
    (l.filter fun e => e.1.lane == r.lane && e.1.slot / 1024 == r.slot / 1024 + 1).map fun (e : AReq × TrOk) =>
      (2 * e.2.key + e.2.zb.toNat, e.1.size)
  l.flatMap fun e =>
    match parts.find? (fun p => p.1 == e.1) with
    | some p => match p.2 (scale e.1) with | .none => [] | op => accsOf v is e.1 e.2 op
    | none => []

/-- ST (15 R456, R457): each guarded lane that is no helper stores the low bytes of its data at its address when the operation is
applied; its generic form, and the form through a raw record. -/
def Says.StResult : Prop :=
  ∀ (o : Opw) (s : State) (is : Issue) (l : List (AReq × TrOk)), Issues (.st o) o s is (brBad o s) noRd noMore →
    s.counterFull is.ag 0 = false →
    let n := sizeBytes (o.sub.toNat % 32)
    let gm := actLanes s is o
    let lanes := s.lanesAg is.ag gm
    let pp := takePops s is (shape false (.st o)) o
    let c := srcC (.st o) o s is pp
    ((o.sub.getLsbD 5 = false ∨ gm = 0) →
      let reqs := laneReqs (.st o) o s is pp lanes n .write
      AllPass s is 0 0 (regAccess n) reqs l →
      let v := popped (.st o) o (afterChecks s is l) is
      Flies (.st o) s pp.2 v { (newFlight v is (.st o) 0).withAux o false with
        wr := true, mask := performed lanes reqs l,
        accs := l.flatMap fun e => accsOf v is e.1 e.2 (.wr n (c e.1.lane % 256 ^ n) 0) }) ∧
    (∀ r t, o.sub.getLsbD 5 = true → gm ≠ 0 →
      UsesRec o s is gm (fun r => r.write && !(isCb2 r.fmt) && (r.raw || decide (n ≥ 4))) r t →
      let x := fun k => exactSum o (srcA (.st o) o s is pp k) (srcB (.st o) o s is pp k)
      let reason := Config.freeNat s.fresh 3 % 8
      let table := tableKey t is.ag r
      let prots := lanes.filter fun k => (List.range (n / 4)).any fun (j : Nat) => r.elem (x k + j) == .prot
      let parts := if r.raw then
          lanes.flatMap fun k => match r.rawAt (x k) n with
            | .prot => [(protReq k .write reason, fun (_ : List (Nat × Nat)) => HomeOp.none)]
            | .drop => []
            | .at p => rawStore k (r.base + p.1) n 0 (c k) table
        else prots.map (fun k => (protReq k .write reason, fun (_ : List (Nat × Nat)) => HomeOp.none)) ++
          elemStores r table ((lanes.filter fun k => !(prots.contains k)).flatMap fun k => laneElems r k (x k) n (c k))
      AllPass t is 0 0 (regAccess n) (parts.map (·.1)) l →
      let v := popped (.st o) o (afterChecks t is l) is
      Flies (.st o) s (popped (.st o) o t is) v { (newFlight v is (.st o) 0).withAux o r.nt with
        wr := true, mask := performed lanes (parts.map (·.1)) l, accs := storeAccs parts v is l })

/-- STK (15 R458): one store for the fragment. -/
def Says.StkResult : Prop :=
  ∀ (o : Opw) (s : State) (is : Issue) (l : List (AReq × TrOk)), Issues (.stk o) o s is noBad noRd noMore →
    anyGuard s is o = true →
    let path := match is.ag with | .gang _ _ => 0 | .ctx _ => 5
    s.counterFull is.ag path = false →
    let sh := shape false (.stk o)
    let n := sizeBytes (o.sub.toNat % 32)
    let va := genAddr o (srcVal s is o sh.a o.a .raw 1 [] 0) (uniVal s is o sh.b o.b 2)
    let reqs : List AReq := [{ lane := 0, va := va, size := n, align := n, acc := .write }]
    AllPass s is path (guardMask s is o) (regAccess n) reqs l →
    let v := afterChecks s is l
    Flies (.stk o) s s v { (newFlight v is (.stk o) path).withAux o false with
      wr := true, mask := performed [0] reqs l,
      accs := l.flatMap fun e => accsOf v is e.1 e.2 (.wr n (srcVal s is o sh.c o.c .raw 3 [] 0 % 256 ^ n) 0) }

/-- STS (15 R459): each lane that acts stores to its workgroup's scratchpad. -/
def Says.StsResult : Prop :=
  ∀ (o : Opw) (s : State) (is : Issue) (wid bytes : Nat), Issues (.sts o) o s is noBad noRd noMore → s.counterFull is.ag 0 = false →
    let n := sizeBytes (o.sub.toNat % 32)
    let lanes := s.lanesAg is.ag (actLanes s is o)
    let pp := takePops s is (shape false (.sts o)) o
    let off := fun k => exactSum o (srcA (.sts o) o s is pp k) (srcB (.sts o) o s is pp k)
    s.scrOf is.ag = some (wid, bytes) → ScrInside bytes n lanes off →
    FliesScr (.sts o) o s is pp wid lanes off false true .none (fun k => .wr n (srcC (.sts o) o s is pp k % 256 ^ n) 0)

/-- Stores: ST, STK and STS; each stores where HOME_APPLY applies its accesses. -/
def Obligations.StoreForms : Prop := Says.StResult ∧ Says.StkResult ∧ Says.StsResult

/-! ### Atomics and near-memory operations (12 R325-R328; 14 R416, R417, R434) -/

/-- The accesses of an atomic in some lanes: one at the home of each lane's operand. -/
def rmwReqs (f : HomeFn) (w : Nat) (lanes : List Nat) (va : Nat → Nat) : List AReq :=
  lanes.map fun k =>
    { lane := k, va := va k, size := if f = .gath8 then 128 else w / 8, align := if f = .gath8 then 128 else w / 8,
      acc := if f = .gath8 then .read else .rmw }

/-- The operand data of an atomic in a lane; a constant for FADD on packed halves is one of halves (11 R307). -/
def rmwData (i : Instr) (o : Opw) (s : State) (is : Issue) (f : HomeFn) (pp : (List W32 × List W32 × List W32) × State) (l : Nat) : Nat :=
  srcVal s is o (shape false i).c o.c (rmwWiden f) 3 pp.1.2.2 l

/-- ATOM, RED and NMOP's generic form with the lanes `lanes`: one read-modify-write of each at its address. -/
def FliesRmw (i : Instr) (o : Opw) (s : State) (is : Issue) (path : Nat) (smask : LaneMask) (lanes : List Nat) (dest : Dest)
    (f : HomeFn) (w : Nat) (sum : Nat → Nat → Int) : Prop :=
  let pp := takePops s is (shape false i) o
  let c := rmwData i o s is f pp
  let reqs := rmwReqs f w lanes fun k => wrapInt (sum (srcA i o s is pp k) (srcB i o s is pp k)) 64
  ∀ l, (f = .gath8 → ∀ k ∈ lanes, gathBad (c k) = false) → AllPass s is path smask (homeCheck f) reqs l →
    let v := popped i o (afterChecks s is l) is
    Flies i s pp.2 v { (newFlight v is i path).withAux o false with
      rd := true, wr := decide (f ≠ .gath8), dest := dest, mask := performed lanes reqs l,
      accs := l.map fun e => accOf v is e.1 e.2 (rmwOf f w (c e.1.lane)) }

/-- Their form through a raw record that allows atomics, when no lane's offset is refused; a lane whose offset is dropped (05 R152) makes
no access. -/
def FliesRmwRec (i : Instr) (o : Opw) (s : State) (is : Issue) (path : Nat) (gm smask : LaneMask) (lanes : List Nat) (dest : Dest)
    (f : HomeFn) (w : Nat) (sum : Nat → Nat → Int) : Prop :=
  let pp := takePops s is (shape false i) o
  let c := rmwData i o s is f pp
  ∀ r t l, (f = .gath8 → ∀ k ∈ lanes, gathBad (c k) = false) → UsesRec o s is gm (fun r => r.raw && r.atomic) r t →
    let at_ := fun k => r.rawAt (sum (srcA i o s is pp k) (srcB i o s is pp k)) (if f = .gath8 then 128 else w / 8)
    (∀ k ∈ lanes, at_ k ≠ .prot) →
    let some_ := lanes.filter fun k => at_ k ≠ .drop
    let reqs := rmwReqs f w some_ fun k => match at_ k with | .at p => r.base + p.1 | _ => 0
    AllPass t is path smask (homeCheck f) reqs l →
    let v := popped i o (afterChecks t is l) is
    Flies i s (popped i o t is) v { (newFlight v is i path).withAux o r.nt with
      rd := true, wr := decide (f ≠ .gath8), dest := dest, mask := performed lanes reqs l,
      accs := l.map fun e => accOf v is e.1 e.2 (rmwOf f w (c e.1.lane)) }

/-- ATOM (12 R325-R327): each lane that acts makes one read-modify-write and gets the prior value. -/
def Says.AtomResult : Prop :=
  ∀ (o : Opw) (s : State) (is : Issue) (f : HomeFn) (w x : Nat), homeOpOf (o.sub.toNat % 32) = some (f, w, x) →
    Issues (.atom o) o s is (brBad o s) noRd noMore → s.counterFull is.ag 0 = false →
    let gm := actLanes s is o
    ((o.sub.getLsbD 5 = false ∨ gm = 0) →
      FliesRmw (.atom o) o s is 0 0 (s.lanesAg is.ag gm) (rmwDest o w) f w (exactSum o)) ∧
    (o.sub.getLsbD 5 = true → gm ≠ 0 →
      FliesRmwRec (.atom o) o s is 0 gm 0 (s.lanesAg is.ag gm) (rmwDest o w) f w (exactSum o))

/-- RED (14 R434): as ATOM, without a result. -/
def Says.RedResult : Prop :=
  ∀ (o : Opw) (s : State) (is : Issue) (f : HomeFn) (w x : Nat), homeOpOf (o.sub.toNat % 32) = some (f, w, x) →
    Issues (.red o) o s is (brBad o s) noRd noMore → s.counterFull is.ag 0 = false →
    let gm := actLanes s is o
    ((o.sub.getLsbD 5 = false ∨ gm = 0) →
      FliesRmw (.red o) o s is 0 0 (s.lanesAg is.ag gm) .none f w (exactSum o)) ∧
    (o.sub.getLsbD 5 = true → gm ≠ 0 →
      FliesRmwRec (.red o) o s is 0 gm 0 (s.lanesAg is.ag gm) .none f w (exactSum o))

/-- NMOP (14 R416, R417): on the NMO path (LAU from a context); its scalar form is one operation for the fragment. -/
def Says.NmopResult : Prop :=
  ∀ (o : Opw) (s : State) (is : Issue) (f : HomeFn) (w x : Nat), homeOpOf (o.sub.toNat % 32) = some (f, w, x) →
    Issues (.nmop o) o s is (brBad o s) noRd noMore →
    let path := match is.ag with | .gang _ _ => 6 | .ctx _ => 5
    s.counterFull is.ag path = false →
    let dest := if o.imm.getLsbD 23 then Dest.none else rmwDest o w
    let gm := if nmopScalar o then guardMask s is o else actLanes s is o
    let smask := if nmopScalar o then gm else 0
    let lanes := if nmopScalar o then [0] else s.lanesAg is.ag gm
    gm ≠ 0 →
    (o.sub.getLsbD 5 = false → FliesRmw (.nmop o) o s is path smask lanes dest f w (nmopSum o)) ∧
    (o.sub.getLsbD 5 = true → FliesRmwRec (.nmop o) o s is path gm smask lanes dest f w (nmopSum o))

/-- ATOMS (12 R328): a read-modify-write of each lane that acts, in its workgroup's scratchpad. -/
def Says.AtomsResult : Prop :=
  ∀ (o : Opw) (s : State) (is : Issue) (wid bytes : Nat) (f : HomeFn) (w x : Nat),
    homeOpOf (o.sub.toNat % 32) = some (f, w, x) → Issues (.atoms o) o s is noBad noRd noMore → s.counterFull is.ag 0 = false →
    let lanes := s.lanesAg is.ag (actLanes s is o)
    let pp := takePops s is (shape false (.atoms o)) o
    let off := fun k => exactSum o (srcA (.atoms o) o s is pp k) (srcB (.atoms o) o s is pp k)
    s.scrOf is.ag = some (wid, bytes) → ScrInside bytes (w / 8) lanes off →
    FliesScr (.atoms o) o s is pp wid lanes off true true (rmwDest o w) (fun k => rmwOf f w (rmwData (.atoms o) o s is f pp k))

/-- NMOP's GATH8 with an index byte of 32 or more in a lane that acts raises ILLOP, and nothing is performed (05 R131, 09 R250): in those
lanes, or in the guarded ones when the form is scalar. -/
def Says.GatherIndex : Prop :=
  ∀ (o : Opw) (s : State) (is : Issue) (w x : Nat), homeOpOf (o.sub.toNat % 32) = some (.gath8, w, x) →
    Issues (.nmop o) o s is (brBad o s) noRd noMore → s.counterFull is.ag (nmoPath is.ag) = false →
    let pp := takePops s is (shape false (.nmop o)) o
    let gm := if nmopScalar o then guardMask s is o else actLanes s is o
    let bad := (if nmopScalar o then [0] else s.lanesAg is.ag gm).filter fun k => gathBad (srcC (.nmop o) o s is pp k)
    gm ≠ 0 → bad ≠ [] → ∃ fsub, exec (.nmop o) s = runOp s (s.takeCause is.ag .fault
      { causes := cILLOP, faddr := 0, fsub := fsub, fmask := if nmopScalar o then gm else maskOf bad })

/-- ATOM, RED, NMOP and ATOMS in their generic and scratchpad forms, and GATH8's index check. -/
def Obligations.AtomicForms : Prop :=
  Says.AtomResult ∧ Says.RedResult ∧ Says.NmopResult ∧ Says.AtomsResult ∧ Says.GatherIndex

/-- Table 5.2 and 12 R326: what each atomic operation leaves at its location and what it returns, in each of its formats; GATH8 returns the
eight words that its index bytes name and changes nothing. -/
def Obligations.HomeFunctions : Prop :=
  (∀ (old x y w : Nat), w ∈ [32, 64] → old < 2 ^ w → x < 2 ^ w → y < 2 ^ w →
    homeFn (.add w) old x y = ((old + x) % 2 ^ w, old) ∧
    homeFn (.addLim w) old x y = (if old + x ≤ y then (old + x, old) else (old, 2 ^ w - 1)) ∧
    homeFn (.cas w) old x y = (if old = x then y else old, old) ∧ homeFn (.exch w) old x y = (x, old)) ∧
  (∀ (old x y : Nat), old < 2 ^ 32 → x < 2 ^ 32 → y < 2 ^ 32 →
    homeFn (.min .z32) old x y = (min old x, old) ∧ homeFn (.max .z32) old x y = (max old x, old) ∧
    homeFn (.min .s32) old x y = (if sextNat x 32 < sextNat old 32 then x else old, old) ∧
    homeFn (.max .s32) old x y = (if sextNat old 32 < sextNat x 32 then x else old, old) ∧
    homeFn (.min .f32) old x y = ((fpMinMax fp32 false old x).1, old) ∧
    homeFn (.max .f32) old x y = ((fpMinMax fp32 true old x).1, old) ∧
    homeFn (.fadd .f32) old x y = ((fp32.finish 0 ((fp32.decode old).add 0 (fp32.decode x))).1, old) ∧
    (∀ e ∈ [(Ty.bf2, bf16), (Ty.hf2, fp16)], homeFn (.fadd e.1) old x y =
      ((e.2.finish 0 ((e.2.decode (old % 65536)).add 0 (e.2.decode (x % 65536)))).1 +
        65536 * (e.2.finish 0 ((e.2.decode (old / 65536)).add 0 (e.2.decode (x / 65536)))).1, old)) ∧
    homeFn (.scaleAcc .f32) old x y = ((fp32.finish 0 ((fp32.decode x).fma 0 (fp32.decode y) (fp32.decode old))).1, old)) ∧
  (∀ (old x y : Nat), old < 2 ^ 64 → x < 2 ^ 64 → y < 2 ^ 64 →
    homeFn (.min .z64) old x y = (min old x, old) ∧ homeFn (.max .z64) old x y = (max old x, old) ∧
    homeFn (.min .s64) old x y = (if sextNat x 64 < sextNat old 64 then x else old, old) ∧
    homeFn (.max .s64) old x y = (if sextNat old 64 < sextNat x 64 then x else old, old) ∧
    homeFn (.min .f64) old x y = ((fpMinMax fp64 false old x).1, old) ∧
    homeFn (.max .f64) old x y = ((fpMinMax fp64 true old x).1, old) ∧
    homeFn (.fadd .f64) old x y = ((fp64.finish 0 ((fp64.decode old).add 0 (fp64.decode x))).1, old) ∧
    homeFn (.scaleAcc .f64) old x y = ((fp64.finish 0 ((fp64.decode x).fma 0 (fp64.decode y) (fp64.decode old))).1, old)) ∧
  ∀ (s : State) (ag : Agent) (p : Spot) (idx : Nat),
    let word := fun (i : Nat) => s.spotRead (p.at (4 * (idx / 256 ^ i % 32))) 4
    s.spotOp ag p (.gath idx) =
      (s, ((List.range 8).map fun i => 2 ^ (32 * i) * (word i).1).sum, (List.range 8).any fun i => (word i).2)

/-! ### Prefetch and cache control (14 R427; 12 R346, R347) -/

/-- PREF (14 R427) changes no register, no operation in flight and no byte; a line that it brings into L1 is the home's. -/
def Says.PrefResult : Prop :=
  ∀ (o : Opw) (s : State) (is : Issue), Issues (.pref o) o s is (brBad o s) noRd noMore →
    let pp := takePops s is (shape false (.pref o)) o
    ∃ t, exec (.pref o) s = .next t ∧ MemKept s t ∧ t.issue = s.issue ∧ t.wgs = s.wgs ∧
      (∀ x ∈ t.l1, x ∈ s.l1 ∨ ∃ zb, x.data = toBytes 128 (s.memRead (x.line * 128) 128 zb).1) ∧
      (o.sub.getLsbD 5 = false → RegsKept pp.2 t ∧ t.flights = s.flights) ∧
      (o.sub.toNat % 32 = 1 → t.l1 = s.l1) ∧
      ∀ gid g, pp.2.gang? gid = some g → ∃ g', t.gang? gid = some g' ∧ g'.v = g.v ∧ g'.s = g.s ∧ g'.p = g.p ∧ g'.k = g.k ∧
        g'.cause = g.cause ∧ g'.epc = g.epc ∧ g'.frags.map (·.2.bare) = g.frags.map (·.2.bare)

/-- CCTL.IINV (12 R346, R347): one operation of the LSU path that clears the instruction caches of its scope where HOME_APPLY applies it;
CCTL.L1INV: the L1 of the core drops its lines. -/
def Says.CctlCoreResult : Prop :=
  ∀ (o : Opw) (s : State) (is : Issue), s.counterFull is.ag 0 = false →
    (Issues (.cctlIinv o) o s is noBad noRd noMore → anyGuard s is o = true →
      ∃ t, exec (.cctlIinv o) s = .next t ∧ AddsFlight s t { newFlight s is (.cctlIinv o) 0 with
          rd := true, wr := true, scope := scopeOfAux o, accs := [acc1 0 0 .dev (.iinv (scopeOfAux o))] } ∧
        RegsKept s t ∧ MemKept s t ∧ t.l1 = s.l1 ∧ t.icache = s.icache) ∧
    (Issues (.cctlL1inv o) o s is noBad noRd noMore → anyGuard s is o = true →
      ∃ t, exec (.cctlL1inv o) s = .next t ∧ AddsFlight s t (newFlight s is (.cctlL1inv o) 0) ∧ RegsKept s t ∧ MemKept s t ∧
        t.icache = s.icache ∧ ∀ x ∈ t.l1, x ∈ s.l1 ∧ x.core ≠ s.unitOf is.ag)

/-- The page pieces of the lines that a lane's range covers (12 R347): lines of 128 bytes from `lo` to `hi`. -/
def l2Reqs (lane lo hi : Nat) : List AReq :=
  (List.range ((hi - 1) / 4096 + 1 - lo / 4096)).map fun k =>
    let a := max lo ((lo / 4096 + k) * 4096)
    let b := min hi ((lo / 4096 + k + 1) * 4096)
    { lane := lane, va := a, size := b - a, acc := .read, slot := k }

/-- CCTL.L2WB and CCTL.L2EV (12 R346, R347): each guarded lane's range, widened to whole lines, is written back (and evicted) at its
home, in tiers 0 and 1; a page whose translation meets poison is read as poison. -/
def L2Result (i : Instr) (o : Opw) (ev : Bool) : Prop :=
  ∀ (s : State) (is : Issue) (l : List (AReq × TrOk)), Issues i o s is noBad noRd noMore → s.counterFull is.ag 0 = false →
    let pp := takePops s is (shape false i) o
    let lanes := s.lanesAg is.ag (guardMask s is o)
    let va := fun k => genAddr o (srcA i o s is pp k) (srcB i o s is pp k)
    let reqs := lanes.flatMap fun k => if srcC i o s is pp k = 0 then [] else
      l2Reqs k (va k / 128 * 128) (alignUp (va k + srcC i o s is pp k) 128)
    AllPass s is 0 0 noReg reqs l →
    let v := popped i o (afterChecks s is l) is
    Flies i s pp.2 v { newFlight v is i 0 with
      mask := performed lanes reqs l,
      accs := (l.filter fun e => decide (e.2.tier < 2) || e.2.tier == poisonTier).map fun e =>
        accOf v is e.1 e.2 (if e.2.tier = poisonTier then .rd 1 else .wback e.1.size ev) }

/-- PREF and the four forms of CCTL. -/
def Obligations.CacheForms : Prop :=
  Says.PrefResult ∧ Says.CctlCoreResult ∧ ∀ o, L2Result (.cctlL2wb o) o false ∧ L2Result (.cctlL2ev o) o true

/-! ### Textures and images (15 R442-R446; 13 R383, R385) -/

/-- A texture read's operation: the lanes' results, worked out as the bundle issues (log entry 8: the model's choice, since the spec has
only the descriptors read at issue), to be delivered when it retires. -/
def texFlight (i : Instr) (o : Opw) (is : Issue) (u : State) (r : AttrOut) : Flight :=
  { (newFlight u is i 1).withAux o false with
    rd := true, dest := .v (o.dst.toNat % 256) (o.sub.toNat + 1) 0, mask := maskOf (r.vals.map (·.1)),
    accs := r.vals.map fun e =>
      { devAcc .none with lane := e.1, res := wordsNum (e.2.1.take (o.sub.toNat + 1)), done := true, poisoned := e.2.2 } }

/-- SAMP, SAMPG, SAMPL or TXLD with its descriptors read and well formed and its coordinate registers aligned and declared: one operation
of the TEX path with each guarded lane's sample. -/
def SampResult (mk : Opw → Instr) (k : SampKind) : Prop :=
  ∀ (o : Opw) (s s1 s2 : State) (is : Issue) (x y : Nat), Issues (mk o) o s is noBad noRd noMore → s.counterFull is.ag 1 = false →
    texWait s is = [] →
    let gm := guardMask s is o
    let ia := srcVal s is o (shape false (mk o)).a o.a .raw 1 [] 0
    let ta := srcVal s is o (shape false (mk o)).b o.b .raw 2 [] 0
    gm ≠ 0 → ia % 64 = 0 → ta % 32 = 0 → s.agFetch is.ag 1 0 ia 64 = .ok x s1 → s1.agFetch is.ag 1 0 ta 32 = .ok y s2 →
    let img := parseImage x
    let smp := parseSampler y
    img.bad = false → smp.bad = false →
    let c := o.c.toNat % 256
    let n := k.regs img
    (2 < n → c % 4 = 0) → (n = 2 → c % 2 = 0) →
    (∀ gid fid g, is.ag = .gang gid fid → s.gang? gid = some g → c + n ≤ (s.khOf g).vregs ∧ g.chk.getLsbD 0 = false) →
    let v := fun (j l : Nat) => srcVal s is o (.reg 1 1 1) (BitVec.ofNat 10 (c + j)) .raw 3 [] l
    let r := lanesAll [0, 0, 0, 0] (fun l t => t.sampLane is.ag k img smp is.mask (o.imm.toNat % 16) v l) (s.lanesAg is.ag gm) s2
    r.1.all = true → Flies (mk o) s s r.2 (texFlight (mk o) o is r.2 r.1)

/-- Coordinate registers that start at a number of the wrong multiple are illegal (15 R443): the trap is taken in place of the read. -/
def SampIllop (mk : Opw → Instr) (k : SampKind) : Prop :=
  ∀ (o : Opw) (s s1 s2 : State) (is : Issue) (x y gid fid : Nat), Issues (mk o) o s is noBad noRd noMore →
    s.counterFull is.ag 1 = false → texWait s is = [] → is.ag = .gang gid fid →
    let gm := guardMask s is o
    let ia := srcVal s is o (shape false (mk o)).a o.a .raw 1 [] 0
    let ta := srcVal s is o (shape false (mk o)).b o.b .raw 2 [] 0
    gm ≠ 0 → ia % 64 = 0 → ta % 32 = 0 → s.agFetch is.ag 1 0 ia 64 = .ok x s1 → s1.agFetch is.ag 1 0 ta 32 = .ok y s2 →
    (parseImage x).bad = false → (parseSampler y).bad = false →
    let c := o.c.toNat % 256
    let n := k.regs (parseImage x)
    ((2 < n ∧ c % 4 ≠ 0) ∨ (n = 2 ∧ c % 2 ≠ 0)) →
    ∃ causes, exec (mk o) s = runOp s (s.causeAt is o causes) ∧ causes.testBit 0 = true

/-- A place that IMLD or IMST names in a lane: its coordinates when they lie in the image's level. -/
def imgPlace (o : Opw) (s : State) (is : Issue) (img : Image) (l : Nat) : Option (Nat × Nat × Nat) :=
  let v := fun (j : Nat) => srcVal s is o (.reg 1 1 1) (BitVec.ofNat 10 (o.b.toNat % 256 + j)) .raw 2 [] l
  let level := o.imm.toNat % 16
  let y := if img.kind = 0 then 0 else v 1
  let z := if img.kind ≥ 2 then v 2 else 0
  if level < img.levels ∧ v 0 < img.wAt level ∧ y < img.hAt level ∧ z < img.dAt level then some (v 0, y, z) else none

/-- The accesses of a lane of IMLD or IMST: the first `n` channels of its texel, as one of up to 8 bytes, else one each, cut at pages; a lane
whose place is none of the image makes none. -/
def imgReqs (img : Image) (l level n : Nat) (acc : Access) (place : Option (Nat × Nat × Nat)) : List AReq :=
  match place with
  | none => []
  | some p =>
    let va := img.addr level p.1 p.2.1 p.2.2
    (if n * img.elemBytes ≤ 8 then [(va, n * img.elemBytes)]
      else (List.range n).map fun c => (va + c * img.elemBytes, img.elemBytes)).flatMap fun r =>
        (piecesOf r.1 r.2).map fun q => ({ lane := l, va := q.1, size := q.2, acc := acc, slot := q.1 - va } : AReq)

/-- IMLD (13 R385): one operation of the TEX path reads each guarded lane's texel, in its single-copy atomic parts; as it completes the
lane's registers get the texel's channels, or the outside value where its place is none of the image. -/
def Says.ImldResult : Prop :=
  ∀ (o : Opw) (s t : State) (is : Issue) (x : Nat) (q : List (AReq × TrOk)), Issues (.imld o) o s is noBad noRd noMore → s.counterFull is.ag 1 = false →
    texWait s is = [] →
    let gm := guardMask s is o
    let ia := srcVal s is o (shape false (.imld o)).a o.a .raw 1 [] 0
    gm ≠ 0 → ia % 64 = 0 → s.agFetch is.ag 1 0 ia 64 = .ok x t →
    let img := parseImage x
    img.bad = false → imageRange s is (o.b.toNat % 256) img.coords = 0 →
    let lanes := s.lanesAg is.ag gm
    let reqs := lanes.flatMap fun l => imgReqs img l (o.imm.toNat % 16) img.chans .read (imgPlace o s is img l)
    AllPass t is 1 0 noReg reqs q →
    let v := afterChecks t is q
    Flies (.imld o) s s v { (newFlight v is (.imld o) 1).withAux o false with
      rd := true, dest := .texel (o.dst.toNat % 256) (o.sub.toNat + 1) img.code img.chans, mask := performed lanes reqs q,
      accs := q.map fun d => accOf v is d.1 d.2 (.rd d.1.size) }

/-- IMST (13 R385) to a writable image: each lane that acts writes its channels where HOME_APPLY applies its accesses; a lane whose place is
none of the image writes nothing. -/
def Says.ImstResult : Prop :=
  ∀ (o : Opw) (s t : State) (is : Issue) (x : Nat) (q : List (AReq × TrOk)), Issues (.imst o) o s is noBad noRd noMore →
    s.counterFull is.ag 1 = false →
    let m := actLanes s is o
    let ia := srcVal s is o (shape false (.imst o)).a o.a .raw 1 [] 0
    m ≠ 0 → texWait s is = [] → ia % 64 = 0 → s.agFetch is.ag 1 0 ia 64 = .ok x t →
    let img := parseImage x
    img.bad = false → imageRange s is (o.b.toNat % 256) img.coords = 0 → img.writable = true →
    let n := min (o.sub.toNat + 1) img.chans
    let e := img.elemBytes
    let lanes := s.lanesAg is.ag m
    let reqs := lanes.flatMap fun l => imgReqs img l (o.imm.toNat % 16) n .write (imgPlace o s is img l)
    let data := fun (l : Nat) => srcVal s is o (shape false (.imst o)).c o.c .raw 3 [] l
    let texel := fun (l : Nat) => (List.range n).foldr (fun c a => img.encode (data l / 2 ^ (32 * c) % 2 ^ 32) % 256 ^ e + 256 ^ e * a) 0
    AllPass t is 1 0 noReg reqs q →
    let v := afterChecks t is q
    Flies (.imst o) s s v { (newFlight v is (.imst o) 1).withAux o false with
      wr := true, mask := performed lanes reqs q,
      accs := q.map fun d => accOf v is d.1 d.2 (.wr d.1.size (texel d.1.lane / 256 ^ d.1.slot % 256 ^ d.1.size) 0) }

/-- SAMP, SAMPG, SAMPL, TXLD, IMLD and IMST. That the lanes' texels of the first four are read, and their results worked out, as the bundle
issues is log entry 8's choice; IMLD's texels are read by the operation in flight. -/
def Obligations.TextureForms : Prop :=
  SampResult .samp .samp ∧ SampResult .sampg .sampg ∧ SampResult .sampl .sampl ∧ SampResult .txld .txld ∧
  SampIllop .samp .samp ∧ SampIllop .sampg .sampg ∧ SampIllop .sampl .sampl ∧ SampIllop .txld .txld ∧
  Says.ImldResult ∧ Says.ImstResult

/-! ### Graphics (12 R329, R330; 14 R422, R432, R433, R438, R439; 15 R467, R469) -/

/-- ATTR (12 R329, R330) to V registers or a queue: with the pass and its records read and every lane's record worked out, one operation of the
GFX path that delivers them. -/
def Says.AttrResult : Prop :=
  ∀ (o : Opw) (s t t1 : State) (is : Issue) (gid fid x b : Nat) (g : Gang) (recs : List BufRec) (toQ : Bool),
    Issues (.attr o) o s is (attrBad o s) (fun _ => [.v 0, .v 1, .v 2]) (attrPort o s) → is.ag = .gang gid fid →
    s.gang? gid = some g → opnd o.dst = (if toQ then .q b else .v b) →
    let gm := guardMask s is o
    let na := o.imm.toNat / 256 % 32
    let deriv := o.imm.getLsbD 13
    gm ≠ 0 → s.counterFull is.ag 2 = false → g.passAddr ≠ 0 →
    s.ordWait is.ag 2 true false = [] → s.agFetch is.ag 2 0 g.passAddr 128 = .ok x t →
    let p := parsePass g.passAddr (s.pasidOf is.ag) (s.partOf is.ag) (s.unitOf is.ag) x
    p.bad = false → attrRecs is gm (o.imm.toNat % 256) (na + 1) t = .ok (recs, t1) →
    let v := fun (n l : Nat) => srcVal s is o (.reg 1 1 1) (BitVec.ofNat 10 n) .raw 1 [] l
    let r := attrAll is.ag p recs deriv (fun l => v 0 l + 2 ^ 32 * v 1 l) (v 2) (s.lanesAg is.ag gm) t1
    r.1.all = true →
    Flies (.attr o) s t1 r.2 { newFlight r.2 is (.attr o) 2 with
      rd := true, dest := if toQ then .q b (attrWords na deriv) else .v b (attrWords na deriv) 0, mask := maskOf (r.1.vals.map (·.1)),
      accs := r.1.vals.map fun e =>
        { devAcc .none with lane := e.1, res := wordsNum e.2.1, done := !toQ, poisoned := e.2.2 } }

/-- PIXLK (14 R422, 08 R246): the lanes' words, which are of memory and no register's, are translated at once, and the fragment waits past the bundle with its tickets kept. -/
def Says.PixlkResult : Prop :=
  ∀ (o : Opw) (s : State) (is : Issue) (gid fid : Nat) (fr : Frag) (l : List (AReq × TrOk)),
    Issues (.pixlk o) o s is noBad noRd noMore → is.ag = .gang gid fid → s.frag? gid fid = some fr →
    let gm := guardMask s is o
    let pp := takePops s is (shape false (.pixlk o)) o
    gm ≠ 0 → s.checkAll is.ag 6 0 noReg (laneReqs (.pixlk o) o s is pp (s.lanesAg is.ag gm) 4 .rmw) = .ok l →
    let u := (takePops (afterChecks s is l) is (shape false (.pixlk o)) o).2
    ∃ t f, exec (.pixlk o) s = .next t ∧ t.issue = none ∧ MemKept s t ∧
      t.flights.find? u.nextId = some (u.inOrder { newFlight u is (.pixlk o) 6 with
        cnt := false, rd := true, accs := l.map fun (e : AReq × TrOk) => accOf u is e.1 e.2 (.rd 4),
        lw := (s.lanesAg is.ag gm).map fun k => (k, [srcC (.pixlk o) o s is pp k % 2 ^ 32]) }) ∧
      t.frag? gid fid = some f ∧ f.stat = .blocked .pixlk ∧ f.pendSeq = true ∧ f.pc = fr.pc ∧ f.mask = fr.mask

/-- The bundle leaves one operation in flight that comes after every earlier access of its fragment on any path. -/
def FliesAfter (i : Instr) (s u v : State) (ag : Agent) (f : Flight) : Prop :=
  ∃ t after, exec i s = .next t ∧ RegsKept u t ∧ MemKept s t ∧
    t.flights.find? v.nextId = some { v.inOrder f with after := after } ∧ (∀ k ∈ s.allEarlier ag, k ∈ after) ∧ (∀ k ∈ v.followed ag f, k ∈ after) ∧
    ∀ j, j ≠ v.nextId → t.flights.find? j = v.flights.find? j

/-- PIXUL (14 R422, 08 R246): each guarded lane's word becomes its ticket plus 1, after every earlier access of the fragment on any path. -/
def Says.PixulResult : Prop :=
  ∀ (o : Opw) (s : State) (is : Issue) (l : List (AReq × TrOk)), Issues (.pixul o) o s is noBad noRd noMore →
    s.counterFull is.ag 6 = false →
    let gm := guardMask s is o
    let pp := takePops s is (shape false (.pixul o)) o
    let reqs := laneReqs (.pixul o) o s is pp (s.lanesAg is.ag gm) 4 .write
    AllPass s is 6 0 (regAccess 4) reqs l →
    let v := popped (.pixul o) o (afterChecks s is l) is
    FliesAfter (.pixul o) s pp.2 v is.ag { newFlight v is (.pixul o) 6 with
      wr := true, rel := true, mask := performed (s.lanesAg is.ag gm) reqs l,
      accs := l.map fun (e : AReq × TrOk) =>
        accOf v is e.1 e.2 (.wr 4 ((srcC (.pixul o) o s is pp e.1.lane + 1) % 2 ^ 32) 0) }

/-- RTRACE (14 R438, R439) to V registers or a queue: the rays of the guarded lanes are read as it issues; each is on its way by itself, as one operation of the RAY
path, with the mode's permissions (09 Table 9.5), and marked where one of its fetches or hits meets a TSO page (06 R181). -/
def Says.RtraceResult : Prop :=
  ∀ (o : Opw) (s : State) (is : Issue) (gid fid b : Nat) (g : Gang) (toQ : Bool),
    Issues (.rtrace o) o s is noBad noRd (rtracePort o s) →
    is.ag = .gang gid fid → s.gang? gid = some g → opnd o.dst = (if toQ then .q b else .v b) →
    let gm := guardMask s is o
    let root := uniVal s is o (shape false (.rtrace o)).b o.b 2
    let lanes := s.lanesAg is.ag gm
    let ray := fun l => (List.range 12).map fun (i : Nat) =>
      srcVal s is o (.reg 1 12 4) o.a .raw 1 [] l / 2 ^ (32 * i) % 2 ^ 32
    gm ≠ 0 → s.counterFull is.ag 3 = false → root % 128 = 0 →
    ((∀ l ∈ lanes, ((ray l).getD 10 0).testBit 3 = true) ∨ g.passAddr ≠ 0) →
    let bins := lanes.filter fun l => !((ray l).getD 10 0).testBit 3
    let f0 := { newFlight s is (.rtrace o) 3 with
      rd := true, dest := if toQ then .q b 8 else .v b 8 0, mask := maskOf (lanes.filter fun l => ((ray l).getD 10 0).testBit 3),
      sw := [root, g.passAddr, (s.isSup is.ag).toNat], lw := lanes.map fun l => (l, ray l),
      accs := lanes.map fun l => { devAcc .none with lane := l } }
    let tso := (lanes.any fun l => s.rayTso f0 (ray l)) || (!bins.isEmpty && s.hitsTso f0 bins.length)
    let f := { f0 with pages := if tso then [{ vpage := 0, key := 0, tso := true, zb := false }] else [] }
    ∃ t, exec (.rtrace o) s = .next t ∧ RegsKept s t ∧ MemKept s t ∧
      t.flights.find? s.nextId = some (s.inOrder f) ∧
      (∀ i, i ≠ s.nextId → t.flights.find? i = s.flights.find? i) ∧
      (∀ (k : Nat) (h : k < lanes.length), t.rays.find? (s.nextId + 1 + k) = some { fl := s.nextId, lane := lanes[k] }) ∧
      ∀ i, i ≤ s.nextId → t.rays.find? i = s.rays.find? i

/-- A request stands at the end of the intake of the cluster's rasteriser (08 R224), ordered after the fragment's earlier accesses. -/
def RastResult (i : Instr) (o : Opw) (tile : State → Issue → Nat) (sealIt flush : Bool) : Prop :=
  ∀ (s : State) (is : Issue) (gid fid : Nat) (g : Gang), Issues i o s is noBad noRd noMore → anyGuard s is o = true →
    is.ag = .gang gid fid → s.gang? gid = some g → g.passAddr ≠ 0 → s.counterFull is.ag 6 = false →
    let c := clusterOf g.core
    (s.rastOf c).length < 64 →
    ∃ t v, exec i s = .next t ∧ RegsKept s t ∧ MemKept s t ∧ AddsFlight v t { newFlight v is i 6 with accs := [doneAcc 0 0] } ∧
      v.nextId = s.nextId + 1 ∧ v.flights = s.flights ∧
      t.rastOf c = s.rastOf c ++
        [{ id := s.nextId, pass := g.passAddr, tile := tile s is, sealIt := sealIt, flush := flush, pasid := s.pasidOf is.ag,
           part := s.partOf is.ag, cur := 0, cons := s.allEarlier is.ag }] ∧
      ∀ d, d ≠ c → t.rastOf d = s.rastOf d

/-- VBWR (15 R469, 08 R232) into a pass whose record is well formed: of each lane that acts, the pixel's tile status word and entry are
checked as written (a pixel outside the pass's tiles has no entry and raises PROT), and when all pass each lane merges its entry. A bad
record sets ERRS bit 4 of the pass (08 R219). -/
def Says.VbwrResult : Prop :=
  ∀ (o : Opw) (s s1 : State) (is : Issue) (gid fid x : Nat) (g : Gang) (l' : List (AReq × TrOk)), Issues (.vbwr o) o s is noBad noRd noMore →
    is.ag = .gang gid fid → s.gang? gid = some g → guardMask s is o ≠ 0 → g.passAddr ≠ 0 → s.counterFull is.ag 6 = false →
    s.devRead (s.unitOf is.ag) (s.pasidOf is.ag) (s.partOf is.ag) g.passAddr 128 = .ok x s1 →
    let p := parsePass g.passAddr (s.pasidOf is.ag) (s.partOf is.ag) (s.unitOf is.ag) x
    let pp := takePops s is (shape false (.vbwr o)) o
    let lanes := s.lanesAg is.ag (actLanes s is o)
    let px := fun l => srcA (.vbwr o) o s is pp l % 2 ^ 32
    let reqs := lanes.flatMap fun l => vbwrReqs p (px l % 65536) (px l / 65536) l (Config.freeNat s.fresh 3 % 8)
    (p.bad = false → AllPass s is 6 0 noReg reqs l' →
      let v := popped (.vbwr o) o (afterChecks s is l') is
      let m := performed lanes reqs l'
      Flies (.vbwr o) s pp.2 v { newFlight v is (.vbwr o) 6 with
        wr := true, mask := m, accs := (lanes.filter fun l => m.getLsbD l).map fun l =>
          { devAcc (.merge g.passAddr (s.partOf is.ag) (px l) (BitVec.ofNat 32 (srcB (.vbwr o) o s is pp l)) (srcC (.vbwr o) o s is pp l)
              (if o.sub = 1 then 6 else 4)) with
            lane := l, loc := (l'.find? fun e => e.1.lane == l && e.1.slot == 1).elim .dev fun e => e.2.loc 0 } }) ∧
    (p.bad = true → Flies (.vbwr o) s pp.2 pp.2 { newFlight pp.2 is (.vbwr o) 6 with
      wr := true, accs := [devAcc (.errs g.passAddr (s.partOf is.ag) 16)] })

/-- TLREL (15 R467, 08 R220, R240): the guarded lanes give up their entries; each tile entry whose last lane gives up loses a reference in
the pass that SR_VPLO and SR_VPHI name, after the fragment's earlier accesses. -/
def Says.TlrelResult : Prop :=
  ∀ (o : Opw) (s : State) (is : Issue) (gid fid : Nat) (g : Gang), Issues (.tlrel o) o s is noBad noRd noMore →
    is.ag = .gang gid fid → s.gang? gid = some g → s.counterFull is.ag 6 = false →
    let m := guardMask s is o
    let desc := s.devRead (s.unitOf is.ag) (s.pasidOf is.ag) (s.partOf is.ag) g.passAddr 128
    ∃ t g' f, exec (.tlrel o) s = .next t ∧ MemKept s t ∧ OthersKept is.ag s t ∧ t.gang? gid = some g' ∧
      g'.bare = (g.dropEntries m).bare ∧ t.flights.find? s.nextId = some f ∧
      f.accs = (g.endedEntries m).map (fun k =>
        { devAcc (.refsDec g.passAddr (s.partOf is.ag) k) with loc := s.tileWord is.ag g.passAddr desc k }) ∧
      (∀ k ∈ s.allEarlier is.ag, k ∈ f.after) ∧ ∀ i, i ≠ s.nextId → t.flights.find? i = s.flights.find? i

/-- ATTR, PIXLK, PIXUL, RTRACE, RASTQ, RFLUSH, VBWR and TLREL. That ATTR's records are read and worked out as the bundle issues, and that
PIXLK reads on the NMO path, is log entry 8's choice. -/
def Obligations.GraphicsForms : Prop :=
  Says.AttrResult ∧ Says.PixlkResult ∧ Says.PixulResult ∧ Says.RtraceResult ∧
  (∀ o : Opw, RastResult (.rastq o) o (fun s is => uniVal s is o (shape false (.rastq o)).a o.a 1) (o.sub == 1) false) ∧
  (∀ o : Opw, RastResult (.rflush o) o (fun _ _ => 0) false true) ∧ Says.VbwrResult ∧ Says.TlrelResult

/-! ### Tasks (12 R342-R344, R349-R352, R357-R361; 13 R395-R397; 14 R419-R421, R431) -/

/-- The fragment waits before its operation word takes effect: it issues the bundle again, and nothing else has changed. -/
def RetriesFor (i : Instr) (s : State) (ag : Agent) (b : Block) : Prop :=
  ∀ gid fid f, ag = .gang gid fid → s.frag? gid fid = some f →
    ∃ t, exec i s = .next t ∧ t.issue = none ∧ MemKept s t ∧ t.flights = s.flights ∧ OthersKept ag s t ∧
      t.frag? gid fid = some { f with stat := .blocked b, blockedAt := s.cycleOf ag }

/-- A task packet of 64 bytes submitted in state `v` (13 R396, R397; 07 R206): accepted at the end of its engine's queue; a full queue gives
LXSUB.NB its report and makes LXSUB wait at its bundle, with counter 5 raised for it from its issue. -/
def Submits (i : Instr) (o : Opw) (nb : Bool) (s v : State) (is : Issue) (x : Nat) : Prop :=
  let e := v.engineFor (v.clusterOfAg is.ag) (x / 2 ^ 16 % 2 ^ 8)
  let dest := if nb then Dest.k o.dst.toNat else .none
  lauterBad x = false → lauterOutside x (2 ^ v.partOf is.ag) = false →
  ((v.cmdq e).length < 64 → ∃ t u, exec i s = .next t ∧ RegsKept s t ∧ MemKept s t ∧ u.nextId = v.nextId ∧ u.flights = v.flights ∧
    AddsFlight u t { newFlight u is i 5 with dest := dest, accs := [doneAcc 0 0] } ∧
    (∃ p, t.cmdq e = v.cmdq e ++ [p] ∧ p.entry = x / 2 ^ 64 % 2 ^ 64 ∧ p.tag = x / 2 ^ 32 % 2 ^ 32 ∧ p.pasid = v.pasidOf is.ag ∧
      p.part = v.partOf is.ag ∧ (∀ j ∈ v.allEarlier is.ag, j ∈ p.cons) ∧
      ∀ k, k < 8 → (p.arg.getD k 0).toNat = x / 2 ^ (128 + 32 * k) % 2 ^ 32) ∧
    ∀ d, d ≠ e → t.cmdq d = v.cmdq d) ∧
  (64 ≤ (v.cmdq e).length → nb = true →
    Flies i s s v { newFlight v is i 5 with dest := dest, accs := [doneAcc 0 1] }) ∧
  (64 ≤ (v.cmdq e).length → nb = false → ∀ gid fid f, is.ag = .gang gid fid → v.frag? gid fid = some f →
    ∃ t, exec i s = .next t ∧ t.issue = none ∧ MemKept s t ∧ AddsFlight v t { newFlight v is i 5 with accs := [devAcc .none] } ∧
      OthersKept is.ag s t ∧ (∃ f', t.frag? gid fid = some f' ∧ { f'.bare with stat := f.stat, blockedAt := f.blockedAt } = f.bare ∧
        f'.stat = .blocked .lxsub) ∧
      ∀ d, t.cmdq d = v.cmdq d)

/-- LXSUB and LXSUB.NB (13 R395-R397): from a core the packet is the scratchpad's, from a Lauter context memory's. That it is what stands
there as the bundle issues, once what the path orders before it is applied, is the model's choice (log entry 37). -/
def LxsubResult (i : Instr) (o : Opw) (nb : Bool) : Prop :=
  ∀ (s : State) (is : Issue), Issues i o s is noBad noRd noMore → anyGuard s is o = true → s.counterFull is.ag 5 = false →
    s.lxsubWaits is.ag = none →
    (∀ gid fid g bytes, is.ag = .gang gid fid → s.gang? gid = some g → s.scrOf is.ag = some (g.wid, bytes) →
      let off := scrOff i o s is
      ScrInside bytes 64 [0] (fun _ => off) → s.scrWait is.ag g.wid off.toNat 64 = [] →
      (s.pathScr is.ag 0 g.wid off.toNat 64).2 = false →
      Submits i o nb s (s.afterScr is.ag 0 g.wid off.toNat 64) is (s.pathScr is.ag 0 g.wid off.toNat 64).1) ∧
    (∀ n r tr, is.ag = .ctx n → (∀ f ∈ s.flightsOf is.ag, ∀ a ∈ f.accs, a.done = true) →
      AllPass s is 5 (guardMask s is o) (regAccess 64)
        [{ lane := 0, va := genAddr o (srcVal s is o (shape true i).a o.a .raw 1 [] 0) 0, size := 64, align := 64, acc := .read }]
        [(r, tr)] →
      let v := afterChecks s is [(r, tr)]
      v.farAll is.ag [tr] = (false, []) → (v.pathRead is.ag 5 tr.tso tr.zb tr.key 64).2 = false →
      Submits i o nb s (v.afterPath is.ag 5 tr.tso tr.zb tr.key 64) is (v.pathRead is.ag 5 tr.tso tr.zb tr.key 64).1)

/-- A count barrier's operation (12 R342): its page passes, and one operation on the NMO path (LAU from a context) acts at its home. -/
def CbResult (i : Instr) (o : Opw) (acc : Access) (mk : State → Issue → Flight → Acc → Flight) (op : State → Issue → HomeOp) : Prop :=
  ∀ (s : State) (is : Issue) (r : AReq) (tr : TrOk), Issues i o s is noBad noRd noMore → anyGuard s is o = true →
    s.counterFull is.ag (nmoPath is.ag) = false →
    let va := cbAddr i o s is
    AllPass s is (nmoPath is.ag) (guardMask s is o) cbCheck [{ lane := 0, va := va, size := 32, align := 32, acc := acc }] [(r, tr)] →
    let v := afterChecks s is [(r, tr)]
    Flies i s s v (mk s is (newFlight v is i (nmoPath is.ag)) (acc1 0 va (tr.loc (v.partOf is.ag)) (op s is)))

/-- CBINIT (12 R343): its home sets the expected arrivals and bytes. -/
def Says.CbinitResult : Prop :=
  ∀ o : Opw, let sh := shape false (.cbinit o)
    CbResult (.cbinit o) o .rmw (fun _ _ f a => { f with scope := scopeOfAux o, wr := true, accs := [a] })
      fun s is => .cbInit (uniVal s is o sh.b o.b 2) (srcVal s is o sh.c o.c .raw 3 [] 0)

/-- CBARR (12 R343): its home counts arrivals and bytes, after what the release orders. -/
def Says.CbarrResult : Prop :=
  ∀ o : Opw, let sh := shape false (.cbarr o)
    CbResult (.cbarr o) o .rmw (fun _ _ f a => { f with scope := scopeOfAux o, rel := true, wr := true, accs := [a] })
      fun s is => .cbArrive (uniVal s is o sh.b o.b 2) (srcVal s is o sh.c o.c .raw 3 [] 0)

/-- CBTEST (12 R344), which only a gang has (Table 12.4): PHASE is read at the home, to be compared with the operand as it completes. Its
operation is marked an acquire whatever it finds; that a false result orders nothing is for its completion (log entry 36). -/
def Says.CbtestResult : Prop :=
  ∀ (o : Opw) (s : State) (is : Issue) (gid fid : Nat) (r : AReq) (tr : TrOk), Issues (.cbtest o) o s is noBad noRd noMore →
    anyGuard s is o = true → is.ag = .gang gid fid → s.counterFull is.ag 6 = false →
    let va := cbAddr (.cbtest o) o s is
    AllPass s is 6 (guardMask s is o) cbCheck [{ lane := 0, va := va, size := 32, align := 32, acc := .read }] [(r, tr)] →
    let v := afterChecks s is [(r, tr)]
    Flies (.cbtest o) s s v { newFlight v is (.cbtest o) 6 with
      scope := scopeOfAux o, acq := true, invals := if scopeOfAux o ≥ 2 then [is.ag] else [], rd := true,
      sw := [uniVal s is o (shape false (.cbtest o)).b o.b 2], dest := .k o.dst.toNat,
      accs := [acc1 0 va (tr.loc (v.partOf is.ag)) .cbRead] }

/-- CBWAIT (12 R344): the fragment waits past the bundle on its read of PHASE. -/
def Says.CbwaitResult : Prop :=
  ∀ (o : Opw) (s : State) (is : Issue) (gid fid : Nat) (fr : Frag) (r : AReq) (tr : TrOk), Issues (.cbwait o) o s is noBad noRd noMore →
    anyGuard s is o = true → is.ag = .gang gid fid → s.frag? gid fid = some fr → s.counterFull is.ag 6 = false →
    let va := cbAddr (.cbwait o) o s is
    AllPass s is 6 (guardMask s is o) cbCheck [{ lane := 0, va := va, size := 32, align := 32, acc := .read }] [(r, tr)] →
    let v := afterChecks s is [(r, tr)]
    ∃ t f, exec (.cbwait o) s = .next t ∧ t.issue = none ∧ MemKept s t ∧
      AddsFlight v t { newFlight v is (.cbwait o) 6 with
        scope := scopeOfAux o, acq := true, invals := if scopeOfAux o ≥ 2 then [is.ag] else [], rd := true,
        sw := [uniVal s is o (shape false (.cbwait o)).b o.b 2], accs := [acc1 0 va (tr.loc (v.partOf is.ag)) .cbRead] } ∧
      t.frag? gid fid = some f ∧ f.stat = .blocked (.cbwait v.nextId) ∧ f.pendSeq = true ∧ f.pc = fr.pc ∧ f.mask = fr.mask

/-- LXSUB, LXSUB.NB and the count barriers; the packet's reading at issue is log entry 37's choice, CBTEST's mark log entry 36's. -/
def Obligations.SubmissionForms : Prop :=
  (∀ o, LxsubResult (.lxsub o) o false ∧ LxsubResult (.lxsubNb o) o true) ∧
  Says.CbinitResult ∧ Says.CbarrResult ∧ Says.CbtestResult ∧ Says.CbwaitResult

/-- DCSET (12 R358, R359): a counter number of its partition, a value in range and an aligned task record are set at the task scheduler,
after every earlier access of the fragment; of a task address at or above 2^57 the low 57 bits are kept (log entry 64). -/
def Says.DcsetResult : Prop :=
  ∀ (o : Opw) (s : State) (is : Issue), Issues (.dcset o) o s is noBad noRd noMore → anyGuard s is o = true →
    s.counterFull is.ag 6 = false →
    let sh := shape false (.dcset o)
    let id := uniVal s is o sh.a o.a 1
    let n := uniVal s is o sh.b o.b 2
    let task := srcVal s is o sh.c o.c .raw 3 [] 0
    id ≤ 4095 → n ≤ 8388607 →
    (id / 512 = s.partOf is.ag → task % 64 = 0 →
      FliesAfter (.dcset o) s s s is.ag { newFlight s is (.dcset o) 6 with
        wr := true, rel := true, dest := .k o.dst.toNat, accs := [devAcc (.dcSet id n (task % 2 ^ 57) (s.pasidOf is.ag))] }) ∧
    (id / 512 ≠ s.partOf is.ag → ∃ c, exec (.dcset o) s = runOp s (s.causeAt is o c) ∧
      c.testBit 9 = true)

/-- DCDEC (12 R357, R359): a decrement at the task scheduler, after every earlier access of the fragment. -/
def Says.DcdecResult : Prop :=
  ∀ (o : Opw) (s : State) (is : Issue), Issues (.dcdec o) o s is noBad noRd noMore → anyGuard s is o = true →
    s.counterFull is.ag (nmoPath is.ag) = false →
    let sh := shapeOf is (.dcdec o)
    let id := uniVal s is o sh.a o.a 1
    let m := uniVal s is o sh.b o.b 2
    id / 512 = s.partOf is.ag → id ≤ 4095 → 1 ≤ m → m ≤ 8388607 →
    FliesAfter (.dcdec o) s s s is.ag { newFlight s is (.dcdec o) (nmoPath is.ag) with
      wr := true, rel := true, accs := [devAcc (.dcDec id m)] }

/-- DLAUNCH (12 R360, R361; 03 R79): the launch record of 128 bytes in the scratchpad joins the launches pending at its core, or is sent to
a free slot of the partition's launch-overflow area when four stand there; the report says which. That the record is what the scratchpad
holds as the bundle issues is the model's choice (log entry 37). -/
def Says.DlaunchResult : Prop :=
  ∀ (o : Opw) (s : State) (is : Issue) (gid fid bytes : Nat) (g : Gang), Issues (.dlaunch o) o s is noBad noRd noMore →
    anyGuard s is o = true → is.ag = .gang gid fid → s.gang? gid = some g → s.scrOf is.ag = some (g.wid, bytes) →
    s.counterFull is.ag 0 = false →
    let off := scrOff (.dlaunch o) o s is
    s.scrWait is.ag g.wid off.toNat 128 = [] → (s.pathScr is.ag 0 g.wid off.toNat 128).2 = false →
    let inQueue := (s.pending.filter fun p => p.core == g.core && !p.spilled).length
    let spills := (s.pending.filter fun p => p.part == s.partOf is.ag && p.spilled).length
    ScrInside bytes 128 [0] (fun _ => off) →
    (¬ (4 ≤ inQueue ∧ 4096 ≤ spills) →
      let bytes := toBytes 128 (s.pathScr is.ag 0 g.wid off.toNat 128).1
      ∃ t u p, exec (.dlaunch o) s = .next t ∧ RegsKept s t ∧ MemKept s t ∧
        AddsFlight u t { newFlight u is (.dlaunch o) 0 with
          dest := .k o.dst.toNat, accs := [doneAcc 0 (if 4 ≤ inQueue then 1 else 0)] } ∧
        t.pending = s.pending ++ [p] ∧ p.core = g.core ∧ p.spilled = decide (4 ≤ inQueue) ∧ p.pasid = s.pasidOf is.ag ∧
        p.part = s.partOf is.ag ∧ (∀ k ∈ s.allEarlier is.ag, k ∈ p.cons) ∧
        (inQueue < 4 → u.nextId = s.nextId ∧ u.flights = s.flights ∧ p.bytes = bytes) ∧
        (4 ≤ inQueue → s.lovfOk (s.partOf is.ag) = true → ∃ f, u.flights.find? s.nextId = some f ∧ s.nextId ∈ p.cons ∧
          f.accs.map (fun a => (a.loc, a.op, a.done)) =
            [(.mem (s.lovfKey p.part p.slot) false false, .wr 128 (leBytes bytes) 0, false)] ∧
          ∀ q ∈ s.pending, q.part = p.part → q.spilled = true → q.slot ≠ p.slot)) ∧
    (4 ≤ inQueue → 4096 ≤ spills → RetriesFor (.dlaunch o) s is.ag .dlaunch)

/-- DCSET, DCDEC and DLAUNCH; the launch record's reading at issue is log entry 37's choice. -/
def Obligations.TaskForms : Prop := Says.DcsetResult ∧ Says.DcdecResult ∧ Says.DlaunchResult

/-- NRALLOC (14 R419, R420; 03 R84) with no waiting request that could be met (log entry 91) and slots enough: each guarded lane gets the address of a slot of its own that was
FREE and is now HELD by its gang. -/
def Says.NrallocResult : Prop :=
  ∀ (o : Opw) (s : State) (is : Issue) (gid fid k b : Nat) (g : Gang) (node : Option Nat) (gr : Graph),
    Issues (.nralloc o) o s is (notGraph s) noRd noMore → is.ag = .gang gid fid → s.gang? gid = some g →
    s.graphOf g = some (k, node) → s.graphs.find? k = some gr → s.counterFull is.ag 6 = false → guardMask s is o ≠ 0 →
    opnd o.dst = .v b → s.nrallocNext gr = false →
    let lanes := s.lanesAg is.ag (guardMask s is o)
    (gr.split node lanes.length).isSome = true → lanes.length ≤ gr.slots - gr.cask.length →
    ∃ t fl gr' slots, exec (.nralloc o) s = .next t ∧ RegsKept s t ∧ MemKept s t ∧ t.flights.find? s.nextId = some fl ∧
      fl.dest = .v b 2 0 ∧ fl.path = 6 ∧ fl.accs = (lanes.zip slots).map (fun e => doneAcc e.1 (gr.pool + e.2 * 2 ^ gr.slotLog2)) ∧
      slots.length = lanes.length ∧ slots.Nodup ∧ t.graphs.find? k = some gr' ∧
      (∀ x ∈ slots, x < gr.slots ∧ gr.cask.find? x = none ∧ ∃ r, gr'.cask.find? x = some (.held gid r)) ∧
      ∀ x, x ∉ slots → gr'.cask.find? x = gr.cask.find? x

/-- NRALLOC without slots enough, or while a request that waits could be met (log entry 91), waits its turn (14 R420, 03 R84). -/
def Says.NrallocWaits : Prop :=
  ∀ (o : Opw) (s : State) (is : Issue) (gid fid k : Nat) (g : Gang) (fr : Frag) (node : Option Nat) (gr : Graph),
    Issues (.nralloc o) o s is (notGraph s) noRd noMore → is.ag = .gang gid fid → s.gang? gid = some g →
    s.frag? gid fid = some fr → s.graphOf g = some (k, node) → s.graphs.find? k = some gr → s.counterFull is.ag 6 = false →
    guardMask s is o ≠ 0 →
    (s.nrallocNext gr = true ∨ gr.split node (s.lanesAg is.ag (guardMask s is o)).length = none) →
    ∃ t f, exec (.nralloc o) s = .next t ∧ MemKept s t ∧ t.issue = none ∧ (t.flights.find? s.nextId).isSome = true ∧
      t.graphs.find? k = some { gr with blocked := gr.blocked ++ [(gid, fid)] } ∧
      t.frag? gid fid = some f ∧ f.stat = .blocked .nralloc ∧ f.pendSeq = true ∧ f.pc = fr.pc

/-- NRSEND (14 R419-R421): slots that the gang holds become COMMITTED to a later node, to join its batch after the fragment's earlier
accesses. -/
def Says.NrsendResult : Prop :=
  ∀ (o : Opw) (s : State) (is : Issue) (gid fid k : Nat) (g : Gang) (node : Option Nat) (gr : Graph) (xs : List Nat),
    Issues (.nrsend o) o s is (notGraph s) noRd noMore → is.ag = .gang gid fid → s.gang? gid = some g →
    s.graphOf g = some (k, node) → s.graphs.find? k = some gr → s.counterFull is.ag 6 = false → guardMask s is o ≠ 0 →
    slotsOf gr ((slotLanes (.nrsend o) o s is).map (·.2)) = some xs →
    let dst := uniVal s is o (shape false (.nrsend o)).b o.b 2
    dst < gr.nodes.length → (∀ j, node = some j → j < dst) →
    (∀ x ∈ xs, ∃ r, gr.cask.find? x = some (.held gid r)) →
    ∃ t fl gr', exec (.nrsend o) s = .next t ∧ RegsKept s t ∧ MemKept s t ∧ t.flights.find? s.nextId = some fl ∧
      fl.sw = k :: dst :: xs ∧ fl.path = 6 ∧ fl.rel = true ∧ (∀ e ∈ s.allEarlier is.ag, e ∈ fl.after) ∧
      (∀ j, j ≠ s.nextId → t.flights.find? j = s.flights.find? j) ∧ t.graphs.find? k = some gr' ∧
      (∀ x ∈ xs, gr'.cask.find? x = some (.committed dst)) ∧ ∀ x, x ∉ xs → gr'.cask.find? x = gr.cask.find? x

/-- NRDONE (14 R419, R420): slots that the gang holds, or that its lanes run on, are FREE again. -/
def Says.NrdoneResult : Prop :=
  ∀ (o : Opw) (s : State) (is : Issue) (gid fid k : Nat) (g : Gang) (node : Option Nat) (gr : Graph) (xs : List Nat),
    Issues (.nrdone o) o s is (notGraph s) noRd noMore → is.ag = .gang gid fid → s.gang? gid = some g →
    s.graphOf g = some (k, node) → s.graphs.find? k = some gr → s.counterFull is.ag 6 = false → guardMask s is o ≠ 0 →
    let ls := slotLanes (.nrdone o) o s is
    slotsOf gr (ls.map (·.2)) = some xs →
    (∀ e ∈ xs.zip (ls.map (·.1)), (∃ r, gr.cask.find? e.1 = some (.held gid r)) ∨
      ∃ x, gr.cask.find? e.1 = some (.running gid e.2 x)) →
    ∃ t u gr', exec (.nrdone o) s = .next t ∧ RegsKept s t ∧ MemKept s t ∧ u.nextId = s.nextId ∧ u.flights = s.flights ∧
      AddsFlight u t { newFlight u is (.nrdone o) 6 with accs := [doneAcc 0 0] } ∧
      t.graphs.find? k = some gr' ∧ (∀ x ∈ xs, gr'.cask.find? x = none) ∧ ∀ x, x ∉ xs → gr'.cask.find? x = gr.cask.find? x

/-- QBIND (14 R431, 07 R186-R190): the queue register is bound as its word says and is empty; a word bound to another queue of the gang
raises QBIND; unfinished operations on the queue are waited for. That a non-zero ENGINE beside another port than LAU_CMD is among the words
refused with ILLOP is the model's choice (log entry 98). -/
def Says.QbindResult : Prop :=
  ∀ (o : Opw) (s : State) (is : Issue) (gid fid n : Nat) (g : Gang), Issues (.qbind o) o s is noBad noRd noMore →
    anyGuard s is o = true → is.ag = .gang gid fid → s.gang? gid = some g → opnd o.dst = .q n → n < 16 →
    let w := uniVal s is o (shape false (.qbind o)).a o.a 1
    let other := ∃ k, k < 16 ∧ k ≠ n ∧ ((g.q.getD k Queue.none).bind).toNat = w ∧ w % 16 ≠ 0
    (bindOk w = true → ¬ other → (g.port n = 0 ∨ s.queueUsers gid n = []) →
      ∃ t g', exec (.qbind o) s = .next t ∧ MemKept s t ∧ DeviceKept s t ∧ FlightsKept s t ∧ OthersKept is.ag s t ∧
        t.gang? gid = some g' ∧ { g' with q := g.q } = { g with mshUsed := true } ∧
        g'.q.getD n Queue.none = { bind := BitVec.ofNat 32 w, words := [] } ∧
        ∀ k, k ≠ n → g'.q.getD k Queue.none = g.q.getD k Queue.none) ∧
    (bindOk w = false → exec (.qbind o) s = runOp s (s.causeAt is o cILLOP)) ∧
    (bindOk w = true → other → exec (.qbind o) s = runOp s (s.causeAt is o cQBIND)) ∧
    (bindOk w = true → ¬ other → g.port n ≠ 0 → s.queueUsers gid n ≠ [] →
      RetriesFor (.qbind o) s is.ag (.drain (s.queueUsers gid n)))

/-- The arrival of a fragment at a cohort that its workgroup is a member of (12 R349-R351): its lanes and, for CORED, its value are
counted, and it waits past the bundle for the phase. -/
def CohortResult (i : Instr) (o : Opw) (dest : Dest) (c : State → Issue → Nat) (v : State → Issue → Option (Nat × Nat)) : Prop :=
  ∀ (s : State) (is : Issue) (gid fid : Nat) (g : Gang) (fr : Frag) (w : Wg) (gr : Grid), Issues i o s is noBad noRd noMore →
    anyGuard s is o = true → is.ag = .gang gid fid → s.gang? gid = some g → s.frag? gid fid = some fr → s.wgOf g = some w →
    s.grids.find? w.grid = some gr → gr.inCohort w.linear (c s is) = true → s.counterFull is.ag 6 = false →
    let x := Tab.get Cohort.zero gr.cohorts (c s is)
    ∃ t gr' y f fl, exec i s = .next t ∧ MemKept s t ∧ t.issue = none ∧ t.grids.find? w.grid = some gr' ∧
      Tab.get Cohort.zero gr'.cohorts (c s is) = y ∧ y.phase = x.phase ∧
      y.lanes.find? w.linear = some ((x.lanes.find? w.linear).getD 0 + popLanes g.width is.mask) ∧
      y.values = x.values ++ (v s is).toList ∧ (∀ e ∈ s.allEarlier is.ag, e ∈ y.flights) ∧
      (∀ d, d ≠ c s is → gr'.cohorts.find? d = gr.cohorts.find? d) ∧
      t.flights.find? s.nextId = some fl ∧ fl.dest = dest ∧ fl.path = 6 ∧ fl.cur = c s is ∧
      t.frag? gid fid = some f ∧ f.stat = .blocked (.cohort (c s is) x.phase) ∧ f.pendSeq = true ∧ f.pc = fr.pc

/-- NRALLOC, NRSEND, NRDONE, QBIND, COBAR and CORED. -/
def Obligations.GraphAndCohortForms : Prop :=
  Says.NrallocResult ∧ Says.NrallocWaits ∧ Says.NrsendResult ∧ Says.NrdoneResult ∧ Says.QbindResult ∧
  (∀ o : Opw, CohortResult (.cobar o) o .none (fun s is => uniVal s is o (shape false (.cobar o)).a o.a 1) (fun _ _ => none)) ∧
  ∀ (o : Opw) (b : Nat), opnd o.dst = .s b →
    CohortResult (.cored o) o (.s b (redW (o.sub.toNat % 8) / 32) 0) (fun s is => uniVal s is o (shape false (.cored o)).b o.b 2)
      fun s is => some (o.sub.toNat + 64 * rndOf o,
        srcVal s is o (shape false (.cored o)).a o.a (redWiden (o.sub.toNat % 8)) 1 [] 0)

/-! ### The mash array (14 R402-R408, R415; 07 R191-R205) -/

/-- A gang that may issue one more MSH operation (07 R196). -/
def MshReady (i : Instr) (o : Opw) (more : Issue → Nat) (s : State) (is : Issue) (gid : Nat) (g : Gang) : Prop :=
  Issues i o s is noBad noRd more ∧ anyGuard s is o = true ∧ (∃ fid, is.ag = .gang gid fid) ∧ s.gang? gid = some g ∧
    (s.mshOps gid).length < 16 ∧ s.counterFull is.ag 4 = false

/-- The operand of an MSH operation is resolved (14 R398, R402): memory ranges that pass, an aligned range inside the scratchpad, a queue,
or V registers; `at_` is its number, `pages` its translated pages, `v` the state after the checks. -/
def MshAt (i : Instr) (o : Opw) (s : State) (is : Issue) (acc : Access) (ranges : Nat → List (Nat × Nat)) (more : List (Nat × Nat))
    (at_ : Nat) (pages : List PageMap) (v : State) : Prop :=
  let sh := shape false i
  let passes := fun (l : List (Nat × Nat)) => ∃ r, AllPass s is 4 (guardMask s is o) (regAccess 16) (rangeReqs acc l) r ∧
    v = afterChecks s is r ∧ pages = r.map fun (e : AReq × TrOk) => pageOf e.1.va e.2
  match mashKind o with
  | 0 => at_ = wrapInt ((srcVal s is o sh.a o.a .raw 1 [] 0 : Int) + sextNat (uniVal s is o sh.b o.b 2) 32) 64 ∧ at_ % 16 = 0 ∧
      passes (ranges at_ ++ more)
  | 1 => (at_ : Int) = (uniVal s is o sh.a o.a 1 : Int) + sextNat (uniVal s is o sh.b o.b 2) 32 ∧ at_ % 16 = 0 ∧
      (∃ w bytes, s.scrOf is.ag = some (w, bytes) ∧ ∀ e ∈ ranges at_, e.1 + e.2 ≤ bytes) ∧ passes more
  | 2 => opnd o.a = .q at_ ∧ passes more
  | _ => opnd o.a = .v at_ ∧ passes more

/-- The bundle leaves one MSH operation in flight, and its gang has used the array; no other register changes. -/
def MshFlies (i : Instr) (s v : State) (gid : Nat) (g : Gang) (f : Flight) : Prop :=
  ∃ t g', exec i s = .next t ∧ MemKept s t ∧ t.flights.find? v.nextId = some (v.inOrder f) ∧
    (∀ j, j ≠ v.nextId → t.flights.find? j = v.flights.find? j) ∧ t.gang? gid = some g' ∧
    g'.bare = { g with mshUsed := true }.bare ∧ OthersKept (.gang gid 0) s t ∧ (isMmaJ i = false → t.latches = s.latches)

/-- MLDW and MCBT (14 R403): an operation that will load the shadow plane, or the codebook, from its operand. -/
def Says.MashLoads : Prop :=
  ∀ (o : Opw) (s v : State) (is : Issue) (gid at_ : Nat) (g : Gang) (pages : List PageMap),
    (MshReady (.mldw o) o (mashPort o 2 s) s is gid g →
      MshAt (.mldw o) o s is .read (fun a => [(a, blockBytes (fmtB (s.fmtOf is.ag)) (fmtBsm (s.fmtOf is.ag)))]) [] at_ pages v →
      MshFlies (.mldw o) s v gid g (mshFlight v is (.mldw o) true false [mashKind o, at_] [] pages)) ∧
    (MshReady (.mcbt o) o noMore s is gid g → MshAt (.mcbt o) o s is .read (fun a => [(a, 512)]) [] at_ pages v →
      MshFlies (.mcbt o) s v gid g (mshFlight v is (.mcbt o) true false [mashKind o, at_] [] pages))

/-- MSWAP, MCLR and MTAG (14 R403, R404, R415): operations without an operand in memory. -/
def Says.MashPlain : Prop :=
  ∀ (o : Opw) (s : State) (is : Issue) (gid : Nat) (g : Gang),
    (MshReady (.mswap o) o noMore s is gid g → MshFlies (.mswap o) s s gid g (mshFlight s is (.mswap o) false false [] [] [])) ∧
    (MshReady (.mclr o) o noMore s is gid g →
      let n := uniVal s is o (shape false (.mclr o)).c o.c 3
      rowsOk n g.width (tileOf o.dst) = true →
      MshFlies (.mclr o) s s gid g (mshFlight s is (.mclr o) false false [0, 0, tileOf o.dst, n] [] [])) ∧
    (MshReady (.mtag o) o noMore s is gid g →
      let id := uniVal s is o (shape false (.mtag o)).a o.a 1
      id ≤ 4095 → id / 512 = s.partOf is.ag →
      MshFlies (.mtag o) s s gid g (mshFlight s is (.mtag o) false true [tileOf o.dst, id] [] []))

/-- Rows and tiles out of range are illegal, and no operation is issued (14 R402, 07 R196). -/
def Says.MashRows : Prop :=
  (∀ m width t, rowsOk m width t = true ↔ 1 ≤ m ∧ m ≤ width ∧ t + (m + 127) / 128 ≤ 8) ∧
  ∀ (o : Opw) (s : State) (is : Issue) (gid : Nat) (g : Gang),
    (MshReady (.mclr o) o noMore s is gid g →
      rowsOk (uniVal s is o (shape false (.mclr o)).c o.c 3) g.width (tileOf o.dst) = false →
      exec (.mclr o) s = runOp s (s.causeAt is o cILLOP)) ∧
    (MshReady (.mrd o) o (mashPort o 3 s) s is gid g →
      rowsOk (uniVal s is o (shape false (.mrd o)).c o.c 3) g.width (tileOf o.dst) = false →
      exec (.mrd o) s = runOp s (s.causeAt is o cILLOP)) ∧
    (MshReady (.mwr o) o (mashPort o 1 s) s is gid g →
      rowsOk (uniVal s is o (shape false (.mwr o)).c o.c 3) g.width (tileOf o.dst) = false →
      exec (.mwr o) s = runOp s (s.causeAt is o cILLOP))

/-- MRD and MWR (14 R404) of rows in range: an operation that moves the rows of the lanes active at issue; the V kind of MWR reads its
registers now, that of MRD writes them as it completes. -/
def Says.MashRowMoves : Prop :=
  ∀ (o : Opw) (s v : State) (is : Issue) (gid at_ : Nat) (g : Gang) (pages : List PageMap),
    (MshReady (.mrd o) o (mashPort o 3 s) s is gid g →
      let n := uniVal s is o (shape false (.mrd o)).c o.c 3
      let rows := rowLanes g.width is.mask n
      rowsOk n g.width (tileOf o.dst) = true →
      MshAt (.mrd o) o s is .write (fun a => rows.map fun m => (a + 256 * m, 256)) [] at_ pages v →
      let f := mshFlight v is (.mrd o) false true [mashKind o, at_, tileOf o.dst, n] [] pages
      MshFlies (.mrd o) s v gid g (if mashKind o = 3 then
        { f with dest := .v at_ 64 0, accs := f.accs ++ rows.map fun l => { devAcc .none with lane := l }, mask := maskOf rows }
        else f)) ∧
    (MshReady (.mwr o) o (mashPort o 1 s) s is gid g →
      let n := uniVal s is o (shape false (.mwr o)).c o.c 3
      let rows := rowLanes g.width is.mask n
      rowsOk n g.width (tileOf o.dst) = true →
      MshAt (.mwr o) o s is .read (fun a => rows.map fun m => (a + 256 * m, 256)) [] at_ pages v →
      MshFlies (.mwr o) s v gid g (mshFlight v is (.mwr o) true false [mashKind o, at_, tileOf o.dst, n]
        (if mashKind o = 3 then vRange s is o (o.a.toNat % 256) 64 rows else []) pages))

/-- MGRP (14 R405, 07 R198): the table is read as it issues and its entries are kept for the operation; an invalid one is illegal. That it
is what stands there as the bundle issues, once what the path orders before it is applied, is the model's choice (log entry 37). -/
def Says.MgrpResult : Prop :=
  ∀ (o : Opw) (s v : State) (is : Issue) (gid at_ : Nat) (g : Gang) (pages : List PageMap), MshReady (.mgrp o) o noMore s is gid g →
    let n := uniVal s is o (shape false (.mgrp o)).c o.c 3
    1 ≤ n → n ≤ 64 → mgrpWait s is = [] → (∀ p ∈ pages, v.farGate (v.unitOf is.ag) (v.pasidOf is.ag) p.key = none) →
    MshAt (.mgrp o) o s is .read (fun a => [(a, 16 * n)]) [] at_ pages v →
    ((∀ p ∈ pages, p.tso = false) ∨ v.tsoReads is.ag = []) →
    let r := v.pathScr is.ag 4 g.wid at_ (16 * n)
    let b := if mashKind o = 0 then v.readPages is.ag pages at_ (16 * n) else (toBytes (16 * n) r.1, r.2)
    let u := if mashKind o = 0 then v.afterPages is.ag pages at_ (16 * n) else v.afterScr is.ag 4 g.wid at_ (16 * n)
    b.2 = false →
    (∀ l, readGroups b.1 n = some l → MshFlies (.mgrp o) s u gid g
      (mshFlight u is (.mgrp o) true false [mashKind o, at_] [(keyGroups, l.flatMap fun e => [e.1, e.2])] pages)) ∧
    (readGroups b.1 n = none → exec (.mgrp o) s = runOp s (u.causeAt is o cILLOP))

/-- MMA, MMA.G, MMA.J and MMA.G.J (14 R406-R408, 07 R196): with formats, planes, rows and tiles as 04 R116 and 07 R196 want them, an
operation whose rows are those of the lanes active at issue. -/
def MmaResult (i : Instr) (o : Opw) : Prop :=
  ∀ (s v : State) (is : Issue) (gid fid at_ : Nat) (g : Gang) (pages : List PageMap),
    Issues i o s is (mmaPast o s) (mmaReads o s) (mashPort o 1 s) → anyGuard s is o = true → is.ag = .gang gid fid →
    s.gang? gid = some g → (s.mshOps gid).length < 16 → s.counterFull is.ag 4 = false →
    let x := s.fmtOf is.ag
    let p := s.planesAt g gid
    let gs := if isMmaG i then s.groupsAt g gid else []
    let m := if isMmaG i then gs.foldl (fun a e => a + e.1) 0 else uniVal s is o (shape false i).c o.c 3
    let koff := o.imm.toNat / 256 % 16
    let bad := mmaBad x (isMmaG i) p.1.1 p.1.2 koff m g.width (tileOf o.dst) || (isMmaG i && gs.isEmpty)
    (bad = true → exec i s = runOp s (s.causeAt is o cILLOP)) ∧
    (bad = false →
      let rows := rowLanes g.width is.mask m
      let lw := (if mashKind o = 3 then vRange s is o (o.a.toNat % 256) (actBytes x / 4) rows else []) ++
        (if isMmaG i then [(keyGroups, gs.flatMap fun e => [e.1, e.2])] else [])
      MshAt i o s is .read (fun a => [(a, m * actBytes x)])
        (gs.map fun e => (e.2, blockBytes (fmtB x) (fmtBsm x))) at_ pages v →
      MshFlies i s v gid g
        (mshFlight v is i true false [tileOf o.dst, koff, m, mashKind o, at_, o.imm.toNat % 256, g.mset.toNat] lw pages))

/-- A joint operation of a gang with no other waiting reaches a latch (07 R203, 14 R408). -/
def Says.MmaLatches : Prop :=
  ∀ (s : State) (gid : Nat) (g : Gang) (w : Wg) (f : Flight), s.gang? gid = some g → s.wgOf g = some w →
    s.flights.find? f.id = some f → gangOf f.ag = gid → isMmaJ f.instr = true →
    (∀ (k : Nat) (l : Latch), (k, l) ∈ s.latches → ∀ j ∈ l.flights, ∀ x, s.flights.find? j = some x → gangOf x.ag ≠ gid) →
    ∃ k l, (s.latchJoint f.id).latches.find? k = some l ∧ f.id ∈ l.flights ∧ (s.latchJoint f.id).flights = s.flights

/-- A generic operand address that is no multiple of 16 is misaligned whatever rows are selected (14 R399): no operation is issued. -/
def Says.MashMisaligned : Prop :=
  ∀ (o : Opw) (s : State) (is : Issue) (gid : Nat) (g : Gang),
    let n := fun (i : Instr) => uniVal s is o (shape false i).c o.c 3
    let va := fun (i : Instr) =>
      wrapInt ((srcVal s is o (shape false i).a o.a .raw 1 [] 0 : Int) + sextNat (uniVal s is o (shape false i).b o.b 2) 32) 64
    let stops := fun (i : Instr) => ∃ ti : TrapInfo, exec i s = runOp s (s.takeCause is.ag .fault ti) ∧ ti.causes.testBit 7 = true
    mashKind o = 0 → rowLanes g.width is.mask (n (.mrd o)) = [] →
    (MshReady (.mrd o) o (mashPort o 3 s) s is gid g → rowsOk (n (.mrd o)) g.width (tileOf o.dst) = true → va (.mrd o) % 16 ≠ 0 →
      stops (.mrd o)) ∧
    (MshReady (.mwr o) o (mashPort o 1 s) s is gid g → rowsOk (n (.mwr o)) g.width (tileOf o.dst) = true → va (.mwr o) % 16 ≠ 0 →
      rowLanes g.width is.mask (n (.mwr o)) = [] → stops (.mwr o))

/-- The mash-array instructions; MGRP's reading of its table at issue is log entry 37's choice. -/
def Obligations.MashForms : Prop :=
  Says.MashLoads ∧ Says.MashPlain ∧ Says.MashRows ∧ Says.MashRowMoves ∧ Says.MashMisaligned ∧ Says.MgrpResult ∧
  (∀ o : Opw, MmaResult (.mma o) o ∧ MmaResult (.mmaG o) o ∧ MmaResult (.mmaJ o) o ∧ MmaResult (.mmaGJ o) o) ∧ Says.MmaLatches

/-! ### Tensor movement (15 R462-R466) -/

/-- TMOV, TGATH, TSCAT and TFILL: one operation of the LAU path that holds its operands as read at issue, and whether it moves bytes of a TSO
page, as memory then tells (06 R181, log entry 8). -/
def TensorResult (i : Instr) (o : Opw) (walk : Bool) : Prop :=
  ∀ (s : State) (is : Issue), Issues i o s is noBad noRd noMore → anyGuard s is o = true → s.counterFull is.ag 5 = false →
    Flies i s s s (s.tMarked { newFlight s is i 5 with
      rd := true, wr := true, nt := o.aux.getLsbD 0, sw := tensorWords o s is walk, accs := [markAcc] })

/-- The elements of a walk (15 R463): element `j` has coordinates below the extents that count it, dimension 0 fastest, and its byte
offset is the sum of dimension 0's elements and of the strides. -/
def Says.TensorWalk : Prop :=
  ∀ (f : Flight) (j k size : Nat), j < f.tVolume →
    let c := fun d => (f.tCoords j).getD d 0
    let e := fun d => f.tw (5 + d)
    (∀ d, d < 5 → c d < e d) ∧ j = c 0 + e 0 * (c 1 + e 1 * (c 2 + e 2 * (c 3 + e 3 * c 4))) ∧
    f.tOffset k size j = (c 0 * size : Nat) + c 1 * sextNat (f.tw k) 32 + c 2 * sextNat (f.tw (k + 1)) 32 +
      c 3 * sextNat (f.tw (k + 2)) 32 + c 4 * sextNat (f.tw (k + 3)) 32

/-- The tensor-movement instructions and their walk. -/
def Obligations.TensorForms : Prop :=
  (∀ o : Opw, TensorResult (.tmov o) o true ∧ TensorResult (.tgath o) o false ∧ TensorResult (.tscat o) o false ∧
    TensorResult (.tfill o) o true) ∧ Says.TensorWalk

/-! ### The supervisor's operations (13 R375; 14 R428-R430; 15 R460, R461; log entry 40: PASIDs modulo 2^20, the fragment waits) -/

/-- The operation is handed to the device, and its fragment waits past the bundle until it has finished. -/
def HandsToDevice (i : Instr) (s : State) (is : Issue) (dest : Dest) (sw : List Nat) : Prop :=
  ∀ gid fid fr, is.ag = .gang gid fid → s.frag? gid fid = some fr →
    ∃ t, exec i s = .next t ∧ t.issue = none ∧ MemKept s t ∧ OthersKept is.ag s t ∧ t.nextId = s.nextId + 1 ∧
      t.flights.find? s.nextId = some { newFlight s is i sysPath with dest := dest, sw := sw, accs := [devAcc .none] } ∧
      (∀ j, j ≠ s.nextId → t.flights.find? j = s.flights.find? j) ∧
      t.frag? gid fid = some { fr with stat := .blocked (.drain [s.nextId]), blockedAt := s.cycleOf is.ag, pendSeq := true }

/-- PTMAP (14 R430) with legal flags takes SR_FADDR; other flags are illegal. -/
def Says.PtmapResult : Prop :=
  ∀ (o : Opw) (s : State) (is : Issue) (gid fid b : Nat) (g : Gang), Issues (.ptmap o) o s is noBad noRd noMore →
    anyGuard s is o = true → is.ag = .gang gid fid → s.gang? gid = some g → opnd o.dst = .s b →
    let flags := uniVal s is o (shape false (.ptmap o)).a o.a 1
    (flags < 64 → flags % 2 = 0 → HandsToDevice (.ptmap o) s is (.s b 1 0) [g.faddr.toNat, flags]) ∧
    ((64 ≤ flags ∨ flags % 2 = 1) → exec (.ptmap o) s = runOp s (s.causeAt is o cILLOP))

/-- PTINV (14 R429): the ranges of its own PASID and of another, a whole PASID, everything; an empty range does nothing; a PASID of
another partition raises PROT. -/
def Says.PtinvResult : Prop :=
  ∀ (o : Opw) (s : State) (is : Issue), Issues (.ptinv o) o s is noBad noRd noMore → anyGuard s is o = true →
    let sh := shape false (.ptinv o)
    let kind := o.sub.toNat
    let lo := srcVal s is o sh.a o.a .raw 1 [] 0
    let len := srcVal s is o sh.b o.b .raw 2 [] 0
    let pasid := if kind = 0 then s.pasidOf is.ag else uniVal s is o sh.c o.c 3 % 2 ^ 20
    let e := s.peekN (s.dev.pasidtab.toNat + 8 * pasid) 8
    let foreign := (kind = 1 ∨ kind = 2) ∧ e % 2 = 1 ∧ natBits e 63 61 ≠ s.partOf is.ag
    (foreign → exec (.ptinv o) s = runOp s (s.causeAt is o cPROT)) ∧
    (¬ foreign → kind ≤ 1 → len = 0 → exec (.ptinv o) s = .next s) ∧
    (¬ foreign → (kind ≤ 1 → len ≠ 0) →
      HandsToDevice (.ptinv o) s is .none [kind, lo / 4096 * 4096, alignUp (lo + len) 4096, pasid])

/-- PRIREQ (14 R428; 09 R263, R264) in a gang with a page fault standing: a request to the host under a free index, the fragment stopped,
the gang escalated and leaving; once the host takes no more, status 3 and the supervisor entered again. -/
def Says.PrireqResult : Prop :=
  ∀ (o : Opw) (s : State) (is : Issue) (gid fid i : Nat) (g : Gang) (sl : Slot) (w : Wg), Issues (.prireq o) o s is noBad noRd noMore →
    anyGuard s is o = true → is.ag = .gang gid fid → s.gang? gid = some g → g.slot = some sl → s.wgs.find? g.wid = some w →
    (g.cause.getLsbD 8 = true → s.priOff = false → (List.range 512).find? (fun k => (s.pri.find? k).isNone) = some i →
      ∃ t g' f w' acc, exec (.prireq o) s = .next t ∧ MemKept s t ∧ t.issue = none ∧ t.pri.find? i = some (gid, 1) ∧
        acc = g.fsub.toNat % 16 ∧
        t.hostOut = s.hostOut ++ [{ kind := msgPri, args := [i, s.pasidOf is.ag, g.faddr.toNat / 4096,
          if acc = 1 then 0 else 1, if acc = 1 ∨ acc = 2 then 1 else 0] }] ∧
        t.gang? gid = some g' ∧ g'.esc = 1 ∧ g'.frags.find? fid = some f ∧ f.stopped = true ∧ g'.cause = g.cause ∧
        t.wgs.find? g.wid = some w' ∧ w'.stat = .swapping (if s.parks w then 3 else 2)) ∧
    (g.cause.getLsbD 8 = true → s.priOff = true →
      ∃ t g' f, exec (.prireq o) s = .next t ∧ MemKept s t ∧ t.gang? gid = some g' ∧ g'.pristat = 3 ∧ g'.mode = .supHandler ∧
        g'.frags.find? fid = some f ∧ f.pc = (s.part w.part).supvec.toNat) ∧
    (g.cause.getLsbD 8 = false → exec (.prireq o) s = runOp s (s.causeAt is o cILLOP))

/-- SWAPO.OUT, SWAPO.IN, GKILL and GRES (13 R375; 15 R460, R461) are handed to the device with their operands; GRES of an outcome other than 1
and 3 is illegal. -/
def Says.SchedulerOps : Prop :=
  ∀ (o : Opw) (s : State) (is : Issue), anyGuard s is o = true →
    (Issues (.swapoOut o) o s is noBad noRd noMore → HandsToDevice (.swapoOut o) s is (.k o.dst.toNat) []) ∧
    (Issues (.swapoIn o) o s is noBad noRd noMore → HandsToDevice (.swapoIn o) s is (.k o.dst.toNat) []) ∧
    (Issues (.gkill o) o s is noBad noRd noMore → HandsToDevice (.gkill o) s is (.k o.dst.toNat)
      [uniVal s is o (shape false (.gkill o)).a o.a 1, uniVal s is o (shape false (.gkill o)).b o.b 2]) ∧
    (Issues (.gres o) o s is noBad noRd noMore →
      let sh := shape false (.gres o)
      let out := uniVal s is o sh.c o.c 3
      ((out = 1 ∨ out = 3) → HandsToDevice (.gres o) s is (.k o.dst.toNat)
        [uniVal s is o sh.a o.a 1, uniVal s is o sh.b o.b 2, out]) ∧
      (out ≠ 1 → out ≠ 3 → exec (.gres o) s = runOp s (s.causeAt is o cILLOP)))

/-- PTMAP, PTINV, PRIREQ, SWAPO, GKILL and GRES. PASIDs taken modulo 2^20, and the fragment blocked until the device has done SWAPO, GKILL
and GRES, are log entry 40's choice. -/
def Obligations.SupervisorForms : Prop := Says.PtmapResult ∧ Says.PtinvResult ∧ Says.PrireqResult ∧ Says.SchedulerOps

/-! ### Sequencing (11 R299-R302; 12 R339-R341, R362, R363; 13 R386, R387, R394; 14 R437) -/

/-- The fragment that issues goes on at an address once the bundle's stall has passed; nothing else changes. -/
def GoesTo (i : Instr) (s : State) (is : Issue) (pc : Nat) : Prop :=
  (∀ gid fid f, is.ag = .gang gid fid → s.frag? gid fid = some f →
    ∃ t, exec i s = .next t ∧ t.issue = none ∧ MemKept s t ∧ FlightsKept s t ∧ OthersKept is.ag s t ∧ t.frag? gid fid =
      some { f with pc := pc, readyAt := is.lastPass + 1 + is.ctl.stall.toNat, lastIssue := is.cyc, pendSeq := false, skip := 0,
                    rgOk := false, jt := none, run := if is.ctl.yld then 64 else f.run }) ∧
  ∀ n, is.ag = .ctx n → ∃ t, exec i s = .next t ∧ t.issue = none ∧ MemKept s t ∧ FlightsKept s t ∧ OthersKept is.ag s t ∧
    t.ctx n = { s.ctx n with pc := pc, readyAt := is.lastPass + 1 + is.ctl.stall.toNat, seqOnly := false, jt := none }

/-- A sequencing form that is carried out: an agent issues, no write is under way, and no cause waits for the form's end. -/
def Sequences (s : State) (is : Issue) : Prop := s.issue = some is ∧ s.journal = [] ∧ is.after = 0

/-- SEQ goes on at the next bundle (11 R302); JMP at the relative target (13 R387, 11 R301). -/
def Says.StraightResult : Prop :=
  (∀ is : Issue, is.next = is.pc + 16 ∧ (is.target : Int) = ((is.pc : Int) + 16 * is.ctl.ntgt.toInt) % 2 ^ 57) ∧
  ∀ (c : Ctl) (s : State) (is : Issue), Sequences s is → GoesTo (.seqF c) s is is.next ∧ GoesTo (.jmp c) s is is.target

/-- BRU (12 R340): the target when the K predicate differs from NNEG, else the next bundle. -/
def Says.BruResult : Prop :=
  ∀ (c : Ctl) (s : State) (is : Issue), Sequences s is →
    let v := seqVal s is (.k c.npred.toNat) 0 (if s.rdK is.ag c.npred.toNat then 1 else 0) = 1
    (v ≠ (c.nneg = true) → GoesTo (.bru c) s is is.target) ∧ (v = (c.nneg = true) → GoesTo (.bru c) s is is.next)

/-- LOOP (13 R394): the counter goes down by one, modulo 2^32, and the loop goes on while it is not zero. -/
def Says.LoopResult : Prop :=
  ∀ (c : Ctl) (s : State) (is : Issue) (gid fid : Nat) (f : Frag), Sequences s is → is.ag = .gang gid fid → s.frag? gid fid = some f →
    let n := c.npred.toNat
    n < 4 →
    let x := (seqVal s is (.lc n) 0 (s.rdLc is.ag n).toNat + (2 ^ 32 - 1)) % 2 ^ 32
    ∃ t f', exec (.loopF c) s = .next t ∧ MemKept s t ∧ OthersKept is.ag s t ∧ t.frag? gid fid = some f' ∧
      (f'.lc.getD n 0).toNat = x ∧ (∀ k, k < 4 → k ≠ n → f'.lc.getD k 0 = f.lc.getD k 0) ∧
      f'.pc = (if x ≠ 0 then is.target else is.next) ∧ f'.frames = f.frames ∧ f'.mask = f.mask

/-- CALL (12 R341): a frame with the next bundle's address is pushed, and the fragment goes on at the target; past the depth allowed, CALLDEPTH
in place of the sequencing. -/
def Says.CallResult : Prop :=
  ∀ (c : Ctl) (s : State) (is : Issue) (gid fid : Nat) (g : Gang) (f : Frag), Sequences s is → is.ag = .gang gid fid →
    s.gang? gid = some g → s.frag? gid fid = some f →
    (f.frames.length < s.callLimit g →
      ∃ t f', exec (.callF c) s = .next t ∧ MemKept s t ∧ OthersKept is.ag s t ∧ t.frag? gid fid = some f' ∧ f'.pc = is.target ∧
        f'.frames = { ret := is.next, owner := fid } :: f.frames ∧ f'.mask = f.mask ∧ f'.lc = f.lc ∧ f'.fmt = f.fmt) ∧
    (s.callLimit g ≤ f.frames.length → exec (.callF c) s = runOp s (s.takeCause is.ag .seqFault { causes := cCALLDEPTH }))

/-- RET (14 R437) inside its fragment's own frames: the newest frame is popped and its address is next; out of the frames that its split
record holds, the fragment leaves the tree. -/
def Says.RetResult : Prop :=
  ∀ (c : Ctl) (s : State) (is : Issue) (gid fid : Nat) (g : Gang) (f : Frag), Sequences s is → is.ag = .gang gid fid →
    s.gang? gid = some g → s.frag? gid fid = some f →
    (∀ a rest, f.frames = a :: rest → (∀ r, f.parent.bind (fun k => g.recs.find? k) = some r → r.frames.length ≤ rest.length) →
      ∃ t f', exec (.retF c) s = .next t ∧ MemKept s t ∧ OthersKept is.ag s t ∧ t.frag? gid fid = some f' ∧ f'.pc = a.ret ∧
        f'.frames = rest ∧ f'.parent = f.parent ∧ f'.mask = f.mask) ∧
    (∀ a rest r, f.frames = a :: rest → f.parent.bind (fun k => g.recs.find? k) = some r → rest.length < r.frames.length →
      g.slot = none →
      ∃ t f', exec (.retF c) s = .next t ∧ MemKept s t ∧ t.frag? gid fid = some f' ∧ f'.pc = a.ret ∧ f'.frames = rest ∧
        f'.parent = none ∧ f'.sdepth = 0 ∧ f'.mask = f.mask)

/-- JIND (13 R386): the fragment goes on at the target that was read before the operation word, when it is aligned and in range. -/
def Says.JindResult : Prop :=
  ∀ (c : Ctl) (s : State) (is : Issue), Sequences s is → jindTrap is = none → GoesTo (.jind c) s is is.jt

/-- An agent with no frame to return by. -/
def NoFrame (s : State) : Agent → Prop
  | .gang gid fid => ∃ g f, s.gang? gid = some g ∧ g.frags.find? fid = some f ∧ f.frames = []
  | .ctx n => (s.ctx n).frames = []

/-- What a control word alone can find wrong is found before any operation word takes effect (11 R302, 14 R437, 13 R386, Table 9.2): RET with
no frame is an ILLOP of the decode stage, whatever the operation word; and a JIND whose target is misaligned or past the 57-bit space
raises MISALIGN, PROT or both, once the decode stage has found nothing: beside a NOP always, and beside another operation word unless that
one raises a cause of the decode stage from its operands' values (09 R250). What these causes leave in SR_FADDR, SR_FSUB and SR_FMASK is the
model's reading, no rule: log entries 25 (the target as the address, an execute access by the fetch path, reason 7 for a merely misaligned
target too) and 17 (the mask). -/
def Says.SequencingCauses : Prop :=
  (∀ (is : Issue) (ti : TrapInfo), jindTrap is = some ti ↔ is.ctl.nsel = 7 ∧ (is.jt ≥ 2 ^ 57 ∨ is.jt % 16 ≠ 0) ∧
    ti = { causes := (if is.jt ≥ 2 ^ 57 then 2 ^ 9 else 0) + (if is.jt % 16 ≠ 0 then 2 ^ 7 else 0), faddr := is.jt,
           fsub := 3 + 7 * 16 + 7 * 256, fmask := is.mask }) ∧
  ∀ (i : Instr) (opc : Nat) (o : Opw) (s : State) (is : Issue), opParts i = some (opc, o) → s.issue = some is → s.journal = [] →
    let x := ownChecks i s is
    let c := decodeCauses i o is s x.1 x.2.1 x.2.2
    (is.ctl.nsel = 5 → NoFrame s is.ag → c.testBit 0 = true ∧
      ∃ ti : TrapInfo, exec i s = runOp s (s.takeCause is.ag .fault ti) ∧ ti.causes.testBit 0 = true) ∧
    (c = 0 → scrOut i o s is = 0 → ∀ ti, jindTrap is = some ti →
      (i = .nop o → exec i s = runOp s (s.takeCause is.ag .fault ti)) ∧
      (exec i s = runOp s (s.takeCause is.ag .fault ti) ∨ ∃ t, exec i s = runOp s t ∧ decodeRaised s t is.ag = true))

/-- BRL (12 R339; 02 R31, R32): taken by every active lane or by none it only moves the fragment; taken by some, the fragment splits, each
child with its lanes at its address, one level deeper; past the depth declared, SPLITDEPTH in place of the sequencing. -/
def Says.BrlResult : Prop :=
  ∀ (c : Ctl) (s : State) (is : Issue) (gid fid : Nat) (g : Gang) (f : Frag), Sequences s is → is.ag = .gang gid fid →
    s.gang? gid = some g → s.frag? gid fid = some f → fid < s.nextId → is.mask = f.mask →
    let taken := brlTaken c s is g
    (taken &&& f.mask = f.mask → GoesTo (.brl c) s is is.target) ∧
    (f.mask ≠ 0 → taken &&& f.mask = 0 → GoesTo (.brl c) s is is.next) ∧
    (taken &&& f.mask ≠ f.mask → taken &&& f.mask ≠ 0 →
      (f.sdepth + 1 ≤ (s.khOf g).splitd →
        ∃ t g' a b, exec (.brl c) s = .next t ∧ MemKept s t ∧ OthersKept is.ag s t ∧ t.gang? gid = some g' ∧
          g'.frags.find? fid = none ∧ g'.frags.find? s.nextId = some a ∧ g'.frags.find? (s.nextId + 1) = some b ∧
          a.mask = f.mask &&& taken ∧ a.pc = is.target ∧ b.mask = f.mask &&& ~~~taken ∧ b.pc = is.next ∧
          a.sdepth = f.sdepth + 1 ∧ b.sdepth = f.sdepth + 1 ∧ a.frames = f.frames ∧ b.frames = f.frames ∧
          a.parent = some fid ∧ b.parent = some fid ∧
          g'.recs.find? fid = some { fmt := f.fmt, lc := f.lc, frames := f.frames, sdepth := f.sdepth, parent := f.parent,
                                     childT := some s.nextId, childF := some (s.nextId + 1) }) ∧
      ((s.khOf g).splitd < f.sdepth + 1 →
        exec (.brl c) s = runOp s (s.takeCause is.ag .seqFault { causes := cSPLITDEPTH })))

/-- The two children of a split have the parent's lanes between them, and none in common (02 R32). -/
def Says.SplitLanes : Prop :=
  ∀ (m taken : LaneMask), (m &&& taken) ||| (m &&& ~~~taken) = m ∧ (m &&& taken) &&& (m &&& ~~~taken) = 0

/-- EXIT (12 R362, R363): the fragment's lanes leave, and its gang's other fragments stay where they are; from a context, the context begins its completion. A cause that waits for the sequencing comes before the exit. -/
def Says.ExitResult : Prop :=
  ∀ (c : Ctl) (s : State) (is : Issue), s.issue = some is → s.journal = [] →
    (is.after = 0 → ∀ n, is.ag = .ctx n → ∃ t, exec (.exitF c) s = .next t ∧ t.issue = none ∧ MemKept s t ∧ OthersKept is.ag s t ∧
      t.ctx n = { s.ctx n with stat := .completing, seqOnly := false }) ∧
    (is.after = 0 → ∀ gid fid g f, is.ag = .gang gid fid → s.gang? gid = some g → g.frags.find? fid = some f →
      ∃ t, exec (.exitF c) s = .next t ∧ t.issue = none ∧ MemKept s t ∧ t.frag? gid fid = none ∧
        ∀ id h, id ≠ fid → g.frags.find? id = some h →
          ∃ h', t.frag? gid id = some h' ∧ h'.pc = h.pc ∧ h'.mask = h.mask ∧ h'.frames = h.frames) ∧
    (is.after ≠ 0 → exec (.exitF c) s = runOp s (s.takeCause is.ag .exitAfter { causes := is.after }))

/-- A cause that waited for the sequencing (TRAP, BKPT; 09 R249) is taken once it is done: SR_EPC is the address it went to. -/
def Says.AfterCause : Prop :=
  ∀ (c : Ctl) (s : State) (is : Issue) (gid fid : Nat) (g : Gang) (f : Frag) (w : Wg), s.issue = some is → s.journal = [] →
    is.ag = .gang gid fid → s.gang? gid = some g → g.frags.find? fid = some f → g.slot = none → g.trap = none →
    s.wgs.find? g.wid = some w → is.after ≠ 0 →
    ∃ t g' f', exec (.jmp c) s = .next t ∧ MemKept s t ∧ t.gang? gid = some g' ∧ g'.frags.find? fid = some f' ∧
      f'.pc = is.target ∧ f'.stopped = true ∧ g'.cause = g.cause ||| BitVec.ofNat 64 is.after ∧
      g'.epc = BitVec.ofNat 64 is.target ∧ (t.wgs.find? g.wid).map (·.halted) = some true

/-- SEQ, JMP, BRU, BRL, CALL, RET, LOOP, JIND and EXIT complete: with no cause to be taken at its end, each answers a next state in which
the issue is over, its fragment at the address given (11 R302): SEQ and JMP always, BRU and LOOP at one of the two addresses,
CALL with a frame to spare, RET with a frame to return by, JIND to a target in range, BRL when it does not split its fragment and when it
does with a level to spare, EXIT without its fragment. -/
def Says.SequencingCompletes : Prop :=
  ∀ (c : Ctl) (s : State) (is : Issue) (gid fid : Nat) (g : Gang) (f : Frag), Sequences s is → is.ag = .gang gid fid →
    s.gang? gid = some g → s.frag? gid fid = some f →
    let At := fun (i : Instr) (pcs : List Nat) => ∃ t x, exec i s = .next t ∧ t.issue = none ∧ t.frag? gid fid = some x ∧ x.pc ∈ pcs ∧
      x.stopped = f.stopped ∧ x.mask = f.mask ∧ MemKept s t
    At (.seqF c) [is.next] ∧ At (.jmp c) [is.target] ∧ At (.bru c) [is.next, is.target] ∧ At (.loopF c) [is.next, is.target] ∧
    (f.frames.length < s.callLimit g → At (.callF c) [is.target]) ∧
    (∀ a rest, f.frames = a :: rest → (∀ r, f.parent.bind (fun k => g.recs.find? k) = some r → r.frames.length ≤ rest.length) →
      At (.retF c) [a.ret]) ∧
    (jindTrap is = none → At (.jind c) [is.jt]) ∧
    ((brlTaken c s is g &&& is.mask = is.mask ∨ brlTaken c s is g &&& is.mask = 0) → At (.brl c) [is.next, is.target]) ∧
    (brlTaken c s is g &&& is.mask ≠ is.mask → brlTaken c s is g &&& is.mask ≠ 0 → f.sdepth + 1 ≤ (s.khOf g).splitd →
      fid < s.nextId → ∃ t, exec (.brl c) s = .next t ∧ t.issue = none ∧ t.frag? gid fid = none ∧
        (t.frag? gid s.nextId).isSome = true ∧ (t.frag? gid (s.nextId + 1)).isSome = true ∧ MemKept s t) ∧
    ∃ t, exec (.exitF c) s = .next t ∧ t.issue = none ∧ t.frag? gid fid = none ∧ MemKept s t

/-- SEQ, JMP, BRU, BRL, CALL, RET, LOOP, JIND and EXIT: their effects, that they complete, and what stops RET and JIND before the operation
word. -/
def Obligations.SequencingForms : Prop :=
  Says.StraightResult ∧ Says.BruResult ∧ Says.LoopResult ∧ Says.CallResult ∧ Says.RetResult ∧ Says.JindResult ∧ Says.SequencingCauses ∧
  Says.BrlResult ∧
  Says.SplitLanes ∧ Says.ExitResult ∧ Says.AfterCause ∧ Says.SequencingCompletes

/-! ### The step: fetch, decode, execute (11 R298, R299; 05 R126; log entries 1, 4) -/

/-- When the bits that a chosen fragment fetches at its program counter decode to an operation and a control word, the step runs that
operation, and then, unless the operation ended the issue, the control word's sequencing form. -/
def Says.GangStep : Prop :=
  ∀ (s t u : State) (gid fid w : Nat) (f : Frag) (i : Instr) (c : Ctl), s.latch = some (.gang gid fid) → s.turn.frag? gid fid = some f →
    f.pendTrap = false → f.pendBkpt = false → f.pendSeq = false → s.turn.fetch (.gang gid fid) f.pc = .ok w t →
    decode w = some (i, c) → (c.rg = false ∨ f.rgOk = true) →
    let start := t.countIssue (t.newIssue (.gang gid fid) c (wideOp i) false)
    exec i start = .next u →
    (u.issue = none → step s = settled (.next u)) ∧ (∀ is, u.issue = some is → step s = settled (exec (seqInstr c) u))

/-- A bundle whose operation already took effect performs its sequencing alone (09 R249). -/
def Says.SeqOnlyStep : Prop :=
  ∀ (s t : State) (gid fid w : Nat) (f : Frag), s.latch = some (.gang gid fid) → s.turn.frag? gid fid = some f →
    f.pendTrap = false → f.pendBkpt = false → f.pendSeq = true → s.turn.fetch (.gang gid fid) f.pc = .ok w t →
    (ctlOf w).rg = false → (ctlOf w).nsel.toNat < 9 →
    step s = settled (exec (seqInstr (ctlOf w)) (t.countIssue (t.newIssue (.gang gid fid) (ctlOf w) false true)))

/-- The same for a Lauter context that the step has chosen (07 R208). -/
def Says.CtxStep : Prop :=
  ∀ (s t u : State) (n w : Nat) (i : Instr) (c : Ctl), s.latch = some (.ctx n) → (s.turn.ctx n).seqOnly = false →
    s.turn.fetch (.ctx n) (s.turn.ctx n).pc = .ok w t → decode w = some (i, c) →
    exec i (t.countIssue (t.newIssue (.ctx n) c false false)) = .next u →
    (u.issue = none → step s = settled (.next u)) ∧ (∀ is, u.issue = some is → step s = settled (exec (seqInstr c) u))

/-- With no agent chosen, the step runs the first event of the agenda, its cycles passed, or the event that the policy picks. -/
def Says.EventStep : Prop :=
  ∀ s : State, s.latch = none →
    (∀ e rest, s.agenda = e :: rest →
      let t := s.takeAgenda e rest
      t.cycle = s.cycle + e.wait ∧ t.agenda = rest ∧ t.mem = s.mem ∧ t.gangs = s.gangs ∧ t.flights = s.flights ∧
        step s = settled (exec e.ev t)) ∧
    (s.agenda = [] → step s = settled (exec s.choice.1 s.choice.2))

/-- Memory that is read plainly: no port of its range down, no ZB block, no poison. -/
def PlainMem (s : State) (k n : Nat) (z : Bool) : Prop :=
  s.cxlDownIn k n = false ∧ keyTier k ≠ poisonTier ∧ zbHere k z = false ∧ s.poisonIn k n = false

/-- What is fetched is the 16 bytes, least significant first, where the program counter's page stands, when the core's instruction cache
holds no copy of them (00 R7), in the device's own tiers. That such a fetch reads what memory then holds is the model's choice (log entry
79: 05 R126 allows older words). -/
def Says.FetchReads : Prop :=
  ∀ (s : State) (ag : Agent) (pc : Nat) (tr : TrOk), s.trAg ag pc .exec = .ok tr → PlainMem s tr.key 16 tr.zb → tr.isReg = false →
    tr.tier ≠ 3 → s.farGate (s.unitOf ag) (s.pasidOf ag) tr.key = none → s.portHeld tr.key s.cycle = false → (∀ l ∈ s.icache, ¬ (l.core = s.unitOf ag ∧ l.key = tr.key)) →
    ∃ t, s.fetch ag pc = .ok (s.peekN tr.key 16) t ∧ RegsKept s t ∧
      ∀ i, i < 16 → s.peekN tr.key 16 / 256 ^ i % 256 = (s.peek (tr.key + i)).toNat

/-- The step runs the decoded instruction. The operation word's meaning comes before the sequencing form's (log entry 67); what an uncached
fetch reads is log entry 79's choice. -/
def Obligations.StepRunsDecoded : Prop :=
  Says.GangStep ∧ Says.SeqOnlyStep ∧ Says.CtxStep ∧ Says.EventStep ∧ Says.FetchReads

/-! ### Accesses applied, and operations completed (05 R129-R138, R140; 06 R180) -/

/-- An access of an operation in flight that may act now at its home: nothing before it is outstanding, its chip is reached, no
retraining of its region holds it (10 R287), and it acts by itself. -/
def MayAct (s : State) (fl k : Nat) (f : Flight) (a : Acc) : Prop :=
  s.journal = [] ∧ s.flights.find? fl = some f ∧ f.id = fl ∧ f.path ≤ 6 ∧ f.path ≠ 4 ∧ isTensor f.instr = false ∧
    f.ownEvent = false ∧ (∀ o, f.instr ≠ .cbtest o) ∧ s.mayApply f = true ∧ f.accs[k]? = some a ∧ a.done = false ∧
    s.lineBusy f a = false ∧ s.tensorBefore f a = false ∧ s.unreachable a = false ∧ s.accHeld f a = false ∧ f.together k = [(a, k)]

/-- The access is done with its result; other operations and every register of every gang and context stay. -/
def ActsWith (s : State) (fl k : Nat) (fromL1 : Bool) (f : Flight) (res : Nat) (bad : Bool) (t : State) : Prop :=
  exec (.homeApply fl k fromL1) s = .next t ∧ t.flights.find? fl = some (f.markAt k res bad) ∧
    (∀ j, j ≠ fl → t.flights.find? j = s.flights.find? j) ∧ ∀ gid g, s.gang? gid = some g → ∃ m, t.gang? gid = some { g with mon := m }

/-- A read at its home: the bytes as a little-endian number (00 R7); no byte changes. In tier 3 the writes of the host that the access sees
come first (06 R185): `s.seeHost key` is the state with them, and `s` itself elsewhere. -/
def Says.HomeReads : Prop :=
  (∀ (s : State) (key : Nat), keyTier key ≠ 3 → s.seeHost key = s) ∧
  ∀ (s : State) (fl k n key : Nat) (tso z : Bool) (f : Flight) (a : Acc), MayAct s fl k f a → a.op = .rd n → a.loc = .mem key tso z →
    let u := s.seeHost key
    PlainMem u key n z → ∃ t, ActsWith s fl k false f (u.peekN key n) false t ∧ MemKept u t

/-- A read that the rules let L1 serve gets the bytes of the lines held, one line or two (05 R132), when no write through another path has
left older bytes to be found, and the home has not been seen to hold newer ones (06 R176). -/
def Says.L1Reads : Prop :=
  ∀ (s : State) (fl k n key : Nat) (tso z : Bool) (f : Flight) (a : Acc) (l : Nat → L1Line), MayAct s fl k f a → a.op = .rd n →
    a.loc = .mem key tso z → f.mayL1 a = true →
    (∀ i, i < n → s.l1Line (s.l1Core f.ag f.core (key + i)) (key + i) = some (l i)) →
    s.older = [] → (∀ i, i < n → (l i).behind.has ((key + i) % 128) = false) →
    ∃ t v, ActsWith s fl k true f v false t ∧ MemKept s t ∧
      ∀ i, i < n → v / 256 ^ i % 256 = ((l i).data.getD ((key + i) % 128) 0).toNat

/-- A store at its home: exactly its bytes change, to the value's bytes, least significant first; a count barrier in use that it touches
has unspecified fields after it (05 R142). -/
def Says.HomeWrites : Prop :=
  ∀ (s : State) (fl k n v key table : Nat) (tso z : Bool) (f : Flight) (a : Acc), MayAct s fl k f a → a.op = .wr n v table →
    a.loc = .mem key tso z →
    let u := s.seeHost key
    PlainMem u key n z →
    let hit := fun (j : Nat) => ∃ b ∈ s.cbUse, (key / 32 ≤ b ∧ b * 32 < key + n) ∧ b * 32 ≤ j ∧ j < b * 32 + 32
    ∃ t, ActsWith s fl k false f 0 false t ∧
      ∀ j, ¬ hit j → t.peek j = if key ≤ j ∧ j < key + n then BitVec.ofNat 8 (v / 256 ^ (j - key)) else u.peek j

/-- A read-modify-write at its home (05 R140): exactly its bytes change, to the function's new value; its result is the function's. -/
def Says.HomeUpdates : Prop :=
  ∀ (s : State) (fl k x y n key : Nat) (h : HomeFn) (tso z : Bool) (f : Flight) (a : Acc), MayAct s fl k f a → a.op = .rmw h x y n →
    a.loc = .mem key tso z →
    let u := s.seeHost key
    PlainMem u key n z →
    let r := homeFn h (u.peekN key n) x y
    ∃ t, ActsWith s fl k false f r.2 false t ∧
      ∀ j, t.peek j = if key ≤ j ∧ j < key + n then BitVec.ofNat 8 (r.1 / 256 ^ (j - key)) else u.peek j

/-- A read or a store that meets a poisoned sector changes no byte, and its lane is poisoned (05 R131). -/
def Says.HomePoison : Prop :=
  ∀ (s : State) (fl k key n : Nat) (tso z : Bool) (f : Flight) (a : Acc), MayAct s fl k f a → a.loc = .mem key tso z →
    (a.op = .rd n ∨ ∃ v table, a.op = .wr n v table) → zbHere key z = false → s.poisonIn key n = true →
    ∃ t, ActsWith s fl k false f 0 true t ∧ MemKept (s.seeHost key) t

/-- A read and a store of a workgroup's scratchpad, whose workgroup is on its cores (05 R134); at a poisoned sector neither changes a byte,
and the lane is poisoned (10 R290). -/
def Says.ScratchActs : Prop :=
  ∀ (s : State) (fl k n wid off : Nat) (f : Flight) (a : Acc) (w : Wg), MayAct s fl k f a → a.loc = .scr wid off →
    s.wgs.find? wid = some w → w.onChip = true →
    (s.scrPoison wid off n = true → (a.op = .rd n ∨ ∃ v table, a.op = .wr n v table) →
      ∃ t, ActsWith s fl k false f 0 true t ∧ MemKept s t ∧ t.wgs = s.wgs) ∧
    (s.scrPoison wid off n = false → a.op = .rd n → ∃ t, ActsWith s fl k false f (s.scrRead wid off n) false t ∧ MemKept s t ∧ t.wgs = s.wgs) ∧
    (∀ v table, s.scrPoison wid off n = false → a.op = .wr n v table →
      ∃ t w', ActsWith s fl k false f 0 false t ∧ MemKept s t ∧ t.wgs.find? wid = some w' ∧
      { w' with scr := w.scr } = w ∧
      ∀ j, Tab.get 0 w'.scr j = if off ≤ j ∧ j < off + n then BitVec.ofNat 8 (v / 256 ^ (j - off)) else Tab.get 0 w.scr j)

/-- IINV (12 R346) where it is applied: the instruction caches in its scope are cleared, and the others keep what they hold. -/
def Says.IinvActs : Prop :=
  ∀ (s : State) (fl k scope : Nat) (f : Flight) (a : Acc), MayAct s fl k f a → a.op = .iinv scope →
    ∃ t, ActsWith s fl k false f 0 false t ∧ MemKept s t ∧
      ∀ l, l ∈ t.icache ↔ l ∈ s.icache ∧ iinvHits s f.ag f.core scope l.core = false

/-! ### What MSH operations do as they apply (07 R193-R199; 14 R402-R406) -/

/-- An MSH operation whose next effect may apply now: the oldest of its gang, whose workgroup runs and whose planes are current; no earlier
access, route or port holds it. -/
def MashActs (s : State) (fl gid : Nat) (f : Flight) (g : Gang) : Prop :=
  s.journal = [] ∧ s.flights.find? fl = some f ∧ f.id = fl ∧ f.path = 4 ∧ s.mayApply f = true ∧ f.withdrawn = false ∧
    (∃ fid, f.ag = .gang gid fid) ∧ s.gang? gid = some g ∧ (∃ w, s.wgOf g = some w ∧ w.stat = .resident) ∧
    (s.mshPending gid).head?.map (·.id) = some fl ∧ (∀ p ∈ f.pages, s.farKey p.key = false) ∧ s.pagesHeld f = false ∧
    g.active.stale = false ∧ g.shadow.stale = false

/-- The operation has had its last effect. -/
def AllDone (f : Flight) : Prop := ∀ a ∈ f.accs, a.done = true

/-- One effect of the operation: `q` holds of the state, its gang and its record; the gang's registers and causes and the other gangs stay. -/
def MashTo (s : State) (fl k gid : Nat) (fromL1 : Bool) (g : Gang) (q : State → Gang → Flight → Prop) : Prop :=
  ∃ t g' f', exec (.homeApply fl k fromL1) s = .next t ∧ t.gang? gid = some g' ∧ t.flights.find? fl = some f' ∧ q t g' f' ∧
    g'.frags = g.frags ∧ g'.v = g.v ∧ g'.s = g.s ∧ g'.p = g.p ∧ g'.k = g.k ∧ g'.h = g.h ∧ g'.cause = g.cause ∧ g'.asyncs = g.asyncs ∧
    ∀ j x, j ≠ gid → s.gang? j = some x → ∃ m, t.gang? j = some { x with mon := m }

/-- MSWAP, MLDW under its grant, MCBT and MGRP (07 R194, R198, R199; 14 R403, R405): the planes change places with their formats and
sources; the shadow plane holds the block, its format, and its address if it comes from memory; the codebook; the group table. An MLDW of a
queue takes a row's words at a time, which is log entry 39's choice, and loads the plane when it has the block. -/
def Says.PlanesAct : Prop :=
  ∀ (s : State) (fl k gid : Nat) (fromL1 : Bool) (f : Flight) (g : Gang) (o : Opw), MashActs s fl gid f g →
    let kind := f.sw.getD 0 0
    let at_ := f.sw.getD 1 0
    let rest := fun (t : State) (g' : Gang) => MemKept s t ∧ g'.a = g.a ∧ g'.active = g.active
    let loads := fun (data : List Byte) => MashTo s fl k gid fromL1 g fun t g' f' =>
      rest t g' ∧ AllDone f' ∧ g'.codebook = g.codebook ∧ g'.groups = g.groups ∧
        g'.shadow = { fmt := fmtB f.fmt, src := if kind = 0 then at_ else 0, held := true, stale := false, data := data, bad := [] }
    let granted := s.kilnHas (clusterOf g.core) (kilnOp fl) = true
    (f.instr = .mswap o → MashTo s fl k gid fromL1 g fun t g' f' => MemKept s t ∧ g'.a = g.a ∧ AllDone f' ∧
      g'.active = g.shadow ∧ g'.shadow = g.active ∧ g'.codebook = g.codebook ∧ g'.groups = g.groups) ∧
    (f.instr = .mldw o → granted → kind ≠ 2 →
      let r := s.operandBytes f kind at_ 0 (blockBytes (fmtB f.fmt) (fmtBsm f.fmt)) 0
      r.2 = false → loads r.1) ∧
    (f.instr = .mldw o → granted → kind = 2 → at_ < 16 →
      (f.mldwWant = 0 → loads (wordBytes (f.kept keyWords))) ∧
      (f.mldwWant ≠ 0 → f.mldwWant ≤ (g.qwords at_).length → MashTo s fl k gid fromL1 g fun t g' f' => rest t g' ∧ g'.shadow = g.shadow ∧
        g'.qwords at_ = (g.qwords at_).drop f.mldwWant ∧
        f'.kept keyWords = f.kept keyWords ++ ((g.qwords at_).take f.mldwWant).map (·.toNat))) ∧
    (f.instr = .mcbt o →
      let r := s.operandBytes f kind at_ 0 512 0
      r.2 = false → MashTo s fl k gid fromL1 g fun t g' f' => rest t g' ∧ AllDone f' ∧ g'.shadow = g.shadow ∧ g'.groups = g.groups ∧
        g'.codebook = r.1) ∧
    (f.instr = .mgrp o → MashTo s fl k gid fromL1 g fun t g' f' => rest t g' ∧ AllDone f' ∧ g'.shadow = g.shadow ∧
      g'.codebook = g.codebook ∧ g'.groups = groupsOf (f.kept keyGroups))

/-- The number of word `n` of row `m` from tile `t` on. -/
def tileWord (t m n : Nat) : Nat := 8192 * (t + m / 128) + 64 * (m % 128) + n

/-- The operation's next row, of the tiles from `t` on, is bound to a physical tile (07 R191), which leaves `s1`. -/
def TileBound (s s1 : State) (gid t : Nat) (f : Flight) (g1 : Gang) : Prop :=
  s.bindTile gid (t + f.cur / 128) = some s1 ∧ s1.gang? gid = some g1

/-- Binding a tile (07 R191): no tile's contents change, and no byte of memory when the store holds it already. -/
def Says.TileBinding : Prop :=
  ∀ (s s1 : State) (gid tile : Nat), s.bindTile gid tile = some s1 → (gid, tile) ∈ s1.tiles ∧ s1.flights = s.flights ∧
    (∀ j g, s.gang? j = some g → ∃ b, s1.gang? j = some { g with abad := b }) ∧ ((gid, tile) ∈ s.tiles → MemKept s s1)

/-- Rows of an MMA (07 R196, 04 R118) that is neither grouped nor joint, with its weights and tiles free of poison, and of 64 rows or more
under its grant (07 R217): every element of a row whose lane was active is the product's with the plane's columns from the plane offset on,
added to what stood there; every other word of the tiles stays. With activations from V registers the rows up to the next multiple of 128;
from elsewhere one row, where that is the next stop or the source is a queue. -/
def Says.MmaActs : Prop :=
  ∀ (s s1 : State) (fl k gid : Nat) (fromL1 : Bool) (f : Flight) (g g1 : Gang) (o : Opw), MashActs s fl gid f g → f.instr = .mma o →
    let t0 := f.sw.getD 0 0
    let koff := f.sw.getD 1 0
    let m := f.sw.getD 2 0
    let kind := f.sw.getD 3 0
    let at_ := f.sw.getD 4 0
    let stop := min m ((f.cur / 128 + 1) * 128)
    f.cur < m → (m < 64 ∨ s.kilnHas (clusterOf g.core) (kilnOp fl) = true) → f.kept keyGroups = [] →
    (∀ e ∈ s.latches, fl ∉ e.2.flights) → TileBound s s1 gid t0 f g1 → g1.abad = [] → g.active.bad = [] →
    let writes := fun (last : Nat) (bytes : Nat → List Byte) (q : Gang → Prop) => MashTo s fl k gid fromL1 g fun t g' f' =>
      MemKept s1 t ∧ g'.active = g.active ∧ g'.shadow = g.shadow ∧ g'.codebook = g.codebook ∧ g'.groups = g.groups ∧ f'.cur = last ∧
      (last = m → AllDone f') ∧ q g' ∧
      (∀ r n, f.cur ≤ r → r < last → f.mask.getLsbD r = true → n < 64 →
        Tab.get 0 g'.a (tileWord t0 r n) = BitVec.ofNat 32 (mmaElement f.fmt (actElems f.fmt (bytes r) s.fresh)
          (planeElems f.fmt g.active g.codebook n (koff * kpOf f.fmt) s.fresh) (Tab.get 0 g.a (tileWord t0 r n)).toNat)) ∧
      ∀ w, (∀ r n, f.cur ≤ r → r < last → f.mask.getLsbD r = true → n < 64 → w ≠ tileWord t0 r n) → Tab.get 0 g'.a w = Tab.get 0 g.a w
    let len := actBytes f.fmt
    (kind = 3 → writes stop (fun r => wordBytes (f.kept r)) fun _ => True) ∧
    (kind ≤ 1 → stop = f.cur + 1 →
      let r := s1.operandBytes f kind at_ (f.cur * len) len f.cur
      r.2 = false → writes stop (fun _ => r.1) fun _ => True) ∧
    (kind = 2 → at_ < 16 → len / 4 ≤ (g.qwords at_).length →
      writes (f.cur + 1) (fun _ => wordBytes (((g.qwords at_).take (len / 4)).map (·.toNat))) fun g' =>
        g'.qwords at_ = (g.qwords at_).drop (len / 4))

/-- The next row of MCLR, MWR and MRD (07 R199, 14 R404), a row of a lane active at issue: its 64 words become zero, those of the source, or
go to the destination; every other word of the tiles stays, and no word at all for a lane that was not active. A row moves through a queue
whatever its lane. MWR's row lies in one page or piece of its source as `operandBytes` reads it; MRD's here in one page. -/
def Says.TileRowsAct : Prop :=
  ∀ (s s1 : State) (fl k gid : Nat) (fromL1 : Bool) (f : Flight) (g g1 : Gang) (o : Opw), MashActs s fl gid f g →
    let kind := f.sw.getD 0 0
    let at_ := f.sw.getD 1 0
    let t0 := f.sw.getD 2 0
    let m := f.cur
    let act := f.mask.getLsbD m
    let word := fun (n : Nat) => Tab.get 0 g.a (tileWord t0 m n)
    TileBound s s1 gid t0 f g1 →
    let goes := fun (q : State → Gang → Flight → Prop) => MashTo s fl k gid fromL1 g fun t g' f' =>
      f'.cur = m + 1 ∧ (f.sw.getD 3 0 ≤ m + 1 → AllDone f') ∧ g'.active = g.active ∧ g'.shadow = g.shadow ∧ g'.codebook = g.codebook ∧
        g'.groups = g.groups ∧ q t g' f'
    let puts := fun (ws : Nat → Nat) (q : Gang → Prop) => goes fun t g' _ => MemKept s1 t ∧ q g' ∧
      (act = true → g'.rowBad t0 m = false ∧ ∀ n, n < 64 → Tab.get 0 g'.a (tileWord t0 m n) = BitVec.ofNat 32 (ws n)) ∧
      ∀ w, (∀ n, n < 64 → act = true → w ≠ tileWord t0 m n) → Tab.get 0 g'.a w = Tab.get 0 g.a w
    (f.instr = .mclr o → puts (fun _ => 0) fun _ => True) ∧
    (f.instr = .mwr o → kind = 2 → at_ < 16 → 64 ≤ (g.qwords at_).length →
      puts (fun n => ((g.qwords at_).getD n 0).toNat) fun g' => g'.qwords at_ = (g.qwords at_).drop 64) ∧
    (f.instr = .mwr o → kind ≠ 2 →
      let r := s1.operandBytes f kind at_ (256 * m) 256 m
      (act = true → r.2 = false ∧ r.1.length = 256) → puts (fun n => numAt r.1 (4 * n) 4) fun _ => True) ∧
    (f.instr = .mrd o → g1.rowBad t0 m = false →
      (kind = 2 → at_ < 16 → (g.qwords at_).length + 64 ≤ 256 → goes fun t g' _ => MemKept s1 t ∧ g'.a = g.a ∧
        g'.qwords at_ = g.qwords at_ ++ (List.range 64).map word) ∧
      (kind ≠ 2 → act = false → goes fun t g' _ => MemKept s1 t ∧ g'.a = g.a) ∧
      (kind = 3 → act = true → goes fun t g' f' => MemKept s1 t ∧ g'.a = g.a ∧
        ∀ c ∈ f'.accs, c.lane = m → c.done = true ∧ ∀ n, n < 64 → c.res / 2 ^ (32 * n) % 2 ^ 32 = (word n).toNat) ∧
      (∀ w, kind = 1 → act = true → s1.wgs.find? g.wid = some w → s1.scrPoison g.wid (at_ + 256 * m) 256 = false →
        goes fun t g' _ => MemKept s1 t ∧ g'.a = g.a ∧ ∃ w', t.wgs.find? g.wid = some w' ∧ ∀ n j, j < 4 → n < 64 →
          Tab.get 0 w'.scr (at_ + 256 * m + 4 * n + j) = BitVec.ofNat 8 ((word n).toNat / 256 ^ j)) ∧
      ∀ p, kind = 0 → act = true →
        let va := at_ + 256 * m
        let key := p.key + va % 4096
        f.pages.find? (fun x => x.vpage == va / 4096) = some p → va % 4096 + 256 ≤ 4096 → PlainMem s1 key 256 p.zb →
        keyTier (key + 255) = keyTier key → (∀ c ∈ s1.cbUse, ¬ (key / 32 ≤ c ∧ c * 32 < key + 256)) →
        goes fun t g' _ => g'.a = g.a ∧ (∀ n j, j < 4 → n < 64 → t.peek (key + 4 * n + j) = BitVec.ofNat 8 ((word n).toNat / 256 ^ j)) ∧
          ∀ j, (j < key ∨ key + 256 ≤ j) → t.peek j = s1.peek j)

/-- What MSWAP, MLDW, MCBT, MGRP, MMA, MCLR, MWR and MRD do to the planes, the codebook, the group table and the tiles. That an MLDW of a
queue draws its block row by row is log entry 39's choice; which bytes a poisoned row or block leaves is log entry 10's and shut out. -/
def Obligations.MashEffects : Prop := Says.PlanesAct ∧ Says.TileBinding ∧ Says.MmaActs ∧ Says.TileRowsAct

/-! ### What tensor movement and the supervisor's operations do as they apply -/

/-- A byte of memory (place 0), or of the scratchpad of workgroup `w - 1`. -/
def byteOf (s : State) (w a : Nat) : Byte :=
  match w with
  | 0 => s.peek a
  | wid + 1 => ((s.wgs.find? wid).map fun x => Tab.get 0 x.scr a).getD 0

/-- Bytes of a spot that are read and written plainly. -/
def PlainSpot (s : State) (p : Spot) (n : Nat) : Prop :=
  match p with
  | .mem k z => PlainMem s k n z ∧ ∀ b ∈ s.cbUse, ¬ (k / 32 ≤ b ∧ b * 32 < k + n)
  | .scr w o => s.scrPoison w o n = false ∧ ∃ x, s.wgs.find? w = some x ∧ x.onChip = true

/-- A tensor-movement operation of a context that has started and whose next element moves now (07 R209, R217). -/
def TensorActs (s : State) (fl n : Nat) (f : Flight) : Prop :=
  s.journal = [] ∧ s.flights.find? fl = some f ∧ f.id = fl ∧ f.path = 5 ∧ isTensor f.instr = true ∧ f.ag = .ctx n ∧ s.mayApply f = true ∧
    s.tHeld f = false ∧ s.swapped.has (partOfCluster (State.tKiln f)) = false ∧ (f.lw.find? 0).isSome = true ∧
    (f.tHeavy = false ∨ s.kilnHas (State.tKiln f) (kilnOp fl) = true)

/-- The element moves, and the cursor passes it: from `v`, exactly `n` bytes of a spot change, to those of `x`; where the source of a TMOV
holds the same byte it is unspecified (15 R463). -/
def Moves (s v : State) (fl k : Nat) (fromL1 : Bool) (f : Flight) (q : Spot) (n x : Nat) : Prop :=
  let mine := fun (w a : Nat) => w = q.place.1 ∧ q.place.2 ≤ a ∧ a < q.place.2 + n
  let shared := fun (w a : Nat) => ∃ e ∈ v.tShared f, e.1.1 = w ∧ e.1.2 ≤ a ∧ a < e.1.2 + e.2
  ∃ t f', exec (.homeApply fl k fromL1) s = .next t ∧ t.flights.find? fl = some f' ∧ f'.cur = f.cur + 1 ∧
    (f.tTotal ≤ f.cur + 1 → AllDone f') ∧
    (∀ w a, mine w a → ¬ shared w a → byteOf t w a = BitVec.ofNat 8 (x / 256 ^ (a - q.place.2))) ∧
    ∀ w a, ¬ mine w a → byteOf t w a = byteOf v w a

/-- From `s1` on, what is read at one side is written at the other. -/
def Copies (s s1 : State) (fl k : Nat) (fromL1 : Bool) (f : Flight) (sScr dScr : Bool) (src dst : Int) (n align : Nat) : Prop :=
  ∀ (l : List (Spot × Nat × Nat)) (t u v : State) (x va : Nat) (q : Spot), s1.tSide f .read sScr src n align = .ok l t →
    t.tSide f .write dScr dst n align = .ok [(q, n, va)] u → tRead f l u = .ok x v → PlainSpot v q n → Moves s v fl k fromL1 f q n x

/-- The sides of an element and what is read at one (15 R462, R463; 00 R7): an address of one page, in range and a multiple of the element's
size, resolves to its place, one past the space or misaligned faults; the submitter's scratchpad likewise; the bytes read are the place's,
the first least significant. -/
def Says.TensorSides : Prop :=
  (∀ (s : State) (f : Flight) (acc : Access) (off : Int) (n align : Nat), (2 ^ 57 ≤ wrapInt off 64 →
      s.tSide f acc false off n align = .fault cPROT (wrapInt off 64)) ∧
    (wrapInt off 64 < 2 ^ 57 → wrapInt off 64 % align ≠ 0 → s.tSide f acc false off n align = .fault cMISALIGN (wrapInt off 64))) ∧
  (∀ (s : State) (f : Flight) (acc : Access) (off : Int) (n align wid : Nat) (w : Wg), s.submitter f.ag = some wid →
    s.wgs.find? wid = some w →
    let out := off < 0 ∨ off + (n : Int) > ((s.khWg w).scratch : Int)
    (out → s.tSide f acc true off n align = .fault cSCRBOUND 0) ∧
    (¬ out → off.toNat % align ≠ 0 → s.tSide f acc true off n align = .fault cMISALIGN 0) ∧
    (¬ out → off.toNat % align = 0 → s.tSide f acc true off n align = .ok [(.scr wid off.toNat, n, 0)] s)) ∧
  (∀ (s : State) (f : Flight) (acc : Access) (off : Int) (n : Nat) (tr : TrOk), n ∈ [1, 2, 4, 8, 16] →
    let va := wrapInt off 64
    let a := acc1 0 va (.mem tr.key tr.tso tr.zb) (if acc == .write then .wr 1 0 0 else .rd 1)
    va < 2 ^ 57 → va % n = 0 → s.trAg f.ag va acc = .ok tr → tr.isReg = false → (tr.hold && acc == .write) = false →
    s.unreachable a = false → s.lineBusy f a = false → s.portHeld tr.key s.cycle = false →
    ∃ u, s.tSide f acc false off n n = .ok [(.mem tr.key tr.zb, n, va)] u) ∧
  ∀ (s : State) (f : Flight) (p : Spot) (n va : Nat), s.older = [] → PlainSpot (s.seeSpot p) p n →
    ∃ x v, tRead f [(p, n, va)] s = .ok x v ∧ x < 256 ^ n ∧
      (∀ i, i < n → BitVec.ofNat 8 (x / 256 ^ i) = byteOf (s.seeSpot p) p.place.1 (p.place.2 + i)) ∧
      ∀ w a, byteOf v w a = byteOf (s.seeSpot p) w a

/-- An element of TMOV without conversion and of TFILL, and a row's piece of up to 16 bytes of TGATH and TSCAT, whose index is read first
(15 R463, R465): the index of all ones brings zeros in a gather and nothing in a scatter. -/
def Says.TensorElements : Prop :=
  ∀ (s : State) (fl k c : Nat) (fromL1 : Bool) (f : Flight) (o : Opw), TensorActs s fl c f →
    let n := 2 ^ f.tElog
    let sScr := (f.tw 3).testBit 6
    let dScr := (f.tw 3).testBit 7
    (f.instr = .tmov o → f.tConv = false →
      Copies s s fl k fromL1 f sScr dScr (f.tBase 1 + f.tOffset 10 n f.cur) (f.tBase 0 + f.tOffset 14 n f.cur) n n) ∧
    (∀ (q : Spot) (va : Nat) (u : State), f.instr = .tfill o →
      s.tSide f .write dScr (f.tBase 0 + f.tOffset 14 n f.cur) n n = .ok [(q, n, va)] u → PlainSpot u q n →
      Moves s u fl k fromL1 f q n (f.tw 2)) ∧
    ∀ (l : List (Spot × Nat × Nat)) (t0 t1 : State) (idx : Nat),
      let i := f.cur / f.tPieces
      let p := f.cur % f.tPieces
      let n := min 16 (f.tw 6 - 16 * p)
      s.tSide f .read false ((f.tw 2 + 4 * i : Nat) : Int) 4 4 = .ok l t0 → tRead f l t0 = .ok idx t1 →
      let packed := f.tBase 0 + ((i * f.tw 8 + 16 * p : Nat) : Int)
      let indexed := f.tBase 1 + ((idx * f.tw 7 + 16 * p : Nat) : Int)
      (f.instr = .tgath o → idx ≠ 2 ^ 32 - 1 → Copies s t1 fl k fromL1 f sScr dScr indexed packed n 1) ∧
      (f.instr = .tscat o → idx ≠ 2 ^ 32 - 1 → Copies s t1 fl k fromL1 f dScr sScr packed indexed n 1) ∧
      (∀ (q : Spot) (va : Nat) (u : State), f.instr = .tgath o → idx = 2 ^ 32 - 1 →
        t1.tSide f .write dScr packed n 1 = .ok [(q, n, va)] u → PlainSpot u q n → Moves s u fl k fromL1 f q n 0) ∧
      (f.instr = .tscat o → idx = 2 ^ 32 - 1 → ∃ t f', exec (.homeApply fl k fromL1) s = .next t ∧ t.flights.find? fl = some f' ∧
        f'.cur = f.cur + 1 ∧ (f.tTotal ≤ f.cur + 1 → AllDone f') ∧ ∀ w a, byteOf t w a = byteOf t1 w a)

/-- An element that faults parks its context with a fault record that holds the cause, the address and the cursor, and the operation stays
to restart there (07 R211, 15 R462); no byte changes. -/
def Says.TensorFaults : Prop :=
  ∀ (s : State) (fl k n c a : Nat) (fromL1 : Bool) (f : Flight), TensorActs s fl n f → (s.ctx n).stat = .running →
    s.tElement f = .fault c a →
    ∃ t r, exec (.homeApply fl k fromL1) s = .next t ∧ MemKept s t ∧ (t.ctx n).stat = .parked false none ∧ (t.ctx n).restart = some fl ∧
      t.flights.find? fl = some f ∧ t.lfHeld = s.lfHeld ++ [r] ∧ r.cause = c ∧ r.addr = a ∧ r.elem = f.cur % 2 ^ 32 ∧ r.pc = f.pc

/-- What TMOV without conversion, TGATH, TSCAT and TFILL read and write, element by element. -/
def Obligations.TensorEffects : Prop := Says.TensorSides ∧ Says.TensorElements ∧ Says.TensorFaults

/-- An operation that the device carries out for a fragment of a gang, and whose next stage comes now. -/
def SysActs (s : State) (fl gid : Nat) (f : Flight) (g : Gang) : Prop :=
  s.journal = [] ∧ s.flights.find? fl = some f ∧ f.id = fl ∧ f.path = sysPath ∧ s.mayApply f = true ∧ (∃ fid, f.ag = .gang gid fid) ∧
    s.gang? gid = some g

/-- The device reaches a page-table entry, or a field of a pool, at a key. -/
def EntryAt (s : State) (f : Flight) (k : Nat) : Prop :=
  s.farGate (s.unitOf f.ag) f.pasid k = none ∧ s.cxlDown k = false ∧ s.poisonIn k 8 = false ∧ s.portHeld k f.born = false

/-- The stage leaves the operation with more words, and memory as `m` says. -/
def SysGoesOn (s : State) (fl k : Nat) (fromL1 : Bool) (f : Flight) (sw : List Nat) (m : State → Prop) : Prop :=
  ∃ t, exec (.homeApply fl k fromL1) s = .next t ∧ t.flights.find? fl = some { f with cur := f.cur + 1, sw := f.sw ++ sw } ∧ m t

/-- The operation is over, and its report stands in its register. -/
def SysEnds (s : State) (fl k gid : Nat) (fromL1 : Bool) (f : Flight) (report : Nat) (m : State → Prop) : Prop :=
  ∃ t, exec (.homeApply fl k fromL1) s = .next t ∧ t.flights.find? fl = none ∧ m t ∧
    (∀ b n x, f.dest = .s b n x → (t.gang? gid).isSome → t.rdS f.ag b = BitVec.ofNat 32 report) ∧
    ∀ sel, f.dest = .k sel → sel % 8 < 4 → (t.gang? gid).isSome → t.rdK f.ag (sel % 8) = decide (report ≠ 0)

/-- The bytes of an entry become those of a number, and no other byte changes. -/
def EntrySet (s t : State) (k x : Nat) : Prop :=
  ∀ j, t.peek j = if k ≤ j ∧ j < k + 8 then BitVec.ofNat 8 (x / 256 ^ (j - k)) else s.peek j

/-- PTMAP stage by stage (09 R262, 14 R430): no valid pool is reported as 4, a missing table as 3, a leaf that is mapped or claimed as 1; else
the leaf is claimed by HOLD. An empty pool clears the claim and is reported as 2; else the frame at HEAD is taken and HEAD moves on. The frame
becomes zero, on a page with ZB set by headers of value 2; the group's other entries hold the leaf, and then the first, which is reported as
0. The stages as steps of their own are log entry 40's choice, and a larger leaf on the way counts as mapped by log entry 93's. -/
def Says.PtmapActs : Prop :=
  ∀ (s : State) (fl k gid : Nat) (fromL1 : Bool) (f : Flight) (g : Gang) (o : Opw), SysActs s fl gid f g → f.instr = .ptmap o →
    let part := s.partOf f.ag
    let w := fun (i : Nat) => f.sw.getD i 0
    let z := poolSize (w 7)
    let leaf := ptLeaf (w 1) z.2.1 (w 8)
    (f.cur = 0 → s.poolPoison part = false →
      (s.poolOf part = none → SysEnds s fl k gid fromL1 f 4 (MemKept s)) ∧
      ∀ p root, s.poolOf part = some p → structOk part p.ring (8 * 2 ^ p.log2n) = true → s.pasidPoison f.pasid = false →
        s.rootOf f.pasid part = some root →
        let y := poolSize p.psize
        let found := s.tableFor (w 0) y.1 5 root
        (found = .missing → SysEnds s fl k gid fromL1 f 3 (MemKept s)) ∧ (found = .mapped → SysEnds s fl k gid fromL1 f 1 (MemKept s)) ∧
        ∀ tbl, found = .table tbl →
          let key := tbl + 8 * (w 0 / 2 ^ (12 + 9 * y.1) % 512 / y.2.2 * y.2.2)
          let e := s.peekN key 8
          EntryAt s f key →
          ((e % 2 = 1 ∨ e.testBit 6 = true) → SysEnds s fl k gid fromL1 f 1 (MemKept s)) ∧
          (e % 2 = 0 → e.testBit 6 = false → SysGoesOn s fl k fromL1 f [key, e, p.key, p.ring, p.log2n, p.psize] fun t =>
            EntrySet s t key (e + 0x40))) ∧
    (f.cur = 1 → EntryAt s f (w 2) → EntryAt s f (w 4 + 16) → EntryAt s f (w 4 + 24) →
      let head := s.peekN (w 4 + 16) 8
      let slot := memKey 0 0 (w 5) + 8 * (head % 2 ^ w 6)
      (head = s.peekN (w 4 + 24) 8 → SysEnds s fl k gid fromL1 f 2 fun t => EntrySet s t (w 2) (w 3)) ∧
      (head ≠ s.peekN (w 4 + 24) 8 → EntryAt s f slot → SysGoesOn s fl k fromL1 f [s.peekN slot 8] fun t =>
        EntrySet s t (w 4 + 16) ((head + 1) % 2 ^ 64))) ∧
    (f.cur = 2 →
      let frame := memKey 0 0 (natBits (w 8) 51 12 * 2 ^ 12)
      let n := leafSize z.1 z.2.1
      let hdr := s.zbHdrKey frame
      SysGoesOn s fl k fromL1 f [] fun t =>
        ((w 1).testBit 5 = false → ∀ j, t.peek j = if frame ≤ j ∧ j < frame + n then 0 else s.peek j) ∧
        ((w 1).testBit 5 = true → ∀ j, t.peek j = if hdr ≤ j ∧ j < hdr + 8 * (n / 512) then (if (j - hdr) % 8 = 0 then 2 else 0) else s.peek j)) ∧
    (f.cur = 3 → (∀ i, i < z.2.2 → EntryAt s f (w 2 + 8 * i)) → SysGoesOn s fl k fromL1 f [] fun t => ∀ j, t.peek j =
      if w 2 + 8 ≤ j ∧ j < w 2 + 8 * z.2.2 then BitVec.ofNat 8 (leaf / 256 ^ ((j - w 2) % 8)) else s.peek j) ∧
    (f.cur = 4 → EntryAt s f (w 2) → SysEnds s fl k gid fromL1 f 0 fun t => EntrySet s t (w 2) leaf)

/-- Is a TLB entry one that an invalidation drops (09 R260, 14 R429): of a unit of the partition, or of the front end, and of the range and
PASID, of the PASID, or of a PASID that the partition owns? -/
def Dropped (s : State) (part kind lo hi pasid : Nat) (e : TlbEnt) : Prop :=
  ((e.unit < 256 ∧ e.unit / 32 = part) ∨ (256 ≤ e.unit ∧ e.unit < 288 ∧ (e.unit - 256) / 4 = part) ∨ e.unit = devUnit) ∧
    (kind ≤ 1 → e.pasid = pasid ∧ e.base < hi ∧ lo < e.base + e.size) ∧ (kind = 2 → e.pasid = pasid) ∧ (2 < kind → s.ownerOf e.pasid = part)

/-- PTINV (09 R260): the translations that it names go, and again when it ends; it ends once every access translated through one of them, as it
began, has been applied. Waits that test memory again and again are translated again instead (log entry 40). -/
def Says.PtinvActs : Prop :=
  ∀ (s : State) (fl k gid : Nat) (fromL1 : Bool) (f : Flight) (g : Gang) (o : Opw), SysActs s fl gid f g → f.instr = .ptinv o →
    f.dest = .none →
    let part := s.partOf f.ag
    let w := fun (i : Nat) => f.sw.getD i 0
    let waits := fun (i : Nat) => ∃ e, (i, e) ∈ s.flights ∧ i ≠ fl ∧ s.invWaits part f.sw e = true ∧ rePolls e.instr = false
    let drops := fun (t : State) => ∀ e, e ∈ t.tlb ↔ e ∈ s.tlb ∧ ¬ Dropped s part (w 0) (w 1) (w 2) (w 3) e
    (f.cur = 0 → ∃ ids, (∀ i, i ∈ ids ↔ waits i) ∧ SysGoesOn s fl k fromL1 f ids fun t => MemKept s t ∧ drops t) ∧
    (f.cur ≠ 0 → (∃ i ∈ f.sw.drop 4, waits i) →
      ∃ t, exec (.homeApply fl k fromL1) s = .next t ∧ t.flights.find? fl = some f ∧ MemKept s t) ∧
    (f.cur ≠ 0 → (∀ i ∈ f.sw.drop 4, ¬ waits i) → SysEnds s fl k gid fromL1 f 0 fun t => MemKept s t ∧ drops t)

/-- SWAPO (15 R460, R461; 09 R268): a swap that finds nothing to do reports 1. SWAPO.OUT makes the partition count as swapped out, and every
other placed workgroup of it that has not exited stops to be saved; when none is left and the rasterisers and classify engines have finished,
it ends with 0, and the shadow region holds the state. SWAPO.IN, once none is being saved, puts every workgroup that the swap saved into the
order for placement, and the partition counts as swapped out no longer. -/
def Says.SwapoActs : Prop :=
  ∀ (s : State) (fl k gid : Nat) (fromL1 : Bool) (f : Flight) (g : Gang) (o : Opw), SysActs s fl gid f g →
    let part := s.partOf f.ag
    let shadow := (s.part part).shadow
    let todo := s.toSave part g.wid
    let busy := ∃ c, c < 4 ∧ ¬ (s.rastOf (4 * part + c) = [] ∧ s.sealsOf (4 * part + c) = [] ∧ s.scansOf (4 * part + c) = [])
    let same := fun (t : State) => MemKept s t ∧ t.wgs = s.wgs ∧ t.swapped = s.swapped ∧ t.entries = s.entries
    (f.instr = .swapoOut o → f.cur = 0 → (shadow = 0 ∨ s.swapped.has part = true) → SysEnds s fl k gid fromL1 f 1 same) ∧
    (f.instr = .swapoIn o → (shadow = 0 ∨ s.swapped.has part = false) → SysEnds s fl k gid fromL1 f 1 same) ∧
    (f.instr = .swapoOut o → f.cur = 0 → shadow ≠ 0 → s.swapped.has part = false → SysGoesOn s fl k fromL1 f [] fun t =>
      MemKept s t ∧ t.swapped.has part = true ∧
      ∀ i w, s.wgs.find? i = some w → (∀ x, (i, x) ∈ s.wgs → x = w) → (i, w) ∈ todo → (∀ n, w.stat ≠ .swapping n) →
        t.wgs.find? i = some { w with stat := .swapping 1, swapo := true }) ∧
    (f.instr = .swapoOut o → f.cur ≠ 0 → todo = [] → ¬ busy → SysEnds s fl k gid fromL1 f 0 fun t =>
      t.shadows.find? part = some (shadow.toNat, s.fresh)) ∧
    (f.instr = .swapoIn o → shadow ≠ 0 → s.swapped.has part = true → (∀ i w, (i, w) ∈ s.wgs → w.part = part → ∀ n, w.stat ≠ .swapping n) →
      SysEnds s fl k gid fromL1 f 0 fun t => t.swapped.has part = false ∧ t.shadows.find? part = none ∧
        ∀ i w, (i, w) ∈ s.wgs → w.part = part → w.swapo = true → w.emptied = none → ∃ e ∈ t.entries, e.wid = some i)

/-- GKILL and GRES (13 R375-R377): GKILL ends every placed workgroup that it names, with its gangs, and reports whether it named one, placed
or not. GRES acts on a named workgroup that is parked: it runs again, and with outcome 1 the page fault of each gang that waited is cleared
and SR_PRISTAT is 1; where no named workgroup is parked or awaits an answer, nothing changes and the report is 0. -/
def Says.KillAndResumeAct : Prop :=
  ∀ (s : State) (fl k gid : Nat) (fromL1 : Bool) (f : Flight) (g : Gang) (o : Opw), SysActs s fl gid f g →
    let part := s.partOf f.ag
    let tag := f.sw.getD 0 0
    let lin := f.sw.getD 1 0
    let named := s.named part tag lin
    let waiting := ∃ e ∈ s.grids, e.2.lr.part = part ∧ e.2.lr.tag = tag ∧ e.2.nextLinear ≤ lin ∧ lin < e.2.first + e.2.count ∧
      e.2.dead.has lin = false
    let same := fun (t : State) => MemKept s t ∧ t.wgs = s.wgs ∧ t.grids = s.grids ∧ t.entries = s.entries
    (f.instr = .gkill o → named = [] → ¬ waiting → SysEnds s fl k gid fromL1 f 0 same) ∧
    (f.instr = .gkill o → (named ≠ [] ∨ waiting) → (∀ i w, (i, w) ∈ named → gid ∈ w.gangs → g.wid = i) → SysEnds s fl k gid fromL1 f 1 fun t =>
      ∀ i w, (i, w) ∈ named → t.wgs.find? i = none ∧ ∀ j x, t.gang? j = some x → x.wid ≠ i) ∧
    (f.instr = .gres o → (∀ i w, (i, w) ∈ named → w.stat ≠ .parked ∧ w.stat ≠ .swapping 3 ∧ w.stat ≠ .away 2 ∧ w.stat ≠ .swapping 2) →
      SysEnds s fl k gid fromL1 f 0 same) ∧
    ∀ i w, f.instr = .gres o → named = [(i, w)] → s.wgs.find? i = some w → w.stat = .parked →
      SysEnds s fl k gid fromL1 f 1 fun t => (∃ w', t.wgs.find? i = some w' ∧ w'.stat = .resident) ∧
        ∀ j x, j ∈ w.gangs → s.gang? j = some x → x.esc = 1 → f.sw.getD 2 0 = 1 →
          ∃ x', t.gang? j = some x' ∧ x'.cause.getLsbD 8 = false ∧ x'.pristat = 1

/-- What the device does for PTMAP, PTINV, SWAPO, GKILL and GRES. -/
def Obligations.SupervisorEffects : Prop := Says.PtmapActs ∧ Says.PtinvActs ∧ Says.SwapoActs ∧ Says.KillAndResumeAct

/-- HOME_APPLY of reads, stores, read-modify-writes and IINV. -/
def Obligations.HomeApplies : Prop :=
  Says.HomeReads ∧ Says.L1Reads ∧ Says.HomeWrites ∧ Says.HomeUpdates ∧ Says.HomePoison ∧ Says.ScratchActs ∧ Says.IinvActs

/-- An operation that completes now: counted, wholly applied, the oldest of its path, of a gang with a fragment (05 R136). -/
def Completes (s : State) (fl : Nat) (f : Flight) (gid : Nat) (g : Gang) : Prop :=
  s.journal = [] ∧ s.flights.find? fl = some f ∧ f.id = fl ∧ s.mayRetire f = true ∧ gangOf f.ag = gid ∧ (∃ fid, f.ag = .gang gid fid) ∧
    s.gang? gid = some g ∧ g.frags ≠ [] ∧ f.clash = [] ∧ f.accs.any (fun a => a.poisoned) = false

/-- IN_FLIGHT_COMPLETION (05 R137): the words of each lane's result in its V registers, or of the one result in the S registers, the
truth in the predicate; of an IMLD the channels of each lane's texel, 0, 0, 0 and 1 where it has none (13 R385); no other register, no byte; the operation is gone, so its counter falls. -/
def Says.CompletionWrites : Prop :=
  ∀ (s : State) (fl gid : Nat) (f : Flight) (g : Gang), Completes s fl f gid g →
    ∃ t g', exec (.inFlightCompletion fl) s = .next t ∧ MemKept s t ∧ t.flights.find? fl = none ∧
      (∀ j, j ≠ fl → t.flights.find? j = s.flights.find? j) ∧ t.gang? gid = some g' ∧ g'.p = g.p ∧ g'.frags = g.frags ∧
      g'.cause = g.cause ∧ g'.epc = g.epc ∧
      (∀ b n ext, f.dest = .v b n ext →
        (∀ l ∈ lanesOf g.width f.mask, ∀ i, i < n → g'.rdV (b + i) l = wordOf (extend ext (f.laneVal l)) i) ∧
        (∀ r l, l < 1024 → ¬ (b ≤ r ∧ r < b + n ∧ l ∈ lanesOf g.width f.mask) → g'.rdV r l = g.rdV r l) ∧ g'.s = g.s ∧ g'.k = g.k) ∧
      (∀ b n ext, f.dest = .s b n ext →
        (∀ i, i < n → Tab.get 0 g'.s (b + i) = wordOf (extend ext (f.laneVal 0)) i) ∧
        (∀ r, ¬ (b ≤ r ∧ r < b + n) → Tab.get 0 g'.s r = Tab.get 0 g.s r) ∧ g'.v = g.v ∧ g'.k = g.k) ∧
      (∀ sel, f.dest = .k sel → g'.k = setKBit g.k (sel % 8) (f.accs.any fun a => a.res ≠ 0) ∧ g'.v = g.v ∧ g'.s = g.s) ∧
      (∀ b n code chans, n ≤ 4 → f.dest = .texel b n code chans →
        (∀ l ∈ lanesOf g.width f.mask, ∀ i, i < n → (g'.rdV (b + i) l).toNat =
          (if f.accs.any (fun a => a.lane == l) then texelWords code chans (f.laneVal l) else [0, 0, 0, texelOne code]).getD i 0 % 2 ^ 32) ∧
        g'.s = g.s ∧ g'.k = g.k) ∧
      (f.dest = .none → g'.v = g.v ∧ g'.s = g.s ∧ g'.k = g.k)

/-- An operation that is not the oldest of its path, or not wholly applied, does not complete yet (05 R136). -/
def Says.CompletionWaits : Prop :=
  ∀ (s : State) (fl : Nat) (f : Flight), s.journal = [] → s.flights.find? fl = some f →
    (f.accs.any (fun a => !a.done) = true ∨
      ∃ j e, (j, e) ∈ s.flights ∧ j < f.id ∧ e.cnt = true ∧ e.path = f.path ∧ sameMemAgent e.ag f.ag = true) →
    exec (.inFlightCompletion fl) s = .next s

/-- A poisoned lane's words are zero, and the gang is told of POISON (05 R137, 09 R250). -/
def Says.CompletionPoison : Prop :=
  ∀ (s : State) (fl gid fid b n ext : Nat) (f : Flight) (g : Gang), s.journal = [] → s.flights.find? fl = some f → f.id = fl →
    s.mayRetire f = true → f.ag = .gang gid fid → s.gang? gid = some g → g.frags ≠ [] → f.clash = [] → f.dest = .v b n ext →
    f.handler = false → (∃ a ∈ f.accs, a.poisoned = true) →
    ∃ t g', exec (.inFlightCompletion fl) s = .next t ∧ MemKept s t ∧ t.gang? gid = some g' ∧ g'.asyncs ≠ [] ∧
      ∀ l ∈ lanesOf g.width f.mask, (f.accs.any fun a => a.lane == l && a.poisoned) = true →
        ∀ i, i < n → g'.rdV (b + i) l = 0

/-- IN_FLIGHT_COMPLETION. -/
def Obligations.Completion : Prop := Says.CompletionWrites ∧ Says.CompletionWaits ∧ Says.CompletionPoison

/-! ### Events of fragments: re-gang points, issue, halts, waits (02 R34-R37, R52; 03 R73, R74; 09 R250-R270) -/

/-- Nothing but gangs changes, and of them only the one of the number. -/
def OneGang (s t : State) (gid : Nat) (g' : Gang) : Prop :=
  { t with gangs := s.gangs } = s ∧ (∀ j, j ≠ gid → t.gang? j = s.gang? j) ∧ t.gang? gid = some g'

/-- The event changes one fragment and nothing else: no other fragment, no register of its gang, nothing of the rest of the machine. -/
def SetsFrag (i : Instr) (s : State) (gid fid : Nat) (f' : Frag) : Prop :=
  ∀ g, s.gang? gid = some g → ∃ t g', exec i s = .next t ∧ OneGang s t gid g' ∧ { g' with frags := g.frags } = g ∧
    g'.frags.find? fid = some f' ∧ ∀ k, k ≠ fid → g'.frags.find? k = g.frags.find? k

/-- A fragment that waited is ready. -/
def Sys2Proof.Machine.Frag.woken (f : Frag) (cycle : Nat) : Frag := { f with stat := .ready, readyAt := max f.readyAt cycle }

/-- The event at which a fragment meets a re-gang point (02 R34-R37, Table 2.3). Without a split record it goes on; with its sibling
arrived at the same address and call depth, not blocked and with no trap of its own standing, the two become one fragment, with the
mask of both and the record's FMT, loop counters, call frames and split depth, and the operations in flight of both are its; with its sibling held elsewhere it goes on; otherwise
it waits, but goes on where its bundle is an EXIT bundle (02 R41). That a sibling blocked at the address, or standing there with a
trap, has not arrived is the model's choice (log entry 73). -/
def Regangs (i : Instr) (s : State) (gid fid : Nat) (g : Gang) (f : Frag) (exits : Bool) : Prop :=
  (f.parent = none → SetsFrag i s gid fid { f with stat := .ready, rgOk := true }) ∧
  ∀ (rid sib : Nat) (r : SplitRec), f.parent = some rid → g.recs.find? rid = some r → r.sibling fid = some sib → rid ≠ fid → rid ≠ sib →
    sib ≠ fid → f.frames.length = r.frames.length → (∀ sl, g.slot = some sl → sl.fid ≠ fid) →
    let arrived := ∃ q, g.frags.find? sib = some q ∧ q.pc = f.pc ∧ q.frames.length = r.frames.length ∧ q.pendSeq = false ∧
      g.trapping sib = false ∧ ∀ b, q.stat ≠ .blocked b
    let held := ∀ k ∈ g.leaves treeFuel sib, ∀ q, g.frags.find? k = some q → q.heldAt f.pc = true
    (∀ q, g.frags.find? sib = some q → arrived →
      q.parent = some rid →
      ∃ t g' m, exec i s = .next t ∧ { t with gangs := s.gangs, flights := s.flights } = s ∧ (∀ j, j ≠ gid → t.gang? j = s.gang? j) ∧
        t.gang? gid = some g' ∧ (∀ j e, s.flights.find? j = some e → t.flights.find? j =
          some (if e.ag = .gang gid fid ∨ e.ag = .gang gid sib then { e with ag := .gang gid rid } else e)) ∧
        { g' with frags := g.frags, recs := g.recs, asyncs := g.asyncs, lastFid := g.lastFid } = g ∧
        g'.frags.find? rid = some m ∧
        g'.frags.find? fid = none ∧ g'.frags.find? sib = none ∧ g'.recs.find? rid = none ∧
        (∀ k, k ≠ rid → k ≠ fid → k ≠ sib → g'.frags.find? k = g.frags.find? k) ∧
        m.pc = f.pc ∧ m.mask = f.mask ||| q.mask ∧ m.fmt = r.fmt ∧ m.lc = r.lc ∧ m.frames = r.frames ∧ m.sdepth = r.sdepth ∧
        m.parent = r.parent ∧ m.stat = .ready ∧ m.skip = f.skip ||| q.skip ∧ ∀ e, e ∈ f.po ∨ e ∈ q.po → e ∈ m.po) ∧
    (¬ arrived → held ∨ exits = true → SetsFrag i s gid fid { f with stat := .ready, rgOk := true }) ∧
    (¬ arrived → ¬ held → exits = false → SetsFrag i s gid fid { f with stat := .rgWait })

/-- REGANG_CHECK: a ready fragment, not stopped and with no trap of its own waiting, whose next bundle is a re-gang point; one whose operation
word has issued already makes the check at an EXIT bundle alone (02 R41). -/
def Says.RegangCheckResult : Prop :=
  ∀ (s : State) (gid fid : Nat) (g : Gang) (f : Frag), s.journal = [] → s.gang? gid = some g → g.frags.find? fid = some f →
    f.stat = .ready → f.rgOk = false → f.stopped = false → g.trapWaits fid = false → s.nextRg (.gang gid fid) = true →
    f.pendSeq = false ∨ s.nextExits (.gang gid fid) = true →
    Regangs (.regangCheck gid fid) s gid fid g f (s.nextExits (.gang gid fid))

/-- REGANG_RELEASE: a fragment that waits at a re-gang point, with no trap of its own standing. -/
def Says.RegangReleaseResult : Prop :=
  ∀ (s : State) (gid fid : Nat) (g : Gang) (f : Frag), s.journal = [] → s.gang? gid = some g → g.frags.find? fid = some f →
    f.stat = .rgWait → g.trapping fid = false → Regangs (.regangRelease gid fid) s gid fid g f false

/-- A step re-examines every fragment that waits at a re-gang point (02 R37, R39): each gang is what the step's own event left, settled;
and a settled gang, its fragments kept in the order of their numbers, holds no waiter that Table 2.3 releases. -/
def Says.WaitersSettled : Prop :=
  (∀ s t : State, step s = .next t → ∀ gid g, t.gang? gid = some g → ∃ u g0, stepBare s = .next u ∧ u.gang? gid = some g0 ∧
    g = if g0.frags.any (fun x => x.2.stat == .rgWait) then g0.settle (2 * g0.frags.length) else g0) ∧
  ∀ g : Gang, g.frags.keys.Pairwise (· < ·) → (g.settle (2 * g.frags.length)).rgReleases = []

/-- ISSUE_SELECT (03 R73, R74): a free datapath takes, among the fragments that may issue, one of the highest priority: the one that
issued last until it has issued 64 bundles in a row, else one that has waited longest. Nothing may issue: nothing changes. -/
def Says.IssueSelectResult : Prop :=
  ∀ (s : State) (core dp : Nat), s.journal = [] → core < 256 → dp < 4 → s.dpFree core dp = true →
    (s.readyOn core dp = [] → exec (.issueSelect core dp) s = .next s) ∧
    (s.readyOn core dp ≠ [] → ∃ t c run, exec (.issueSelect core dp) s = .next t ∧ c ∈ s.readyOn core dp ∧
      (∀ x ∈ s.readyOn core dp, x.prio ≤ c.prio) ∧ t.latch = some (.gang c.gid c.fid) ∧
      { t with gangs := s.gangs, latch := s.latch, dps := s.dps } = s ∧
      (∀ k, k ≠ 4 * core + dp → t.dps.find? k = s.dps.find? k) ∧
      t.dps.find? (4 * core + dp) = some (c.gid, c.fid, s.coreCycle core + 1) ∧
      t.frag? c.gid c.fid = (s.frag? c.gid c.fid).map (fun f => { f with run := run, stat := .ready }) ∧
      (∀ j k, ¬ (j = c.gid ∧ k = c.fid) → t.frag? j k = s.frag? j k) ∧
      (∀ c0 ∈ s.readyOn core dp, s.lastOn core dp = some (c0.gid, c0.fid) → (∀ x ∈ s.readyOn core dp, x.prio ≤ c0.prio) →
        (∀ x ∈ s.readyOn core dp, x.gid = c0.gid → x.fid = c0.fid → x = c0) → c0.run < 64 → c = c0 ∧ run = c0.run + 1) ∧
      ((∀ x ∈ s.readyOn core dp, s.lastOn core dp ≠ some (x.gid, x.fid)) →
        run = 1 ∧ ∀ x ∈ s.readyOn core dp, x.prio = c.prio → c.last ≤ x.last))

/-- REGISTER_CACHE_FILL (02 R52): the line is present; no register's value changes. -/
def Says.RegisterCacheFillResult : Prop :=
  ∀ (s : State) (gid reg slice : Nat) (g : Gang), s.journal = [] → s.gang? gid = some g →
    ∃ t g', exec (.registerCacheFill gid reg slice) s = .next t ∧ OneGang s t gid g' ∧ { g' with rcMissing := g.rcMissing } = g ∧
      ∀ x, x ∈ g'.rcMissing ↔ x ∈ g.rcMissing ∧ x ≠ (reg, slice)

/-- HALT_REACH (09 R252): a halt that reaches a running gang is received; the gang stops, then or later, with every fragment, and
its skid is recorded; it stops after the joint operations that name its workgroup are aborted for a member's trap (09 R267). A sibling of
the trapping gang records HALTSIB and the next bundle of the fragment that issued last. -/
def Says.HaltReachResult : Prop :=
  ∀ (s : State) (gid : Nat) (g : Gang) (w : Wg), s.journal = [] → s.gang? gid = some g → s.wgOf g = some w → w.halted = true →
    (g.halt = .running → ∃ t, exec (.haltReach gid false) s = .next t ∧ OneGang s t gid { g with halt := .received 0 }) ∧
    ((∃ e ∈ s.latches, e.2.names w = true ∧ s.latchTrapped e.2 = true) → exec (.haltReach gid true) s = .next s) ∧
    (∀ n, (g.halt = .running ∧ n = 0 ∨ g.halt = .received n) → (∀ e ∈ s.latches, e.2.names w = true → s.latchTrapped e.2 = false) →
      ∃ t g', exec (.haltReach gid true) s = .next t ∧ OneGang s t gid g' ∧ g'.halt = .stopped ∧ g'.skid = BitVec.ofNat 32 n ∧
        (∀ k, g'.frags.find? k = (g.frags.find? k).map fun f => { f with stopped := true }) ∧
        { g' with halt := g.halt, skid := g.skid, frags := g.frags, cause := g.cause, epc := g.epc } = g ∧
        (g.trap.isSome = true → g'.cause = g.cause ∧ g'.epc = g.epc) ∧
        (g.trap = none → g'.cause = g.cause ||| BitVec.ofNat 64 cHALTSIB ∧
          ∀ f, g.frags.find? g.lastFid = some f → g'.epc = BitVec.ofNat 64 (f.pc % 2 ^ 57)))

/-- ASYNC_CAUSE_TAKE (09 R250): at a bundle boundary of its fragment, its bundle not performed in part, an asynchronous cause is taken, with the next bundle's address
and no fault address; with a trap already standing it joins SR_CAUSE. -/
def Says.AsyncCauseTakeResult : Prop :=
  ∀ (s : State) (gid fid : Nat) (g : Gang) (f : Frag) (w : Wg), s.journal = [] → s.gang? gid = some g → g.frags.find? fid = some f →
    s.wgs.find? g.wid = some w → w.acts = true → g.asyncFor fid ≠ 0 → g.asyncFor fid < 2 ^ 40 →
    f.skip = 0 →
    (g.slot = none → g.trap = none → f.pendSeq = false →
      ∃ t g' f' w', exec (.asyncCauseTake gid fid) s = .next t ∧ t.gang? gid = some g' ∧ g'.frags.find? fid = some f' ∧
        t.wgs.find? g.wid = some w' ∧ g'.cause = g.cause ||| BitVec.ofNat 64 (g.asyncFor fid) ∧ g'.epc = BitVec.ofNat 64 (f.pc % 2 ^ 57) ∧
        g'.faddr = 0 ∧ g'.trap = some { fid := fid, entered := false } ∧ f' = { f with stopped := true } ∧ w'.halted = true ∧
        (∀ e ∈ g'.asyncs, e ∈ g.asyncs ∧ e.1 ≠ fid) ∧ g'.v = g.v ∧ g'.p = g.p ∧ g'.s = g.s ∧ g'.k = g.k ∧ g'.h = g.h ∧ MemKept s t) ∧
    (g.trap.isSome = true → ∃ t g', exec (.asyncCauseTake gid fid) s = .next t ∧ OneGang s t gid g' ∧
      g'.cause = g.cause ||| BitVec.ofNat 64 (g.asyncFor fid) ∧ { g' with cause := g.cause, asyncs := g.asyncs } = g ∧
      ∀ e ∈ g'.asyncs, e ∈ g.asyncs ∧ e.1 ≠ fid)

/-- MONITOR_FIRE (14 R411, R412): a gang's monitor that has fired, or whose entry is displaced, lets every fragment waiting in MWAIT go
on with its K register true. -/
def Says.MonitorFireGang : Prop :=
  ∀ (s : State) (gid fid : Nat) (displaced : Bool) (g : Gang), s.journal = [] → s.gang? gid = some g → s.gangOn gid = true →
    g.mon.fired = true ∨ (displaced = true ∧ g.mon.armed = true) →
    let waiter := fun (e : Nat × Frag) (k : Nat) => e ∈ g.frags ∧ ∃ d, e.2.stat = .blocked (.mwait d k)
    ∃ t g', exec (.monitorFire (.gang gid fid) displaced) s = .next t ∧ OneGang s t gid g' ∧ g'.mon = { g.mon with fired := true } ∧
      { g' with mon := g.mon, k := g.k, frags := g.frags } = g ∧
      (∀ n, n < 4 → (g'.k.getLsbD n = true ↔ g.k.getLsbD n = true ∨ ∃ e, waiter e n)) ∧
      ∀ j f, g.frags.find? j = some f →
        (∀ d k, f.stat = .blocked (.mwait d k) → g'.frags.find? j = some (f.woken (s.cycleOf (.gang gid fid)))) ∧
        ((∀ e ∈ g.frags, e.1 = j → ∀ d k, e.2.stat ≠ .blocked (.mwait d k)) → g'.frags.find? j = some f)

/-- MONITOR_FIRE of a Lauter context that waits for its monitor alone. -/
def Says.MonitorFireCtx : Prop :=
  ∀ (s : State) (n d k : Nat) (displaced : Bool), s.journal = [] → (s.ctx n).stat = .waiting d k none →
    (s.ctx n).mon.fired = true ∨ (displaced = true ∧ (s.ctx n).mon.armed = true) →
    ∃ t, exec (.monitorFire (.ctx n) displaced) s = .next t ∧ { t with ctxs := s.ctxs } = s ∧ (∀ m, m ≠ n → t.ctx m = s.ctx m) ∧
      t.ctx n = { s.ctx n with stat := .running, readyAt := max (s.ctx n).readyAt s.cycle, k := setKBit (s.ctx n).k k true,
                               mon := { (s.ctx n).mon with fired := true } }

/-- MWAIT_TIMEOUT (14 R412): at its deadline on its core's clock, and not before, a waiting fragment goes on with K false; with K true when
its gang's monitor has fired before it. -/
def Says.MwaitTimeoutGang : Prop :=
  ∀ (s : State) (gid fid d k : Nat) (g : Gang) (f : Frag), s.journal = [] → s.gang? gid = some g → g.frags.find? fid = some f →
    f.stat = .blocked (.mwait d k) → s.gangOn gid = true →
    (d ≠ 0 → d ≤ s.coreCycle g.core → ∃ t g', exec (.mwaitTimeout (.gang gid fid)) s = .next t ∧ OneGang s t gid g' ∧
      { g' with k := g.k, frags := g.frags } = g ∧ (k < 4 → g'.k.getLsbD k = g.mon.fired) ∧ (∀ n, n ≠ k → g'.k.getLsbD n = g.k.getLsbD n) ∧
      g'.frags.find? fid = some (f.woken (s.cycleOf (.gang gid fid))) ∧ ∀ j, j ≠ fid → g'.frags.find? j = g.frags.find? j) ∧
    (d = 0 ∨ s.coreCycle g.core < d → exec (.mwaitTimeout (.gang gid fid)) s = .next s)

/-- MWAIT_TIMEOUT of a context, whose monitor has not fired. -/
def Says.MwaitTimeoutCtx : Prop :=
  ∀ (s : State) (n d k : Nat), s.journal = [] → (s.ctx n).stat = .waiting d k none → d ≠ 0 → d ≤ s.cycle → (s.ctx n).mon.fired = false →
    ∃ t, exec (.mwaitTimeout (.ctx n)) s = .next t ∧ { t with ctxs := s.ctxs } = s ∧ (∀ m, m ≠ n → t.ctx m = s.ctx m) ∧
      t.ctx n = { s.ctx n with stat := .running, readyAt := max (s.ctx n).readyAt s.cycle, k := setKBit (s.ctx n).k k false }

/-- SLEEP_EXPIRE (15 R453): the fragment sleeps until its cycle of its core's clock, and no longer once the event comes. -/
def Says.SleepExpireResult : Prop :=
  ∀ (s : State) (gid fid till : Nat) (g : Gang) (f : Frag), s.journal = [] → s.gang? gid = some g → g.frags.find? fid = some f →
    f.stat = .blocked (.sleep till) → s.gangOn gid = true →
    (till ≤ s.coreCycle g.core → SetsFrag (.sleepExpire gid fid) s gid fid (f.woken (s.cycleOf (.gang gid fid)))) ∧
    (s.coreCycle g.core < till → exec (.sleepExpire gid fid) s = .next s)

/-- QUEUE_UNBLOCK (07 R188, R189). -/
def Says.QueueUnblockResult : Prop :=
  ∀ (s : State) (gid fid : Nat) (f : Frag), s.journal = [] → s.frag? gid fid = some f → f.stat = .blocked .queue →
    s.gangOn gid = true → f.blockedAt < s.cycleOf (.gang gid fid) → SetsFrag (.queueUnblock gid fid) s gid fid (f.woken (s.cycleOf (.gang gid fid)))

/-- CBWAIT_RELEASE (05 R143): PHASE, read at its home, differs from the value waited past: the wait is over. It is the same: the wait
goes on. -/
def Says.CbwaitReleaseResult : Prop :=
  ∀ (s : State) (gid fid fl key : Nat) (tso z : Bool) (f : Frag) (x : Flight) (a : Acc), s.journal = [] → s.frag? gid fid = some f →
    f.stat = .blocked (.cbwait fl) → s.flights.find? fl = some x → x.id = fl → x.path = 6 → x.accs = [a] → a.loc = .mem key tso z →
    s.mayApply x = true → s.lineBusy x a = false → s.gangOn gid = true → s.unreachable a = false → s.accHeld x a = false → PlainMem s key 4 z →
    (s.peekN key 4 ≠ x.sw.getD 0 0 → ∃ t, exec (.cbwaitRelease gid fid) s = .next t ∧ MemKept s t ∧
      t.frag? gid fid = some (f.woken (s.cycleOf (.gang gid fid))) ∧ (∀ j k, ¬ (j = gid ∧ k = fid) → t.frag? j k = s.frag? j k) ∧
      t.flights.find? fl = some (x.markAt 0 0 false)) ∧
    (s.peekN key 4 = x.sw.getD 0 0 → exec (.cbwaitRelease gid fid) s = .next s)

/-- PIXLK_RELEASE (08 R246): every lane's word, read at its home once the accesses that come before are applied, equals its ticket; one that
does not keeps the fragment waiting. -/
def Says.PixlkReleaseResult : Prop :=
  ∀ (s : State) (gid fid : Nat) (g : Gang) (fr : Frag) (w : Wg) (f : Flight), s.journal = [] → s.gang? gid = some g →
    g.frags.find? fid = some fr → s.wgOf g = some w → w.onChip = true → s.pixWait gid fid = some f →
    s.mayApply f = true →
    (∀ a ∈ f.accs, a.done = false ∧ s.lineBusy f a = false ∧ s.unreachable a = false ∧ s.accHeld f a = false) →
    (∀ a ∈ f.accs, ∃ k tso z, a.loc = .mem k tso z ∧ PlainMem s k 4 z ∧ (keyTier k = 3 → s.hostWrites = [])) →
    let met := fun (a : Acc) => ∃ k tso z, a.loc = .mem k tso z ∧ s.peekN k 4 = (f.kept a.lane).getD 0 0
    ((∀ a ∈ f.accs, met a) → ∃ t g', exec (.pixlkRelease gid fid) s = .next t ∧ MemKept s t ∧ t.gang? gid = some g' ∧
      { g' with frags := g.frags } = g ∧ g'.frags.find? fid = some (fr.woken (s.cycleOf (.gang gid fid))) ∧
      t.flights.find? f.id = none ∧ ∀ l ∈ t.l1, l.core ≠ g.core) ∧
    ((∃ a ∈ f.accs, ¬ met a) → exec (.pixlkRelease gid fid) s = .next s)

/-- COHORT_PHASE_COMPLETE (12 R350-R352) of a grid on one chip: when every member has arrived or ended, the phase advances with nothing
arrived, and every fragment that waited past it goes on, its operation done with the phase's result. Of a grid over several chips: a chip
other than the origin sends its share to the origin, once all its members have arrived and what their arrivals release is acknowledged, and
no phase advances by that (log entry 48). -/
def Says.CohortPhaseCompleteResult : Prop :=
  (∀ (s : State) (grid c origin gen : Nat) (gr : Grid) (x : Cohort), s.journal = [] → s.grids.find? grid = some gr →
    gr.mc = some (origin, gen) → origin ≠ s.chip → c < gr.cohortN → gr.cohorts.find? c = some x → x.sent = false →
    s.cohortFull grid gr c x = true → (∃ i, i < gr.count ∧ (gr.members.getD (gr.first + i) []).contains c = true) →
    (∀ i ∈ x.flights, s.acknowledged i = true) →
    ∃ t gr' num seq gone, exec (.cohortPhaseComplete grid c) s = .next t ∧ MemKept s t ∧ t.gangs = s.gangs ∧
      t.grids.find? grid = some gr' ∧ gr'.cohorts.find? c = some { x with sent := true } ∧
      t.fabricOut = s.fabricOut ++ [{ kind := msgShare, args :=
        [origin, s.chip, num, seq, gen, c, x.phase, 1, gone, (x.op.map (· + 1)).getD 0, x.bad.toNat] ++ x.values.map (·.2) }]) ∧
  ∀ (s : State) (grid c : Nat) (gr : Grid) (x : Cohort), s.journal = [] → s.grids.find? grid = some gr → gr.mc = none →
    gr.cohorts.find? c = some x →
    (s.cohortFull grid gr c x = true → ∃ t gr' res, exec (.cohortPhaseComplete grid c) s = .next t ∧ MemKept s t ∧
      t.grids.find? grid = some gr' ∧ { gr' with cohorts := gr.cohorts } = gr ∧
      gr'.cohorts.find? c = some { Cohort.zero with phase := (x.phase + 1) % 2 ^ 32 } ∧
      (∀ d, d ≠ c → gr'.cohorts.find? d = gr.cohorts.find? d) ∧
      (∀ op, x.op = some op → ∃ free, res = cohortResult op x.bad (x.values.map (·.2)) free) ∧
      ∀ gid fid g f w, s.gang? gid = some g → g.frags.find? fid = some f → s.wgOf g = some w → w.grid = grid →
        f.stat = .blocked (.cohort c x.phase) →
        (t.frag? gid fid).map Frag.bare = some (f.woken (s.cycleOf (.gang gid fid))).bare ∧
        ∀ j fl, s.flights.find? j = some fl → fl.ag = .gang gid fid → fl.cur = c → (∃ o, fl.instr = .cobar o ∨ fl.instr = .cored o) →
          (fl.accs.all fun a => a.done) = false → (t.flights.find? j).map (·.accs) = some [doneAcc 0 res]) ∧
    (s.cohortFull grid gr c x = false → exec (.cohortPhaseComplete grid c) s = .next s)

/-- NRALLOC_GRANT (03 R84, 14 R420): the request that has waited longest is met whole or not at all: each of its lanes gets a slot of its
own that was FREE, and the fragment goes on. -/
def Says.NrallocGrantResult : Prop :=
  ∀ (s : State) (k gid fid : Nat) (rest : List (Nat × Nat)) (gr : Graph) (f : Flight) (fr : Frag) (g : Gang) (kk : Nat)
    (node : Option Nat), s.journal = [] → s.graphs.find? k = some gr → gr.blocked = (gid, fid) :: rest →
    s.nrallocOf gid fid = some f → s.gang? gid = some g → s.graphOf g = some (kk, node) → g.frags.find? fid = some fr →
    let lanes := s.lanesAg f.ag f.mask
    ((gr.split node lanes.length).isSome = true → lanes.length ≤ gr.slots - gr.cask.length →
      ∃ t slots gr', exec (.nrallocGrant k) s = .next t ∧ MemKept s t ∧ t.frag? gid fid = some (fr.woken (s.cycleOf (.gang gid fid))) ∧
        t.flights.find? f.id =
          some { f with accs := (lanes.zip slots).map (fun e => doneAcc e.1 (gr.pool + e.2 * 2 ^ gr.slotLog2)) } ∧
        slots.length = lanes.length ∧ slots.Nodup ∧ t.graphs.find? k = some gr' ∧ gr'.blocked = rest ∧
        (∀ x ∈ slots, x < gr.slots ∧ gr.cask.find? x = none ∧ ∃ r, gr'.cask.find? x = some (.held gid r)) ∧
        ∀ x, x ∉ slots → gr'.cask.find? x = gr.cask.find? x) ∧
    (gr.split node lanes.length = none → exec (.nrallocGrant k) s = .next s)

/-- PAGE_REQUEST_RESPONSE (09 R263, R264): the index is free again, outcome 3 ends the host's service; an answer that is still awaited
by a gang on its way out is kept for its return, with SR_PRISTAT, and clears PAGEFAULT on success. -/
def Says.PageRequestResponseResult : Prop :=
  ∀ (s : State) (index outcome gid live : Nat), s.journal = [] → s.pri.find? index = some (gid, live) → 1 ≤ outcome → outcome ≤ 3 →
    ∃ t, exec (.pageRequestResponse index outcome) s = .next t ∧ t.pri.find? index = none ∧
      (∀ j, j ≠ index → t.pri.find? j = s.pri.find? j) ∧ (t.priOff = true ↔ s.priOff = true ∨ outcome = 3) ∧
      (live = 0 → { t with pri := s.pri, priOff := s.priOff } = s) ∧
      ∀ g w st, live ≠ 0 → s.gang? gid = some g → g.esc = 1 → s.wgOf g = some w → w.stat = .swapping st → s.parks w = false →
        ∃ g', t.gang? gid = some g' ∧ { t with gangs := s.gangs, pri := s.pri, priOff := s.priOff } = s ∧
          g' = { g with pristat := BitVec.ofNat 32 outcome, esc := 2 + outcome,
                        cause := if outcome = 1 then g.cause &&& ~~~(BitVec.ofNat 64 cPAGEFAULT) else g.cause }

/-- ATS_TRANSLATION_COMPLETION (09 R263; its messages' form is log entry 65's): a translation that was asked for is cached, or its refusal; the cache keeps at most 1,024. -/
def Says.AtsTranslationCompletionResult : Prop :=
  ∀ (s : State) (pasid page : Nat) (granted : Option Nat), s.journal = [] →
    let ask : OutMsg := { kind := 1, args := [pasid, page] }
    (ask ∈ s.hostOut → ∃ t, exec (.atsTranslationCompletion pasid page granted) s = .next t ∧
      { t with hostOut := s.hostOut, atc := s.atc } = s ∧ (∀ m, m ∈ t.hostOut ↔ m ∈ s.hostOut ∧ m ≠ ask) ∧
      t.atc.head? = some (pasid, page, match granted with | some p => p + 1 | none => 0) ∧ t.atc.length ≤ 1024 ∧
      ∀ e ∈ t.atc, e.1 = pasid → e.2.1 = page → e.2.2 = match granted with | some p => p + 1 | none => 0) ∧
    (ask ∉ s.hostOut → exec (.atsTranslationCompletion pasid page granted) s = .next s)

/-- ATS_INVALIDATE (09 R263): the page's translation goes, no other; while an operation of the PASID has accesses to the host outstanding
the invalidation stands open; with none the host is told that it is complete. -/
def Says.AtsInvalidateResult : Prop :=
  ∀ (s : State) (pasid page : Nat), s.journal = [] →
    ∃ t, exec (.atsInvalidate pasid page) s = .next t ∧ { t with hostOut := s.hostOut, atc := s.atc, atsInv := s.atsInv } = s ∧
      (∀ e, e ∈ t.atc ↔ e ∈ s.atc ∧ ¬ (e.1 = pasid ∧ e.2.1 = page)) ∧
      (∀ e, ¬ (e.1 = pasid ∧ e.2.1 = page) → (e ∈ t.atsInv ↔ e ∈ s.atsInv)) ∧
      (t.hostOut = s.hostOut ++ [{ kind := msgInvDone, args := [pasid, page] }] ∧ (∀ e ∈ t.atsInv, ¬ (e.1 = pasid ∧ e.2.1 = page)) ∨
        t.hostOut = s.hostOut ∧ (∃ keys, (pasid, page, keys) ∈ t.atsInv) ∧ ∃ e ∈ s.flights, e.2.pasid = pasid ∧ e.2.usesHost [] = true) ∧
      ((∀ e ∈ s.flights, e.2.pasid = pasid → e.2.usesHost [] = false) →
        t.hostOut = s.hostOut ++ [{ kind := msgInvDone, args := [pasid, page] }])

/-- MIGRATION_HOLD_EXPIRE (09 R270): an access held for 128,000 cycles raises PAGEFAULT with reason 5 and its address; before that the hold
stands. -/
def Says.MigrationHoldExpireResult : Prop :=
  ∀ (s : State) (fl n gid fid : Nat) (f : Flight) (g : Gang) (fr : Frag) (w : Wg), s.journal = [] → s.flights.find? fl = some f →
    f.instr = .migrationHoldExpire n → f.ag = .gang gid fid → s.gang? gid = some g → g.frags.find? fid = some fr →
    fr.stat = .blocked (.hold fl) → s.wgs.find? g.wid = some w → s.gangOn gid = true → g.slot = none → g.trap = none →
    f.sw.getD 1 0 < 16 →
    (s.cycle < f.born + 128000 → exec (.migrationHoldExpire fl) s = .next s) ∧
    (f.born + 128000 ≤ s.cycle → ∃ t g' f' w', exec (.migrationHoldExpire fl) s = .next t ∧ MemKept s t ∧ t.flights.find? fl = none ∧
      t.gang? gid = some g' ∧ g'.frags.find? fid = some f' ∧ t.wgs.find? g.wid = some w' ∧ w'.halted = true ∧
      g'.cause = g.cause ||| BitVec.ofNat 64 cPAGEFAULT ∧ g'.epc = BitVec.ofNat 64 (fr.pc % 2 ^ 57) ∧
      g'.faddr = BitVec.ofNat 64 (f.sw.getD 0 0) ∧ g'.fsub.toNat % 16 = f.sw.getD 1 0 ∧ g'.fsub.toNat / 16 % 16 = 5 ∧
      g'.fmask = f.mask ∧ f'.stopped = true ∧ g'.trap = some { fid := fid, entered := false } ∧
      g'.v = g.v ∧ g'.p = g.p ∧ g'.s = g.s ∧ g'.k = g.k ∧ g'.h = g.h)

/-- FABRIC_HOLD_TIMEOUT (10 R284): a request held for 2,000,000 cycles is done with poison, and so is every fabric release that it orders,
the writes behind a release FENCE included; no byte and no register changes (where no matrix or tensor operation waits behind it). A request that a unit itself makes is held by a token: it goes when the chip is reached again, and after
2,000,000 cycles it says that the request completes with POISON (log entry 48). -/
def Says.FabricHoldTimeoutResult : Prop :=
  (∀ (s : State) (fl n pasid page late : Nat) (f : Flight), s.journal = [] → s.flights.find? fl = some f →
    f.instr = .fabricHoldTimeout n → f.sw = [pasid, page, late] →
    ∃ t, exec (.fabricHoldTimeout fl) s = .next t ∧ { t with flights := s.flights } = s ∧
      (∀ j, j ≠ fl → t.flights.find? j = s.flights.find? j) ∧
      (s.routeMask (page % 2 ^ 10) ≠ 0 → t.flights.find? fl = none) ∧
      (s.routeMask (page % 2 ^ 10) = 0 → f.born + 2000000 ≤ s.cycle → t.flights.find? fl = some { f with sw := [pasid, page, 1] }) ∧
      (s.routeMask (page % 2 ^ 10) = 0 → s.cycle < f.born + 2000000 → t = s)) ∧
  ∀ (s : State) (fl : Nat) (f : Flight), s.journal = [] → s.flights.find? fl = some f → isTensor f.instr = false →
    (∀ o, f.instr ≠ .cbwait o) → (∀ n, f.instr ≠ .fabricHoldTimeout n) → f.path ≠ 4 →
    (∀ e ∈ s.flights, e.1 ≠ fl → e.2.releasedAfter fl = true → e.2.path ≠ 4 ∧ isTensor e.2.instr = false) →
    let late := fun (a : Acc) => a.done = false ∧ a.waitSince ≠ 0 ∧ a.waitSince - 1 + 2000000 ≤ s.cycle ∧ s.unreachable a = true
    let dead := fun (a : Acc) => { a with res := 0, done := true, poisoned := true }
    ((∃ a ∈ f.accs, late a) → ∃ t, exec (.fabricHoldTimeout fl) s = .next t ∧ { t with flights := s.flights } = s ∧
      (∃ f' : Flight, t.flights.find? fl = some f' ∧ { f' with accs := f.accs } = f ∧ f'.accs.length = f.accs.length ∧
        ∀ (k : Nat) (a : Acc), f.accs[k]? = some a → (late a → f'.accs[k]? = some (dead a)) ∧ (¬ late a → f'.accs[k]? = some a)) ∧
      ∀ j e, j ≠ fl → s.flights.find? j = some e →
        (fl ∈ e.acks ∨ (e.rel = true ∧ 4 ≤ e.scope ∧ fl ∈ e.after) → ∃ e' : Flight, t.flights.find? j = some e' ∧ { e' with accs := e.accs } = e ∧
          ∀ (k : Nat) (a : Acc), e.accs[k]? = some a → e'.accs[k]? = some (if a.done then a else dead a)) ∧
        (fl ∉ e.acks → e.rel = false ∨ e.scope < 4 ∨ fl ∉ e.after → t.flights.find? j = some e)) ∧
    ((∀ a ∈ f.accs, ¬ late a) → exec (.fabricHoldTimeout fl) s = .next s)

/-- The events of fragments: re-gang points, issue selection, the register cache, halts, asynchronous causes, the ends of waits. The model's
own choices in them are log entries 73 (arrived siblings), 50 (selection among equals), 48 (shares and holds of the fabric) and 65 (the
ATS messages). -/
def Obligations.FragmentEvents : Prop :=
  Says.RegangCheckResult ∧ Says.RegangReleaseResult ∧ Says.WaitersSettled ∧ Says.IssueSelectResult ∧ Says.RegisterCacheFillResult ∧ Says.HaltReachResult ∧
  Says.AsyncCauseTakeResult ∧ Says.MonitorFireGang ∧ Says.MonitorFireCtx ∧ Says.MwaitTimeoutGang ∧ Says.MwaitTimeoutCtx ∧
  Says.SleepExpireResult ∧ Says.QueueUnblockResult ∧ Says.CbwaitReleaseResult ∧ Says.PixlkReleaseResult ∧
  Says.CohortPhaseCompleteResult ∧ Says.NrallocGrantResult ∧ Says.PageRequestResponseResult ∧ Says.AtsTranslationCompletionResult ∧
  Says.AtsInvalidateResult ∧ Says.MigrationHoldExpireResult ∧ Says.FabricHoldTimeoutResult

/-! ### The front end (03 R57-R64, R75, R76, R479; 07 R206, R207) -/

/-- The event ends with the effects of `u`: a next state with every byte that `u` shows, and `u` in all else but what its writes make
monitors and wake-table lines see, and what they leave dirty in L2, in the form of a ZB block, or to be found by other paths. -/
def EndsAs (i : Instr) (s u : State) : Prop :=
  ∃ t, exec i s = .next t ∧ t.journal = [] ∧ (∀ k, t.peek k = u.peek k) ∧
    { t with mem := u.mem, journal := u.journal, gangs := u.gangs, ctxs := u.ctxs, wgs := u.wgs, l2old := u.l2old,
             zbBlocks := u.zbBlocks, older := u.older } = u ∧
    (∀ j, (t.gang? j).map (fun g => { g with mon := Monitor.off }) = (u.gang? j).map fun g => { g with mon := Monitor.off }) ∧
    ∀ j, (t.wgs.find? j).map (fun w => { w with woken := false }) = (u.wgs.find? j).map fun w => { w with woken := false }

/-- The front end's steps on a queue, one for each kind of packet. -/
def packetSteps (q : Nat) : List Instr :=
  [.packetLaunch q, .packetLauter q, .packetDcopSet q, .packetDcopDecrement q, .packetCbopInitialise q, .packetCbopArrive q,
   .packetNop q]

/-- A queue that is absent, disabled or still to be enabled, or without a published packet at its head is left alone (03 R59). -/
def Says.FrontEndIdle : Prop :=
  ∀ (s : State) (q : Nat) (i : Instr), s.journal = [] → i ∈ packetSteps q →
    (s.queues.find? q = none → exec i s = .next s) ∧
    ∀ w, s.queues.find? q = some w →
      (w.qflags.getLsbD 0 = false ∨ w.enabling ≠ none → exec i s = .next s) ∧ ∀ t, s.nextPacket w = .ok none t → exec i s = .next s

/-- A front-end read that faults stops the queue: ENABLE clears, FAULTED is set; no packet acts (03 R479). -/
def Says.FrontEndFault : Prop :=
  ∀ (s t : State) (q va : Nat) (w : WorkQ) (i : Instr), s.journal = [] → i ∈ packetSteps q → s.queues.find? q = some w →
    s.nextPacket w = .fault va t →
    ∃ u w', exec i s = .next u ∧ u.queues.find? q = some w' ∧ { w' with qflags := w.qflags } = w ∧
      w'.qflags.getLsbD 0 = false ∧ w'.qflags.getLsbD 4 = true ∧ (∀ n, n ≠ 0 → n ≠ 4 → w'.qflags.getLsbD n = w.qflags.getLsbD n) ∧
      (∀ k, k ≠ q → u.queues.find? k = s.queues.find? k) ∧ u.entries = s.entries ∧ u.grids = s.grids ∧ u.dcs = s.dcs ∧
      u.cmdqs = s.cmdqs

/-- The packet `p` stands published at the head of the queue, and is consumed in `u`. -/
def Takes (s : State) (q : Nat) (w : WorkQ) (p : Packet) (u : State) : Prop :=
  s.journal = [] ∧ s.queues.find? q = some w ∧ ∃ t, s.nextPacket w = .ok (some p) t ∧ t.consume q w p = .ok () u

/-- A consumed packet advances the read index by its slots, two for a LAUNCH (03 R59). -/
def Says.ConsumeAdvances : Prop :=
  ∀ (s u v : State) (q : Nat) (w : WorkQ) (p : Packet), s.queues.find? q = some w →
    let n := (p.index + (if p.slot % 256 = 1 then 2 else 1)) % 2 ^ 64
    s.devWrite devUnit w.pasid (s.frontPart w) w.ridxAddr 8 n = .ok () v → s.consume q w p = .ok () u →
    u.queues.find? q = some { w with ridx := n } ∧ { u with queues := v.queues } = v

/-- The packet is rejected with a code: its record goes to the queue's error ring (03 R62). -/
def Rejects (i : Instr) (s : State) (q : Nat) (p : Packet) (u : State) (code : Nat) : Prop :=
  ∀ v, u.queueErr q p.index code (pkt p.slot 4 4) = .ok () v → EndsAs i s v

/-- A rejection counts, and writes its record while the error ring has room: index, code and tag (03 R62). -/
def Says.RejectionRecord : Prop :=
  ∀ (s : State) (q idx code tag : Nat) (w : WorkQ), s.queues.find? q = some w →
    let full := (w.errtail + 2 ^ 32 - w.errhead) % 2 ^ 32 = 256
    (full → ∃ t, s.queueErr q idx code tag = .ok () t ∧ t.queues.find? q = some { w with errcount := (w.errcount + 1) % 2 ^ 32 } ∧
      { t with queues := s.queues } = s) ∧
    ∀ v, ¬ full → v.queues = s.queues →
      s.devWrite devUnit w.pasid (s.frontPart w) (w.errAddr + 16 * (w.errtail % 256)) 16
        (idx % 2 ^ 64 + 2 ^ 64 * code + 2 ^ 96 * tag) = .ok () v →
      ∃ t, s.queueErr q idx code tag = .ok () t ∧ { t with queues := v.queues } = v ∧
        t.queues.find? q = some { w with errcount := (w.errcount + 1) % 2 ^ 32, errtail := (w.errtail + 1) % 2 ^ 32 }

/-- A grid enters dispatch at the tail of its level, with nothing placed (03 R63, R67). -/
def EntersDispatch (i : Instr) (s v : State) (r : Launch) (kh : KHdr) (kind : GridKind) (pasid first count : Nat) : Prop :=
  ∃ t g e, exec i s = .next t ∧ (∀ k, t.peek k = v.peek k) ∧ t.grids.find? v.nextId = some g ∧
    (∀ j, j ≠ v.nextId → t.grids.find? j = v.grids.find? j) ∧ g.lr = r ∧ g.kh = kh ∧ g.kind = kind ∧ g.pasid = pasid ∧
    g.first = first ∧ g.count = count ∧ g.next = 0 ∧ g.live = 0 ∧ g.killed = false ∧ t.entries = v.entries ++ [e] ∧
    e.grid = v.nextId ∧ e.part = r.part ∧ e.wid = none ∧ e.base = r.prio ∧ e.eff = r.prio ∧ e.rounds = 0

/-- A launch record that passes its own checks and those of R64, for this chip and with no graph, enters dispatch. -/
def LaunchEnters (i : Instr) (s u : State) (src : LSrc) (pasid addr x : Nat) : Prop :=
  let r := parseRecord addr x
  ∀ kh ms n v, u.recordCode src x r = none → r.chipset = 0 → u.launchChecks pasid r = .ok (0, kh, ms, n, none) v →
    EntersDispatch i s v r kh .launch pasid 0 r.wgCount

/-- A LAUNCH packet (03 R63, R64): accepted, its grid enters dispatch; with the first failed check's code, it is rejected. -/
def Says.PacketLaunchResult : Prop :=
  ∀ (s u : State) (q : Nat) (w : WorkQ) (p : Packet), Takes s q w p u →
    (p.slot % 256 ≠ 1 → exec (.packetLaunch q) s = .next s) ∧
    (p.slot % 256 = 1 →
      let src := LSrc.queue (w.qflags.getLsbD 1) (w.qflags.getLsbD 2) w.partMask
      LaunchEnters (.packetLaunch q) s u src w.pasid 0 p.whole ∧
      (∀ c, u.recordCode src p.whole (parseRecord 0 p.whole) = some c → c ≠ 0 → Rejects (.packetLaunch q) s q p u c) ∧
      ∀ c kh ms n g v, u.recordCode src p.whole (parseRecord 0 p.whole) = none → (parseRecord 0 p.whole).chipset = 0 →
        u.launchChecks w.pasid (parseRecord 0 p.whole) = .ok (c, kh, ms, n, g) v → c ≠ 0 → Rejects (.packetLaunch q) s q p v c)

/-- A LAUTER packet (07 R206, R207): a bad field is rejected with code 1, a partition outside the queue's with code 6; else it joins its
engine's command queue, and a full queue holds the front end back. -/
def Says.PacketLauterResult : Prop :=
  ∀ (s u : State) (q : Nat) (w : WorkQ) (p : Packet), Takes s q w p u → p.slot % 256 = 2 →
    let outside := lauterOutside p.slot w.partMask = true ∨ w.partMask.testBit (partOfCluster (natBits p.slot 20 16)) = false
    (lauterBad p.slot = true → Rejects (.packetLauter q) s q p u 1) ∧
    (lauterBad p.slot = false → outside → Rejects (.packetLauter q) s q p u 6) ∧
    (lauterBad p.slot = false → ¬ outside →
      (s.cmdFull (s.lauterTarget p.slot) = true → exec (.packetLauter q) s = .next s) ∧
      (s.cmdFull (s.lauterTarget p.slot) = false → ∃ t l, exec (.packetLauter q) s = .next t ∧ (∀ k, t.peek k = u.peek k) ∧
        t.cmdq (u.lauterTarget p.slot) = u.cmdq (u.lauterTarget p.slot) ++ [l] ∧
        (∀ e, e ≠ u.lauterTarget p.slot → t.cmdq e = u.cmdq e) ∧ t.queues = u.queues ∧ l.entry = pkt p.slot 8 8 ∧
        l.tag = pkt p.slot 4 4 ∧ l.pasid = w.pasid ∧ l.cbAddr = pkt p.slot 48 8 ∧ l.cbBytes = pkt p.slot 56 4 ∧
        ∀ k, k < 8 → (l.arg.getD k 0).toNat = pkt p.slot (16 + 4 * k) 4))

/-- A DCOP packet that sets a counter (03 R61, R75, R76): a counter that is not armed takes the task and gains the count; an armed one
refuses, with code 1; a counter outside the queue's partitions, code 6. -/
def Says.PacketDcopSetResult : Prop :=
  ∀ (s u : State) (q : Nat) (w : WorkQ) (p : Packet), Takes s q w p u → p.slot % 256 = 3 → pkt p.slot 8 1 = 1 →
    let id := pkt p.slot 10 2
    let n := pkt p.slot 12 4
    let task := pkt p.slot 16 8
    let bad := dcopBad p.slot = true ∨ task % 64 ≠ 0 ∨ 2 ^ 57 ≤ task
    (bad → Rejects (.packetDcopSet q) s q p u 1) ∧
    (¬ bad → w.partMask.testBit (id / 512) = false → Rejects (.packetDcopSet q) s q p u 6) ∧
    (¬ bad → w.partMask.testBit (id / 512) = true →
      ((u.dc id).armed = true → Rejects (.packetDcopSet q) s q p u 1) ∧
      ((u.dc id).armed = false → 0 < (u.dc id).count + n → (u.dc id).count + n ≤ 8388607 →
        ∃ t, exec (.packetDcopSet q) s = .next t ∧ (∀ k, t.peek k = u.peek k) ∧
          t.dc id = { u.dc id with count := (u.dc id).count + n, task := task, pasid := w.pasid, armed := true } ∧
          (∀ j, j ≠ id → t.dc j = u.dc j) ∧ t.entries = u.entries))

/-- A DCOP packet that decrements (03 R61, R76): the counter falls; an armed one that reaches zero fires its task. -/
def Says.PacketDcopDecrementResult : Prop :=
  ∀ (s u : State) (q : Nat) (w : WorkQ) (p : Packet), Takes s q w p u → p.slot % 256 = 3 → pkt p.slot 8 1 ≠ 1 →
    let id := pkt p.slot 10 2
    let m := pkt p.slot 12 4
    let c := u.dc id
    let bad := dcopBad p.slot = true ∨ pkt p.slot 8 1 ≠ 2 ∨ m = 0
    (bad → Rejects (.packetDcopDecrement q) s q p u 1) ∧
    (¬ bad → w.partMask.testBit (id / 512) = false → Rejects (.packetDcopDecrement q) s q p u 6) ∧
    (¬ bad → w.partMask.testBit (id / 512) = true → -8388608 ≤ c.count - m → c.count - m ≤ 8388607 →
      (c.armed = false ∨ 0 < c.count - m → ∃ t, exec (.packetDcopDecrement q) s = .next t ∧ (∀ k, t.peek k = u.peek k) ∧
        t.dc id = { c with count := c.count - m } ∧ (∀ j, j ≠ id → t.dc j = u.dc j) ∧ t.entries = u.entries) ∧
      (c.armed = true → c.count - m ≤ 0 → ∀ x v1 kh ms n v,
        (u.setDc id { c with count := 0, armed := false }).devRead devUnit c.pasid (id / 512) c.task 128 = .ok x v1 →
        v1.recordCode (.task (id / 512)) x (parseRecord c.task x) = none → (parseRecord c.task x).chipset = 0 →
        v1.launchChecks c.pasid (parseRecord c.task x) = .ok (0, kh, ms, n, none) v →
        EntersDispatch (.packetDcopDecrement q) s v (parseRecord c.task x) kh .launch c.pasid 0 (parseRecord c.task x).wgCount))

/-- A CBOP packet's effect (03 R61, 05 Table 5.5): the barrier's 32 bytes become what the operation makes of them; one that cannot reach
them is kept, to be reported with code 8. -/
def CbopResult (i : Instr) (s u : State) (q : Nat) (w : WorkQ) (p : Packet) (f : Nat → Nat) : Prop :=
  let va := pkt p.slot 16 8
  (∀ tr, u.translate devUnit w.pasid (u.frontPart w) va .rmw false = .ok tr → tr.isReg = false → tr.tier ≠ 3 → tr.hold = false →
    tr.orBits = 0 → u.farGate devUnit w.pasid tr.key = none → u.portHeld tr.key u.cycle = false → PlainMem u tr.key 32 tr.zb →
    ∃ t, exec i s = .next t ∧ t.cbops = u.cbops ∧ t.queues = u.queues ∧
      ∀ k, t.peek k = if tr.key ≤ k ∧ k < tr.key + 32 then BitVec.ofNat 8 (f (u.peekN tr.key 32) / 256 ^ (k - tr.key))
                      else u.peek k) ∧
  (∀ c r, u.translate devUnit w.pasid (u.frontPart w) va .rmw false = .fault c r →
    ∃ t x, exec i s = .next t ∧ (∀ k, t.peek k = u.peek k) ∧ t.cbops.find? u.nextId = some x ∧ x.q = q ∧ x.index = p.index ∧
      x.tag = pkt p.slot 4 4 ∧ ∀ j, j ≠ u.nextId → t.cbops.find? j = u.cbops.find? j)

/-- CBOP packets: initialise and arrive; reserved bits, an unknown OP and a misaligned address are rejected with code 1. -/
def Says.PacketCbopResult : Prop :=
  ∀ (s u : State) (q : Nat) (w : WorkQ) (p : Packet), Takes s q w p u → p.slot % 256 = 4 →
    let op := pkt p.slot 8 1
    let n := pkt p.slot 24 4
    let bytes := pkt p.slot 32 8
    (op = 1 → (cbopBad p.slot = true → Rejects (.packetCbopInitialise q) s q p u 1) ∧
      (cbopBad p.slot = false → CbopResult (.packetCbopInitialise q) s u q w p fun b => cbInitFn b n bytes)) ∧
    (op ≠ 1 → cbopBad p.slot = true ∨ op ≠ 2 → Rejects (.packetCbopArrive q) s q p u 1) ∧
    (op = 2 → cbopBad p.slot = false → CbopResult (.packetCbopArrive q) s u q w p fun b => cbArriveFn b n bytes)

/-- A NOP packet is consumed and does nothing; a TYPE that is not recognised, or reserved bytes, are rejected with code 1 (03 R61). -/
def Says.PacketNopResult : Prop :=
  ∀ (s u : State) (q : Nat) (w : WorkQ) (p : Packet), Takes s q w p u → p.slot % 256 = 0 ∨ 4 < p.slot % 256 →
    let good := p.slot % 256 = 5 ∧ headerBad p.slot = false ∧ pkt p.slot 8 56 = 0
    (good → EndsAs (.packetNop q) s u) ∧ (¬ good → Rejects (.packetNop q) s q p u 1)

/-- CBOP_FAILURE_REPORT (03 R61): the home's report of a failed CBOP, with code 8. -/
def Says.CbopFailureReportResult : Prop :=
  ∀ (s v : State) (k : Nat) (c : CbReq), s.journal = [] → s.cbops.find? k = some c →
    ({ s with cbops := s.cbops.del k } : State).queueErr c.q c.index 8 c.tag = .ok () v → EndsAs (.cbopFailureReport k) s v

/-! ### Dispatch (03 R65-R71, R79, R81-R87; 09 R265, R266) -/

/-- DISPATCH_ROUND (03 R65, R67, R69): the first entry that the order gives, a launch's next workgroup with a place to go, is placed: its
workgroup is on the cores chosen, with a scratchpad of zeros and every gang started: one fragment at the kernel's entry with
all its lanes, S0 to S3 loaded, every other register zero. Of memory only the STATE byte of each gang's image changes, to 0
(05 R144). -/
def Says.DispatchPlaces : Prop :=
  ∀ (s : State) (part lin img : Nat) (e : Entry) (g : Grid) (n : Need) (cores : List Nat), s.journal = [] → part < 8 →
    s.swapped.has part = false → (∀ x ∈ s.wgs, x.2.onChip = true) →
    let s1 := { s with entries := ageEntries part s.entries }
    (roundOrder part s1.entries).head? = some e → e.wid = none → e.room = [] → s1.placeFor e none none = some cores →
    s1.needEntry e = some (g, n, lin) → s1.findImage e.part n.image = some img → g.kind = .launch → g.dead = [] → cores ≠ [] →
    ∃ t w g', exec (.dispatchRound part) s = .next t ∧
      (∀ k, t.peek k = if (∃ j, j < g.lr.gangs ∧ k = img + j * imageBytes g.kh (gangWidth g.lr g.kh) + 13) then 0 else s.peek k) ∧
      t.wgs.find? s.nextId = some w ∧
      (∀ j, j ≠ s.nextId → t.wgs.find? j = s.wgs.find? j) ∧ w.grid = e.grid ∧ w.linear = g.nextLinear ∧ w.cores = cores ∧
      w.stat = .resident ∧ w.scr = [] ∧ w.prio = e.eff ∧ w.image = img ∧ w.halted = false ∧ w.bars.length = n.bars ∧
      w.gangs.length = g.lr.gangs ∧ t.grids.find? e.grid = some g' ∧ g'.next = g.next + 1 ∧ g'.live = g.live + 1 ∧ g'.lr = g.lr ∧
      (g.next + 1 = g.count → ∀ x ∈ t.entries, x.id ≠ e.id) ∧
      ∀ k, k < g.lr.gangs → ∃ gid x fid f, w.gangs[k]? = some gid ∧ t.gang? gid = some x ∧ x.wid = s.nextId ∧ x.num = k ∧
        x.width = gangWidth g.lr g.kh ∧ x.core = cores.getD (k % cores.length) 0 ∧ x.frags = [(fid, f)] ∧
        f.pc = g.kh.base + g.kh.entry ∧ f.mask = maskLow x.width ∧ f.fmt = BitVec.ofNat 32 g.kh.fmt ∧ f.stat = .ready ∧
        f.frames = [] ∧ (∀ m, m < 4 → f.lc.getD m 0 = 0) ∧ x.v = [] ∧ x.k = 0 ∧ x.cause = 0 ∧ x.fpstat = 0 ∧
        (∀ m, m < 8 → x.p.getD m 0 = 0) ∧
        ∀ m, m < g.kh.sregs → Tab.get 0 x.s m = match m with
          | 0 => BitVec.ofNat 32 g.lr.arg
          | 1 => BitVec.ofNat 32 (g.lr.arg / 2 ^ 32)
          | 2 => BitVec.ofNat 32 g.nextLinear
          | 3 => BitVec.ofNat 32 k
          | _ => 0

/-- With nothing waiting in its partition a round changes nothing. -/
def Says.DispatchIdle : Prop :=
  ∀ (s : State) (part : Nat), s.journal = [] → (8 ≤ part ∨ (∀ e ∈ s.entries, e.part ≠ part) ∧ ∀ x ∈ s.wgs, x.2.onChip = true) →
    exec (.dispatchRound part) s = .next s

/-- PREEMPT_TAKE_EFFECT (09 R265, R266): a halt or a handler defers it; a last exit wins; else the workgroup stops, and once nothing in
flight holds its save back it is away with its room given up and an entry of its own in dispatch. -/
def Says.PreemptTakeEffectResult : Prop :=
  ∀ (s : State) (wid : Nat) (w : Wg), s.journal = [] → s.wgs.find? wid = some w → w.stat = .preempting →
    let s' := s.updWg wid fun x => { x with stat := .swapping 1 }
    (w.halted = true ∨ s.trapping wid = true → exec (.preemptTakeEffect wid) s = .next s) ∧
    (w.halted = false → s.trapping wid = false → s.allExited w = true →
      ∃ t, exec (.preemptTakeEffect wid) s = .next t ∧ { t with wgs := s.wgs } = s ∧
        t.wgs.find? wid = some { w with stat := .resident } ∧ ∀ j, j ≠ wid → t.wgs.find? j = s.wgs.find? j) ∧
    (w.halted = false → s.trapping wid = false → s.allExited w = false →
      (s'.drained { w with stat := .swapping 1 } = false → ∃ t, exec (.preemptTakeEffect wid) s = .next t ∧
        { t with wgs := s.wgs } = s ∧ t.wgs.find? wid = some { w with stat := .swapping 1 } ∧
        ∀ j, j ≠ wid → t.wgs.find? j = s.wgs.find? j) ∧
      (s'.drained { w with stat := .swapping 1 } = true → w.swapo = false → ∃ t w', exec (.preemptTakeEffect wid) s = .next t ∧
        t.wgs.find? wid = some w' ∧ w'.stat = .away 1 ∧ w'.cores = [] ∧ w'.forEntry = none ∧
        ∃ e ∈ t.entries, e.wid = some wid))

/-- WAIT_SWAP_OUT (03 R81): a workgroup whose conditions hold stops with its wake-table entries set; one whose do not stays. -/
def Says.WaitSwapOutResult : Prop :=
  ∀ (s : State) (wid : Nat) (w : Wg), s.journal = [] → s.wgs.find? wid = some w → w.stat = .resident →
    let w1 : Wg := { w with stat := .swapping 2, wakes := s.wakesOf w, woken := false }
    let s' := s.updWg wid fun x => { x with stat := .swapping 2, wakes := s.wakesOf w, woken := false }
    (s.maySwap w = false → exec (.waitSwapOut wid) s = .next s) ∧
    (s.maySwap w = true → s'.drained w1 = false → ∃ t, exec (.waitSwapOut wid) s = .next t ∧ { t with wgs := s.wgs } = s ∧
      t.wgs.find? wid = some w1 ∧ ∀ j, j ≠ wid → t.wgs.find? j = s.wgs.find? j) ∧
    (s.maySwap w = true → s'.drained w1 = true → ∃ t w', exec (.waitSwapOut wid) s = .next t ∧ t.wgs.find? wid = some w' ∧
      w'.stat = .away 2 ∧ w'.cores = [])

/-- WAKE_CONDITION (03 R71, R81): the workgroup enters dispatch again at the head of its level, once. -/
def Says.WakeConditionResult : Prop :=
  ∀ (s : State) (wid : Nat) (w : Wg), s.journal = [] → s.wgs.find? wid = some w →
    (s.wakes wid w = false → exec (.wakeCondition wid) s = .next s) ∧
    (s.wakes wid w = true → (∃ e ∈ s.entries, e.wid = some wid) → exec (.wakeCondition wid) s = .next s) ∧
    (s.wakes wid w = true → (∀ e ∈ s.entries, e.wid ≠ some wid) → ∃ t e, exec (.wakeCondition wid) s = .next t ∧
      { t with entries := s.entries, nextId := s.nextId } = s ∧ t.entries = e :: s.entries ∧ e.wid = some wid ∧ e.grid = w.grid ∧
      e.part = w.part ∧ e.eff = w.prio ∧ e.rounds = 0)

/-- The completion action of a launch record from state `u` (03 R66): nothing without its flags; with the first flag its dependence
counter falls by one; with the second the addend is added to the 64 bits at its address; with both the decrement comes first. -/
def CompletionAction (i : Instr) (s u : State) (pasid : Nat) (r : Launch) : Prop :=
  (r.cflags.testBit 0 = false → r.cflags.testBit 1 = false → EndsAs i s u) ∧
  (r.cflags.testBit 0 = true → r.cflags.testBit 1 = false → -8388608 < (u.dc r.dcId).count → (u.dc r.dcId).count ≤ 8388608 →
    (u.dc r.dcId).armed = false ∨ 1 < (u.dc r.dcId).count →
    EndsAs i s (u.setDc r.dcId { u.dc r.dcId with count := (u.dc r.dcId).count - 1 })) ∧
  ∀ v, (r.cflags.testBit 0 = false → v = u) →
    (r.cflags.testBit 0 = true → v = u.setDc r.dcId { u.dc r.dcId with count := (u.dc r.dcId).count - 1 } ∧
      -8388608 < (u.dc r.dcId).count ∧ (u.dc r.dcId).count ≤ 8388608 ∧ ((u.dc r.dcId).armed = false ∨ 1 < (u.dc r.dcId).count)) →
    r.cflags.testBit 1 = true → ∀ tr,
    u.translate devUnit pasid r.part r.nmAddr .rmw false = .ok tr → tr.isReg = false → tr.hold = false → tr.orBits = 0 →
    u.farGate devUnit pasid tr.key = none → u.portHeld tr.key u.cycle = false → PlainMem u tr.key 8 tr.zb →
    ∃ t, exec i s = .next t ∧ t.dcs = v.dcs ∧ t.grids = u.grids ∧
      ∀ k, t.peek k = if tr.key ≤ k ∧ k < tr.key + 8 then
        BitVec.ofNat 8 ((u.peekN tr.key 8 + r.nmAddend) % 2 ^ 64 / 256 ^ (k - tr.key)) else u.peek k

/-- GRID_COMPLETION (03 R66, R87): when every workgroup is placed and over, the grid leaves and its completion action is performed,
unless it was killed; a graph's root only marks its graph. -/
def Says.GridCompletionResult : Prop :=
  ∀ (s : State) (grid : Nat) (g : Grid), s.journal = [] → s.grids.find? grid = some g →
    let u := ({ s with grids := s.grids.del grid, entries := s.entries.filter fun e => e.grid != grid } : State).mcOver g
    (g.next ≠ g.count ∨ g.live ≠ 0 → exec (.gridCompletion grid) s = .next s) ∧
    (g.next = g.count → g.live = 0 → g.kind = .launch →
      (g.killed = true → EndsAs (.gridCompletion grid) s u) ∧
      (g.killed = false → CompletionAction (.gridCompletion grid) s u g.pasid g.lr)) ∧
    (∀ k gr, g.next = g.count → g.live = 0 → g.kind = .graphRoot k → g.killed = false → u.graphs.find? k = some gr →
      ∃ t, exec (.gridCompletion grid) s = .next t ∧ { t with graphs := u.graphs } = u ∧
        t.graphs.find? k = some { gr with rootDone := true } ∧ ∀ j, j ≠ k → t.graphs.find? j = u.graphs.find? j)

/-- GRAPH_DRAIN (03 R87): a drained graph leaves, and its start record's completion action is performed. -/
def Says.GraphDrainResult : Prop :=
  ∀ (s : State) (k : Nat) (gr : Graph), s.journal = [] → s.graphs.find? k = some gr →
    (s.graphOver k gr = false → exec (.graphDrain k) s = .next s) ∧
    (s.graphOver k gr = true →
      CompletionAction (.graphDrain k) s { s with graphs := s.graphs.del k } gr.pasid gr.lr)

/-- BATCH_TIMEOUT (03 R85): an open batch closes when nothing has joined it for its node's TIMEOUT: a gang with a lane for each of its
slots enters dispatch, and the node's batch is empty. -/
def Says.BatchTimeoutResult : Prop :=
  ∀ (s : State) (k node : Nat) (gr : Graph) (nd : GNode), s.journal = [] → s.graphs.find? k = some gr → gr.nodes[node]? = some nd →
    (nd.open_ = [] ∨ s.cycle < nd.lastAppend + nd.timeout → exec (.batchTimeout k node) s = .next s) ∧
    (nd.open_ ≠ [] → nd.lastAppend + nd.timeout ≤ s.cycle → nd.khdr % 256 = 0 → nd.khdr < 2 ^ 57 →
      (s.part gr.part).pen.getLsbD 0 = true →
      let gr' := { gr with nodes := gr.nodes.set node { nd with open_ := [] } }
      let lr : Launch :=
        { gr.lr with addr := 0, khdr := nd.khdr, gx := 1, gy := 1, gz := 1, gangs := 1, width := alignUp nd.batch 8, prio := nd.prio,
                     lflags := gr.lr.lflags % 4, dcId := 0, cflags := 0, arg := 0, cohort := 0, nmAddr := 0, nmAddend := 0,
                     chipset := 0, gen := 0, graph := 0 }
      ∀ kh v, ({ s with graphs := s.graphs.put k gr' } : State).readKhdr gr.pasid gr.part nd.khdr = .ok (0, kh) v →
        (needOf lr kh).tooMuch = false →
        EntersDispatch (.batchTimeout k node) s v lr kh (.node k node) gr.pasid 0 1 ∧
        ∃ t g, exec (.batchTimeout k node) s = .next t ∧ t.graphs.find? k = some gr' ∧ t.grids.find? v.nextId = some g ∧
          g.entries = nd.open_ ∧ g.lanes = nd.open_.length)

/-- DLAUNCH_RELEASE (03 R79): no sooner than 256 cycles after DLAUNCH, and after what it follows, the oldest record of a core is handed to
dispatch, as the pending queue or its slot of the launch-overflow area holds it; one that meets poison there is reported with code 8. -/
def Says.DlaunchReleaseResult : Prop :=
  ∀ (s : State) (core : Nat) (p : Pending), s.journal = [] → s.pending.find? (fun p => p.core == core) = some p →
    (s.cycle < p.issued + 256 ∨ (p.cons.all s.applied) = false → exec (.dlaunchRelease core) s = .next s) ∧
    (p.issued + 256 ≤ s.cycle → (p.cons.all s.applied) = true →
      let u := { s with pending := s.pending.erase p }
      let x := (s.pendingRecord p).1
      (p.spilled = false → s.pendingRecord p = (leBytes p.bytes, false)) ∧
      ((s.pendingRecord p).2 = false → LaunchEnters (.dlaunchRelease core) s u (.device p.part p.base) p.pasid 0 x ∧
        ∀ c, u.recordCode (.device p.part p.base) x (parseRecord 0 x) = some c → c ≠ 0 →
          EndsAs (.dlaunchRelease core) s (u.devErr p.part 0 c (x / 2 ^ 32 % 2 ^ 32) noLinear)) ∧
      ((s.pendingRecord p).2 = true → EndsAs (.dlaunchRelease core) s (u.devErr p.part 0 8 (x / 2 ^ 32 % 2 ^ 32) noLinear)))

/-! ### Multi-chip launches (03 R88-R91) -/

/-- MC_REPORT of a copy of a record: a stale generation is only counted; a record that this chip rejects is reported with its code. -/
def Says.McCopyResult : Prop :=
  ∀ (s : State) (origin gen part pasid : Nat) (rec_ : List (BitVec 64)), s.journal = [] →
    let i := Instr.mcReport (.copy origin gen part pasid rec_)
    let x := recordNat rec_
    (s.stale origin gen = true → EndsAs i s (s.updPart part fun p => { p with stalecnt := p.stalecnt + 1 })) ∧
    (s.stale origin gen = false → (s.mc? origin gen).isSome = true → exec i s = .next s) ∧
    (s.stale origin gen = false → s.mc? origin gen = none → ∀ c, s.recordCode .copy x (parseRecord 0 x) = some c →
      ∃ t m, exec i s = .next t ∧ { t with fabricOut := s.fabricOut } = s ∧ t.fabricOut = s.fabricOut ++ [m] ∧ m.kind = 4 ∧
        m.args = [origin, gen, s.chip, c])

/-- MC_REPORT of a report to this chip as the origin: acceptance is noted; a rejection ends the launch everywhere. -/
def Says.McReportResult : Prop :=
  ∀ (s : State) (gen fromChip code : Nat) (m : McLaunch), s.journal = [] → s.mc? s.chip gen = some m → m.accepted = false →
    m.lr.chipset.testBit fromChip = true →
    let i := Instr.mcReport (.report gen fromChip code)
    (code = 0 → ∃ t m', exec i s = .next t ∧ { t with mcs := s.mcs } = s ∧ t.mc? s.chip gen = some m' ∧
      { m' with reports := m.reports } = m ∧ m'.reports.find? fromChip = some 0 ∧
      ∀ c, c ≠ fromChip → m'.reports.find? c = m.reports.find? c) ∧
    (code ≠ 0 → ∀ v, s.abortMc m code = .ok () v → EndsAs i s v ∧ ∀ x ∈ v.mcs, ¬ (x.origin = m.origin ∧ x.gen = m.gen))

/-- MC_START: the origin waits for every report; then the chip's share of the workgroups enters dispatch. -/
def Says.McStartResult : Prop :=
  ∀ (s : State) (origin gen : Nat) (m : McLaunch), s.journal = [] → s.mc? origin gen = some m →
    (origin = s.chip → m.full = false → exec (.mcStart origin gen) s = .next s) ∧
    (origin ≠ s.chip → m.lr.chipset.testBit s.chip = true → m.graph = none → 0 < (m.lr.share s.chip).2 →
      EntersDispatch (.mcStart origin gen) s
        { s with gens := (origin, m.part, gen) :: s.gens.filter fun e => e.1 != origin,
                 mcs := s.mcs.filter fun x => !(x.origin == origin && x.gen == gen) }
        m.lr m.kh .launch m.pasid (m.lr.share s.chip).1 (m.lr.share s.chip).2)

/-- MC_ABORT: another chip's launch is dropped. -/
def Says.McAbortResult : Prop :=
  ∀ (s : State) (origin gen : Nat), s.journal = [] →
    (origin = s.chip → exec (.mcAbort origin gen) s = .next s) ∧
    (origin ≠ s.chip → ∃ t, exec (.mcAbort origin gen) s = .next t ∧ { t with mcs := s.mcs } = s ∧
      ∀ x, x ∈ t.mcs ↔ x ∈ s.mcs ∧ ¬ (x.origin = origin ∧ x.gen = gen))

/-- MC_TIMEOUT: a launch of this chip whose start barrier has waited for MCTIMEOUT cycles is given up with code 11; 0 sets no limit. -/
def Says.McTimeoutResult : Prop :=
  ∀ (s : State) (gen : Nat) (m : McLaunch), s.journal = [] → s.mc? s.chip gen = some m →
    let limit := (s.part m.part).mctimeout.toNat
    (limit = 0 ∨ m.full = true ∨ s.cycle < m.since + limit → exec (.mcTimeout gen) s = .next s) ∧
    (limit ≠ 0 → m.full = false → m.since + limit ≤ s.cycle → ∀ v, s.abortMc m 11 = .ok () v →
      EndsAs (.mcTimeout gen) s v ∧ ∀ x ∈ v.mcs, ¬ (x.origin = m.origin ∧ x.gen = m.gen))

/-- The events of the front end and of the schedulers. The model's choices: a dependence counter of another partition (log entry 75), a
task address of 2^57 or more as code 1 and a LAUTER cluster outside PART_MASK as code 6 (log entry 64), a device error's address 0 for
DLAUNCH and what MC_ABORT of another origin drops (log entry 54), the order of the launch checks and a record that cannot be read (log
entry 13), and the kinds of the fabric's messages, 4 among them (log entry 48). -/
def Obligations.FrontEndAndDispatch : Prop :=
  Says.FrontEndIdle ∧ Says.FrontEndFault ∧ Says.ConsumeAdvances ∧ Says.RejectionRecord ∧ Says.PacketLaunchResult ∧
  Says.PacketLauterResult ∧ Says.PacketDcopSetResult ∧ Says.PacketDcopDecrementResult ∧ Says.PacketCbopResult ∧
  Says.PacketNopResult ∧ Says.CbopFailureReportResult ∧ Says.DispatchPlaces ∧ Says.DispatchIdle ∧ Says.PreemptTakeEffectResult ∧
  Says.WaitSwapOutResult ∧ Says.WakeConditionResult ∧ Says.GridCompletionResult ∧ Says.GraphDrainResult ∧
  Says.BatchTimeoutResult ∧ Says.DlaunchReleaseResult ∧ Says.McCopyResult ∧ Says.McReportResult ∧ Says.McStartResult ∧
  Says.McAbortResult ∧ Says.McTimeoutResult

/-! ### The kilns and joint operations (07 R200, R203, R217, R218) -/

/-- KILN_GRANT (07 R217, R218): waiting requests are granted in their order while the cluster's budget admits them, and no further; the
holders keep their grants. -/
def Says.KilnGrantResult : Prop :=
  ∀ (s : State) (c : Nat), s.journal = [] →
    let budget := s.kbudget.getD c 32
    (s.kilnFits c = false → exec (.kilnGrant c) s = .next s) ∧
    (kilnHeld (s.kilnOf c).1 ≤ budget → ∃ t pre, exec (.kilnGrant c) s = .next t ∧ MemKept s t ∧ t.flights = s.flights ∧
      (s.kilnOf c).2 = pre ++ (t.kilnOf c).2 ∧
      (t.kilnOf c).1 = (s.kilnOf c).1 ++ pre.map (fun r => { r with since := s.cycle }) ∧ t.kilnFits c = false ∧
      (kilnHeld (t.kilnOf c).1 ≤ budget ∨ (t.kilnOf c).1.length = 1) ∧ ∀ d, d ≠ c → t.kilnOf d = s.kilnOf d)

/-- KILN_PERIOD_EXPIRE (07 R217): after 256 cycles since the grant, or since a joint operation's start, or more than 64 cycles of a wait for
data, room or a page, the grant returns and its request joins the back of the order; not before, and not while a member of a set waits
for the others' grants. The members of a joint operation return theirs together. -/
def Says.KilnPeriodExpireResult : Prop :=
  ∀ (s : State) (c who : Nat) (waited : Bool) (r : KilnReq), s.journal = [] →
    (s.kilnOf c).1.find? (fun r => r.who == who) = some r →
    let gone := if waited = true then r.stalled ≠ 0 ∧ r.stalled - 1 + 64 < s.cycle else r.since + 256 ≤ s.cycle
    let joint := fun (f : Flight) => who % 4 = 0 ∧ s.flights.find? (who / 4) = some f ∧ isMmaJ f.instr = true
    (¬ gone → exec (.kilnPeriodExpire c who waited) s = .next s) ∧
    (∀ f, joint f → f.kept keyBegun = [] → exec (.kilnPeriodExpire c who waited) s = .next s) ∧
    (gone → (∀ f, ¬ joint f) → ∃ t, exec (.kilnPeriodExpire c who waited) s = .next t ∧
      { t with kilns := s.kilns, gangs := s.gangs } = s ∧ ((∀ x ∈ (s.kilnOf c).2, x.who ≠ who) → t.gangs = s.gangs) ∧
      (∀ x, x ∈ (t.kilnOf c).1 ↔ x ∈ (s.kilnOf c).1 ∧ x.who ≠ who) ∧
      (t.kilnOf c).2 = (s.kilnOf c).2.filter (fun x => x.who != who) ++
        [{ who := who, units := r.units, since := s.cycle, stalled := 0 }] ∧
      ∀ d, d ≠ c → t.kilnOf d = s.kilnOf d) ∧
    ∀ f, gone → joint f → f.kept keyBegun ≠ [] → ∃ t, exec (.kilnPeriodExpire c who waited) s = .next t ∧
      { t with kilns := s.kilns, gangs := s.gangs, flights := s.flights } = s ∧
      ∀ x ∈ s.mmaMembers f, t.kilnHas (clusterOf (s.coreOf (gangOf x.ag))) (kilnOp x.id) = false

/-- JOINT_START (07 R203): once every member's operation is ready the latch releases, once, and each of them knows its group. -/
def Says.JointStartResult : Prop :=
  ∀ (s : State) (k : Nat) (l : Latch), s.journal = [] → s.latches.find? k = some l → k < s.nextId → s.latchBad l = false →
    (l.running = true ∨ s.latchReady l = none → exec (.jointStart k) s = .next s) ∧
    ∀ ids, l.running = false → s.latchReady l = some ids → ∃ t, exec (.jointStart k) s = .next t ∧ MemKept s t ∧
      t.latches.find? k = some { l with running := true, flights := ids } ∧ t.gangs = s.gangs ∧ (∀ i ∈ ids, ∀ f, s.flights.find? i = some f → ∃ f', t.flights.find? i = some f' ∧
        { f' with lw := f.lw } = f ∧ f'.kept keyJoint = ids) ∧
      ∀ i, i ∉ ids → t.flights.find? i = s.flights.find? i

/-- JOINT_ABORT (07 R203, 09 R267): a set that cannot complete its operation, running or not: its operations are done without effect on any
tile, the rows that they had written standing as they were, and every member's gang that has not exited is told of ENGFAULT. -/
def Says.JointAbortResult : Prop :=
  ∀ (s : State) (k : Nat) (l : Latch), s.journal = [] → s.latches.find? k = some l → k < s.nextId →
    (s.latchBad l = false → exec (.jointAbort k) s = .next s) ∧
    (s.latchBad l = true → ∃ t, exec (.jointAbort k) s = .next t ∧ MemKept s t ∧ t.latches.find? k = none ∧
      (∀ i ∈ s.abortOps l, ∀ f, s.flights.find? i = some f → ∃ f', t.flights.find? i = some f' ∧ ∀ a ∈ f'.accs, a.done = true) ∧
      (∀ gid g, s.gang? gid = some g → ∃ g', t.gang? gid = some g' ∧
        { g' with asyncs := g.asyncs, a := g.a, drawwait := g.drawwait } = g ∧
        (g.frags ≠ [] → (∃ wid, Member.here gid wid ∈ l.all s) → ∃ e ∈ g'.asyncs, e.2 % 2 ^ 40 = cENGFAULT) ∧
        ((∀ i ∈ s.abortOps l, ∀ f, s.flights.find? i = some f → gangOf f.ag = gid → ∀ e ∈ f.lw, e.1 < keyOldRow) → g'.a = g.a) ∧
        ∀ i f, i ∈ s.abortOps l → s.flights.find? i = some f → gangOf f.ag = gid →
          (∀ j ∈ s.abortOps l, j ≠ i → ∀ x, s.flights.find? j = some x → gangOf x.ag ≠ gid) →
          g'.a = (f.lw.foldl (fun (g : Gang) e =>
            if e.1 ≥ keyOldRow then g.setTileRow (f.sw.getD 0 0) (e.1 - keyOldRow) e.2 else g) g).a))

/-- MTAG_RETIRE (07 R200, 14 R415; 06 R170, R177): after every earlier MSH operation of its gang, and all that it follows by a fence or an
acquire, the binding's counter falls by one. -/
def Says.MtagRetireResult : Prop :=
  ∀ (s : State) (fl gid fid : Nat) (f : Flight) (g : Gang) (o : Opw), s.journal = [] → s.flights.find? fl = some f → f.instr = .mtag o →
    f.withdrawn = false → f.ag = .gang gid fid → s.gang? gid = some g → g.frags ≠ [] →
    let id := f.sw.getD 1 0
    ((∃ e ∈ s.mshOps gid, e.id < fl) ∨ s.mayApply f = false → exec (.mtagRetire fl) s = .next s) ∧
    ((∀ e ∈ s.mshOps gid, fl ≤ e.id) → s.mayApply f = true → -8388608 < (s.dc id).count → (s.dc id).count ≤ 8388608 →
      (s.dc id).armed = false ∨ 1 < (s.dc id).count →
      ∃ t, exec (.mtagRetire fl) s = .next t ∧ MemKept s t ∧ t.gangs = s.gangs ∧ t.flights.find? fl = none ∧
        (∀ j, j ≠ fl → t.flights.find? j = s.flights.find? j) ∧ t.dc id = { s.dc id with count := (s.dc id).count - 1 } ∧
        ∀ j, j ≠ id → t.dc j = s.dc j)

/-! ### Lauter engines (07 R206-R212, R480; 10 R278) -/

/-- LAUTER_CONTEXT_START (07 R206, R208, R210): the oldest packet of an engine takes its lowest free context: the arguments in its first
scalar registers, every other register zero, its entry as program counter. -/
def Says.LauterContextStartResult : Prop :=
  ∀ (s : State) (e n : Nat) (p : LPacket) (rest : List LPacket), s.journal = [] →
    (s.swapped.has (partOfCluster (e / 4)) = true ∨ s.cmdq e = [] ∨ s.freeCtx e = none →
      exec (.lauterContextStart e) s = .next s) ∧
    (s.swapped.has (partOfCluster (e / 4)) = false → s.cmdq e = p :: rest → s.freeCtx e = some n →
      (s.ctx n).stat = .free ∧ 16 * e ≤ n ∧ n < 16 * e + 16 ∧
      ∃ t l, exec (.lauterContextStart e) s = .next t ∧ MemKept s t ∧ t.cmdq e = rest ++ l ∧ (∀ m, m ≠ n → t.ctx m = s.ctx m) ∧
        (t.ctx n).stat = .running ∧ (t.ctx n).pkt = p ∧ (t.ctx n).pc = p.entry ∧ (t.ctx n).k = 0 ∧ (t.ctx n).frames = [] ∧
        (∀ k, Tab.get 0 (t.ctx n).s k = p.arg.getD k 0) ∧ ∀ k, k < 4 → (t.ctx n).lc.getD k 0 = 0)

/-- The grants that a context's operations hold at the kilns, and their requests for one, are given up, and no other's (07 R217). -/
def QuitsKiln (s : State) (n : Nat) (t : State) : Prop :=
  let own := fun (r : KilnReq) => r.who % 4 < 2 ∧ ∃ f, s.flights.find? (r.who / 4) = some f ∧ f.ag = .ctx n
  ∀ c r, (r ∈ (t.kilnOf c).1 ↔ r ∈ (s.kilnOf c).1 ∧ ¬ (c = ctxCluster n ∧ own r)) ∧
    (r ∈ (t.kilnOf c).2 ↔ r ∈ (s.kilnOf c).2 ∧ ¬ (c = ctxCluster n ∧ own r))

/-- LAUTER_ISSUE (07 R206, R480): a free engine takes the next context in turn that may issue; one with asynchronous causes parks at its
bundle boundary, with a fault record of those of the oldest bundle that raised one, which it names. -/
def Says.LauterIssueResult : Prop :=
  ∀ (s : State) (e n : Nat) (l : List Nat), s.journal = [] → s.latch = none →
    (∀ x, s.dps.find? (engineKey e) = some x → x.2.1 ≤ s.cycle) → s.engineReady e = n :: l →
    (s.ctx n).stat = .running ∧ (s.ctx n).readyAt ≤ s.cycle ∧
    ((s.ctx n).asyncs = [] ∨ (s.ctx n).seqOnly = true → ∃ t, exec (.lauterIssue e) s = .next t ∧
      { t with latch := s.latch, dps := s.dps } = s ∧ t.latch = some (.ctx n) ∧
      t.dps.find? (engineKey e) = some (n % 16, s.cycle + 1, 0) ∧
      ∀ k, k ≠ engineKey e → t.dps.find? k = s.dps.find? k) ∧
    (∀ x rest, (s.ctx n).asyncs = x :: rest → (s.ctx n).seqOnly = false → ∃ t r, exec (.lauterIssue e) s = .next t ∧
      { t with ctxs := s.ctxs, lfHeld := s.lfHeld, kilns := s.kilns } = s ∧ QuitsKiln s n t ∧ (∀ m, m ≠ n → t.ctx m = s.ctx m) ∧
      t.ctx n = { s.ctx n with asyncs := rest.filter (fun y => y / 2 ^ 64 != x / 2 ^ 64), stat := .parked false none,
                               seqOnly := false } ∧ t.lfHeld = s.lfHeld ++ [r] ∧
      r.cause = (rest.filter fun y => y / 2 ^ 64 == x / 2 ^ 64).foldl (fun a y => a ||| y % 2 ^ 32) (x % 2 ^ 32) ∧
      r.pc = x / 2 ^ 64 ∧ r.pasid = (s.ctx n).pkt.pasid)

/-- With no context that may issue, or a bundle already chosen, the engine chooses none. -/
def Says.LauterIssueIdle : Prop :=
  ∀ (s : State) (e : Nat), s.journal = [] → s.latch.isSome = true ∨ s.engineReady e = [] → exec (.lauterIssue e) s = .next s

/-- LAUTER_FAULT_RECORD_WRITE (10 R278): the oldest held record of the partition goes to its ring at the tail, which advances; a full ring,
or no record, changes nothing. Into a ring that does not lie where 10 R276 has it, nothing is written (the model's choice, log entry 82). -/
def Says.LauterFaultRecordWriteResult : Prop :=
  ∀ (s : State) (part : Nat), s.journal = [] → part < s.parts.length →
    let p := s.part part
    let full := 2 ^ p.lflog2.toNat ≤ (p.lftail.toNat + 2 ^ 32 - p.lfhead.toNat) % 2 ^ 32
    ((∀ r ∈ s.lfHeld, r.part ≠ part) ∨ full → exec (.lauterFaultRecordWrite part) s = .next s) ∧
    ∀ r, s.lfHeld.find? (fun r => r.part == part) = some r → ¬ full →
      let at_ := p.lfring.toNat + 32 * (p.lftail.toNat % 2 ^ p.lflog2.toNat)
      ∃ t, exec (.lauterFaultRecordWrite part) s = .next t ∧ t.lfHeld = s.lfHeld.erase r ∧
        t.part part = { p with lftail := p.lftail + 1 } ∧ (∀ q, q ≠ part → t.part q = s.part q) ∧
        ∀ k, t.peek k = if structOk part p.lfring.toNat (32 * 2 ^ p.lflog2.toNat) = true ∧ at_ ≤ k ∧ k < at_ + 32 then
          BitVec.ofNat 8 (r.bits / 256 ^ (k - at_)) else s.peek k

/-- LAUTER_COMPLETION (06 R177; 07 R210, R212, R480): a COMPLETING context waits for its accesses and for what its submission covers; a
cause that one of them raised parks it; else its packet's completion action is performed, its arrival at the count barrier and its
decrement, and it is FREE. -/
def Says.LauterCompletionResult : Prop :=
  ∀ (s : State) (n : Nat), s.journal = [] →
    let c := s.ctx n
    (c.stat ≠ .completing ∨ (∃ e ∈ s.flights, e.2.ag = .ctx n ∧ e.2.path ≠ 8) ∨ (s.allEarlier (.ctx n)).all s.applied = false → exec (.lauterCompletion n) s = .next s) ∧
    (∀ x rest, c.stat = .completing → (∀ e ∈ s.flights, e.2.ag = .ctx n → e.2.path = 8) →
      (s.allEarlier (.ctx n)).all s.applied = true → c.asyncs = x :: rest →
      ∃ t r, exec (.lauterCompletion n) s = .next t ∧ { t with ctxs := s.ctxs, lfHeld := s.lfHeld, kilns := s.kilns } = s ∧
        QuitsKiln s n t ∧ (∀ m, m ≠ n → t.ctx m = s.ctx m) ∧ (t.ctx n).stat = .parked true none ∧ t.lfHeld = s.lfHeld ++ [r] ∧
        r.pc = x / 2 ^ 64 ∧ r.pasid = c.pkt.pasid) ∧
    (c.stat = .completing → (∀ e ∈ s.flights, e.2.ag = .ctx n → e.2.path = 8) → (s.allEarlier (.ctx n)).all s.applied = true →
      c.asyncs = [] →
      (c.pkt.cfl.testBit 0 = false ∨ c.arrived = true → c.pkt.cfl.testBit 1 = false →
        ∃ t, exec (.lauterCompletion n) s = .next t ∧ MemKept s t ∧ t.ctx n = Ctx.free ∧ (∀ m, m ≠ n → t.ctx m = s.ctx m) ∧
          t.dcs = s.dcs) ∧
      (c.pkt.cfl.testBit 0 = false ∨ c.arrived = true → c.pkt.cfl.testBit 1 = true → -8388608 < (s.dc c.pkt.dcId).count →
        (s.dc c.pkt.dcId).count ≤ 8388608 → (s.dc c.pkt.dcId).armed = false ∨ 1 < (s.dc c.pkt.dcId).count →
        ∃ t, exec (.lauterCompletion n) s = .next t ∧ MemKept s t ∧ t.ctx n = Ctx.free ∧
          t.dc c.pkt.dcId = { s.dc c.pkt.dcId with count := (s.dc c.pkt.dcId).count - 1 } ∧
          ∀ j, j ≠ c.pkt.dcId → t.dc j = s.dc j) ∧
      (∀ tr, c.pkt.cfl.testBit 0 = true → c.arrived = false →
        (c.pkt.cfl.testBit 1 = true → -8388608 < (s.dc c.pkt.dcId).count ∧ (s.dc c.pkt.dcId).count ≤ 8388608 ∧
          ((s.dc c.pkt.dcId).armed = false ∨ 1 < (s.dc c.pkt.dcId).count)) →
        s.trAg (.ctx n) c.pkt.cbAddr .rmw = .ok tr → tr.isReg = false → tr.tier ≠ 3 → tr.hold = false → tr.orBits = 0 →
        s.farGate (s.unitOf (.ctx n)) c.pkt.pasid tr.key = none → s.portHeld tr.key s.cycle = false → PlainMem s tr.key 32 tr.zb →
        ∃ t, exec (.lauterCompletion n) s = .next t ∧ t.ctx n = Ctx.free ∧
          (c.pkt.cfl.testBit 1 = false → t.dcs = s.dcs) ∧
          (c.pkt.cfl.testBit 1 = true → t.dc c.pkt.dcId = { s.dc c.pkt.dcId with count := (s.dc c.pkt.dcId).count - 1 } ∧
            ∀ j, j ≠ c.pkt.dcId → t.dc j = s.dc j) ∧
          ∀ k, t.peek k = if tr.key ≤ k ∧ k < tr.key + 32 then
            BitVec.ofNat 8 (cbArriveFn (s.peekN tr.key 32) 1 c.pkt.cbBytes / 256 ^ (k - tr.key)) else s.peek k))

/-- LAUTER_RESUME (07 R210, R480): a parked context goes on where its cause left it; any other keeps its state. -/
def Says.LauterResumeResult : Prop :=
  ∀ (s : State) (n : Nat), s.journal = [] →
    ∃ t, exec (.lauterResume n) s = .next t ∧ { t with ctxs := s.ctxs } = s ∧ (∀ m, m ≠ n → t.ctx m = s.ctx m) ∧
      (∀ w, (s.ctx n).stat = .parked true w → t.ctx n = { s.ctx n with stat := .completing, restart := none }) ∧
      ((s.ctx n).stat = .parked false none →
        t.ctx n = { s.ctx n with stat := .running, restart := none, readyAt := max (s.ctx n).readyAt s.cycle }) ∧
      (∀ d k, (s.ctx n).stat = .parked false (some (d, k, none)) →
        t.ctx n = { s.ctx n with stat := .waiting d k none, restart := none }) ∧
      ((∀ b w, (s.ctx n).stat ≠ .parked b w) → t.ctx n = s.ctx n)

/-- LAUTER_ABORT (07 R210): a parked context is FREE, with no completion action; any other keeps its state. -/
def Says.LauterAbortResult : Prop :=
  ∀ (s : State) (n : Nat), s.journal = [] →
    ((∀ b w, (s.ctx n).stat ≠ .parked b w) → exec (.lauterAbort n) s = .next s) ∧
    (∀ b w, (s.ctx n).stat = .parked b w → ∃ t, exec (.lauterAbort n) s = .next t ∧ MemKept s t ∧ t.ctx n = Ctx.free ∧
      (∀ m, m ≠ n → t.ctx m = s.ctx m) ∧ t.dcs = s.dcs ∧ t.gangs = s.gangs)

/-! ### Visibility passes (08 R219-R241) -/

/-- A fragment in front of an entry takes it; of two at one depth the lower identifier stands; a NaN, an identifier of 0, and a fragment
behind change nothing (08 R231). -/
def Says.VisMergeRule : Prop :=
  ∀ d id fl e : Nat, d < 2 ^ 32 → d ≠ 0x80000000 → id < 2 ^ 64 →
    let i := e % 2 ^ 64
    let old := fp32.decode (e / 2 ^ 64 % 2 ^ 32)
    let new := fp32.decode d
    let taken := id + 2 ^ 64 * d + 2 ^ 96 * ((fl ||| 1) % 2 ^ 32)
    (new.isNan = true → visMerge false d id fl e = e) ∧ (id = 0 → visMerge false d id fl e = e) ∧
    (id ≠ 0 → new.isNan = false → ∀ k, new.cmp old = some k →
      (k < 0 → visMerge false d id fl e = taken ∧ visMerge true d id fl e = e) ∧
      (k > 0 → visMerge false d id fl e = e ∧ visMerge true d id fl e = taken) ∧
      (k = 0 → id < (if i = 0 then 2 ^ 64 else i) → visMerge false d id fl e = taken ∧ visMerge true d id fl e = taken) ∧
      (k = 0 → i ≠ 0 → i < id → visMerge false d id fl e = e ∧ visMerge true d id fl e = e))

/-- A head request of the rasteriser without its kiln grant asks for 2 units; one that is not yet to be processed waits. -/
def RastAsks (i : Instr) (flush : Bool) (c : Nat) : Prop :=
  ∀ s : State, s.journal = [] →
    (s.rastHead c flush = none → exec i s = .next s) ∧
    ∀ r, s.rastHead c flush = some r → s.kilnHas c kilnRaster = false → (∀ x ∈ (s.kilnOf c).2, x.who ≠ kilnRaster) →
      ∃ t, exec i s = .next t ∧ { t with kilns := s.kilns } = s ∧ (t.kilnOf c).1 = (s.kilnOf c).1 ∧
        (t.kilnOf c).2 = (s.kilnOf c).2 ++ [{ who := kilnRaster, units := 2, since := s.cycle, stalled := 0 }]

/-- RASTER_REQUEST (08 R224-R227): with its grant and a good pass, a request for a tile that the pass lacks sets ERRS bit 0; else its
tile's list is rasterised. The request leaves, and one that seals goes on to do so; a tile that has to wait for its pins keeps it. -/
def Says.RasterRequestResult : Prop :=
  ∀ c : Nat, RastAsks (.rasterRequest c) false c ∧
    ∀ (s t : State) (r : RastReq) (p : Pass), s.journal = [] → s.rastHead c false = some r → s.kilnHas c kilnRaster = true →
      s.passAt (clusterUnit c) r.pasid r.part r.pass = .ok (some p) t →
      (p.count ≤ r.tile → ∀ u, t.passErr p.unit p.pasid p.part p.addr 1 = .ok () u →
        EndsAs (.rasterRequest c) s (u.rastPop c)) ∧
      (r.tile < p.count → ∀ u, (p.rasterTile t r.tile = .ok false u → EndsAs (.rasterRequest c) s (u.kilnStall c kilnRaster true)) ∧
        (p.rasterTile t r.tile = .ok true u →
          EndsAs (.rasterRequest c) s (if r.sealIt then
            { u.rastPop c with seals := Tab.set [] u.seals c (u.sealsOf c ++ [r]) } else u.rastPop c)))

/-- TILE_SEAL (08 R225): once no merge into the tile is on its way, a tile still OPEN becomes SEALED and joins its cluster's scans. -/
def Says.TileSealResult : Prop :=
  ∀ (c : Nat) (s : State), s.journal = [] →
    (s.sealsOf c = [] → exec (.tileSeal c) s = .next s) ∧
    ∀ (t : State) (r : RastReq) (rest : List RastReq) (p : Pass), s.sealsOf c = r :: rest →
      s.passAt (clusterUnit c) r.pasid r.part r.pass = .ok (some p) t →
      (s.mergesPending p r.tile = true → EndsAs (.tileSeal c) s t) ∧
      (s.mergesPending p r.tile = false → ∀ x t1, p.stat t r.tile = .ok x t1 →
        (tsState x ≠ 1 → EndsAs (.tileSeal c) s { t1 with seals := Tab.set [] t1.seals c rest }) ∧
        (tsState x = 1 → ∀ u, p.setStat t1 r.tile (x / 4 * 4 + 2) = .ok () u →
          EndsAs (.tileSeal c) s { u with seals := Tab.set [] u.seals c rest,
                                          scans := Tab.set [] u.scans c (u.scansOf c ++ [{ r with cur := 0 }]) }))

/-- RFLUSH_PROCESS (08 R228): every tile with a list is rasterised; then the list heads are all ones, the unit counter is 0 and the flush
count has grown by one, and the request leaves. -/
def Says.RflushProcessResult : Prop :=
  ∀ c : Nat, RastAsks (.rflushProcess c) true c ∧
    ∀ (s t : State) (r : RastReq) (p : Pass), s.journal = [] → s.rastHead c true = some r → s.kilnHas c kilnRaster = true →
      s.passAt (clusterUnit c) r.pasid r.part r.pass = .ok (some p) t →
      ∀ u, (flushTiles p (List.range p.count) t = .ok false u → EndsAs (.rflushProcess c) s (u.kilnStall c kilnRaster true)) ∧
        (flushTiles p (List.range p.count) t = .ok true u → ∀ u1 u2 u3 x,
          p.write u (p.param + 64) (4 * p.count) (2 ^ (32 * p.count) - 1) = .ok () u1 → p.write u1 p.param 4 0 = .ok () u2 →
          u2.devUpdate p.unit p.pasid p.part (p.param + 8) 4 (· + 1) = .ok x u3 → EndsAs (.rflushProcess c) s (u3.rastPop c))

/-- PIN_SPILL_TIMEOUT (08 R235): a tile that has waited 4,096 cycles for room among the pinned lines of the slice: one pinned tile, SHADING
before SEALED and without FAULTPIN, is marked and unpinned; with none that may be, the new one may open unpinned. -/
def Says.PinSpillTimeoutResult : Prop :=
  ∀ (s : State) (slice : Nat), s.journal = [] →
    ((∀ w ∈ s.pinWait, w.free = true ∨ s.cycle < w.since + 4096 ∨ (s.pinOver w.pin).contains slice = false) →
      exec (.pinSpillTimeout slice) s = .next s) ∧
    ∀ w, s.pinWait.find? (fun w => !w.free && decide (s.cycle ≥ w.since + 4096) && (s.pinOver w.pin).contains slice) = some w →
      (s.spillFor slice 3 = none → s.spillFor slice 2 = none → ∃ t, exec (.pinSpillTimeout slice) s = .next t ∧
        { t with pinWait := s.pinWait } = s ∧
        t.pinWait = s.pinWait.map fun x => if x.pin = w.pin then { x with free := true } else x) ∧
      ∀ q, (s.spillFor slice 3 = some q ∨ s.spillFor slice 3 = none ∧ s.spillFor slice 2 = some q) → ∀ x y t u v,
        let unit := 256 + 4 * q.part
        let va := x / 2 ^ 256 % 2 ^ 64 + 8 * q.tile
        s.devRead unit q.pasid q.part q.pass 128 = .ok x t → t.devRead unit q.pasid q.part va 8 = .ok y u → y.testBit 5 = false →
        u.faultHolds q.pass q.pasid q.tile = false → u.devWrite unit q.pasid q.part va 8 (y ||| 64) = .ok () v →
        EndsAs (.pinSpillTimeout slice) s { v with pins := v.pins.filter fun z =>
          !(z.pass == q.pass && z.pasid == q.pasid && z.tile == q.tile) }

/-- CLASSIFY_SCAN (08 R237): the oldest sealed tile's shaded quads are appended to their bins; the tile is then SHADING while references
stand on it, RELEASED with none; a full ring keeps the scan for later. -/
def Says.ClassifyScanResult : Prop :=
  ∀ (c : Nat) (s : State), s.journal = [] →
    (s.scansOf c = [] → exec (.classifyScan c) s = .next s) ∧
    ∀ (r : RastReq) (rest : List RastReq) (p : Pass) (t s1 s2 s4 : State) (bits n : Nat) (es : List (Nat × Nat)) (all_ : Bool),
      s.scansOf c = r :: rest → s.passAt (clusterUnit c) r.pasid r.part r.pass = .ok (some p) t →
      p.read t (p.tiles + 16384 * r.tile) 16384 = .ok bits s1 →
      scanEntries p c r.tile bits (List.range 256) s1 = .ok (es, false) s2 →
      appendAll p c r.tile (es.drop r.cur) s2 = .ok (n, all_) s4 →
      (all_ = false → EndsAs (.classifyScan c) s { s4 with scans := Tab.set [] s4.scans c ({ r with cur := r.cur + n } :: rest) }) ∧
      (all_ = true → ∀ w s5 s6, p.stat s4 r.tile = .ok w s5 →
        p.setStat s5 r.tile (w / 4 * 4 + if w / 2 ^ 32 % 2 ^ 32 = 0 then 0 else 3) = .ok () s6 →
        EndsAs (.classifyScan c) s { s6 with scans := Tab.set [] s6.scans c rest })

/-- BIN_TIMEOUT (08 R239): 4,096 cycles after the last append, and not before, what the ring holds is launched. -/
def Says.BinTimeoutResult : Prop :=
  ∀ (s : State) (c pass bin : Nat) (x : BinSt), s.journal = [] →
    s.bins.find? (fun x => x.cluster == c && x.pass == pass && x.bin == bin && decide (x.launched < x.appended)) = some x →
    (s.cycle < x.last + 4096 → exec (.binTimeout c pass bin) s = .next s) ∧
    (x.last + 4096 ≤ s.cycle → ∀ (p : Pass) (d : BinDesc) (t u v : State),
      s.passAt (clusterUnit c) x.pasid x.part pass = .ok (some p) t → p.bin t bin = .ok d u →
      p.tryLaunch u c bin d true = .ok () v → EndsAs (.binTimeout c pass bin) s v)

/-- RAY_DELIVERY (08 R242, 14 R439), of a ray whose record its program takes inline: its operation's lane is done with the record's words,
or the words join the queue, which must have room for eight. -/
def Says.RayDeliveryResult : Prop :=
  ∀ (s t : State) (k : Nat) (h : RayHit) (f : Flight) (g : Gang) (r : List Nat × Nat × Bool), s.journal = [] →
    s.rays.find? k = some h → s.flights.find? h.fl = some f → f.withdrawn = false →
    ((f.after.all s.applied) = false ∨ s.raysBefore f = true → exec (.rayDelivery k) s = .next s) ∧
    ((f.after.all s.applied) = true → s.raysBefore f = false → ((f.kept h.lane).getD 10 0).testBit 3 = true → s.traceRay f (f.kept h.lane) = .ok r t →
      r.2.2 = false → t.gang? (gangOf f.ag) = some g →
      (∀ n w, f.dest = .q n w → (248 < (g.qwords n).length → exec (.rayDelivery k) s = .next s) ∧
        ((g.qwords n).length ≤ 248 →
          EndsAs (.rayDelivery k) s ((t.updGang (gangOf f.ag) fun g => g.setWords n (g.qwords n ++ r.1.map (BitVec.ofNat 32))).rayDone
            k h 0 false))) ∧
      ((∀ n w, f.dest ≠ .q n w) → EndsAs (.rayDelivery k) s (t.rayDone k h (wordsNum r.1) false)))

/-- A ray that is done: the access of its lane is applied with the result, and the ray is gone. -/
def Says.RayDoneRule : Prop :=
  ∀ (s : State) (k res : Nat) (h : RayHit) (f : Flight) (bad : Bool), s.flights.find? h.fl = some f →
    (s.rayDone k h res bad).rays.find? k = none ∧
    ∃ f', (s.rayDone k h res bad).flights.find? h.fl = some f' ∧ { f' with accs := f.accs } = f ∧
      ∀ (j : Nat) (a : Acc), f.accs[j]? = some a →
        f'.accs[j]? = some (if a.lane = h.lane then { a with res := res, done := true, poisoned := bad } else a)

/-- PASS_CLOSE (08 R241): a pass whose CLOSE is 1, with no scan and no delivery left, launches what its bins hold and is closing. -/
def Says.PassCloseResult : Prop :=
  ∀ (s : State) (k : Nat) (q : PassSt), s.journal = [] → s.passes[k]? = some q →
    (s.passBusy q = true → exec (.passClose k) s = .next s) ∧
    (s.passBusy q = false → ∀ p t, s.passAt (256 + 4 * q.part) q.pasid q.part q.addr = .ok (some p) t →
      (p.close ≠ 1 → EndsAs (.passClose k) s t) ∧
      (p.close = 1 → ∀ u, closeBins (t.bins.filter fun x => x.pass == q.addr && x.pasid == q.pasid) t = .ok () u →
        EndsAs (.passClose k) s { u with passes := u.passes.map fun y =>
          if y.addr = q.addr ∧ y.pasid = q.pasid then { y with closing := true } else y }))

/-- PASS_DONE (08 R241): a closing pass with its rings empty, its gangs gone and no tile SEALED or SHADING writes DONE and is forgotten with
its bins; one that is not there yet stays. -/
def Says.PassDoneResult : Prop :=
  ∀ (s : State) (k : Nat) (q : PassSt), s.journal = [] → s.passes[k]? = some q →
    let rings := ∃ x ∈ s.bins, x.pass = q.addr ∧ x.pasid = q.pasid ∧ x.launched < x.appended
    let gangs := ∃ e ∈ s.grids, e.2.pasid = q.pasid ∧ ∃ c b, e.2.kind = .bin c q.addr b
    (q.closing = false ∨ rings ∨ gangs ∨ s.passBusy q = true → exec (.passDone k) s = .next s) ∧
    (q.closing = true → ¬ rings → ¬ gangs → s.passBusy q = false → ∀ p t u,
      s.passAt (256 + 4 * q.part) q.pasid q.part q.addr = .ok (some p) t →
      (anyShading p p.count t = .ok true u → EndsAs (.passDone k) s u) ∧
      (anyShading p p.count t = .ok false u → ∀ v, p.write u (p.addr + 120) 4 1 = .ok () v →
        EndsAs (.passDone k) s
          { v with passes := v.passes.filter (fun y => !(y.addr == q.addr && y.pasid == q.pasid)),
                   bins := v.bins.filter fun x => !(x.pass == q.addr && x.pasid == q.pasid) }))

/-- The events of the engines: kilns, joint operations, Lauter contexts, the rasteriser, the classify engine, rays and passes. The model's
choices: a joint operation that runs and aborts, with its rows brought back, and a bad member set (log entry 62); how a scan and a seal end
(log entries 38, 84) and the pixel that the classify engine drops (log entry 61); a Lauter context's faults (log entry 47); a ring that lies elsewhere
(log entry 82); the order of rays (log entry 86). -/
def Obligations.EngineEvents : Prop :=
  Says.KilnGrantResult ∧ Says.KilnPeriodExpireResult ∧ Says.JointStartResult ∧ Says.JointAbortResult ∧ Says.MtagRetireResult ∧
  Says.LauterContextStartResult ∧ Says.LauterIssueResult ∧ Says.LauterIssueIdle ∧ Says.LauterFaultRecordWriteResult ∧
  Says.LauterCompletionResult ∧ Says.LauterResumeResult ∧ Says.LauterAbortResult ∧ Says.VisMergeRule ∧ Says.RasterRequestResult ∧
  Says.TileSealResult ∧ Says.RflushProcessResult ∧ Says.PinSpillTimeoutResult ∧ Says.ClassifyScanResult ∧ Says.BinTimeoutResult ∧
  Says.RayDeliveryResult ∧ Says.RayDoneRule ∧ Says.PassCloseResult ∧ Says.PassDoneResult

/-! ### Register space and the host (03 R62, Table 3.1; 08 R235; 10 R272-R279, R289, Tables 10.2-10.6) -/

/-- Nothing but one queue's descriptor changes. -/
def OneQueue (s t : State) (q : Nat) (w : WorkQ) : Prop :=
  { t with queues := s.queues } = s ∧ t.queue q = w ∧ ∀ k, k ≠ q → t.queue k = s.queue k

/-- QUEUE_ENABLE (10 R274): an enabled queue stays enabled; a descriptor that is refused sets FAULTED and stays disabled; a good one is
enabled at the read index that memory holds, and a fault of that read stops it. While the read awaits the host's translation the queue is
enabled and takes no packet, and the same event tries again. The software bits are as written. -/
def Says.QueueEnableResult : Prop :=
  ∀ (s : State) (q : Nat) (flags : W32), s.journal = [] → q < 512 → flags.getLsbD 0 = true →
    (s.dev.recovery = true → exec (.queueEnable q flags) s = .next s) ∧
    (s.dev.recovery = false →
      let w := s.queue q
      let soft := BitVec.ofNat 32 (flags.toNat / 2 % 8 * 2)
      (w.on = true → w.enabling = none → ∃ t, exec (.queueEnable q flags) s = .next t ∧
        OneQueue s t q { w with qflags := soft ||| (w.qflags &&& 16#32) ||| 1#32 }) ∧
      (w.on = false → w.enabling = none → s.queueBad w = true → ∃ t, exec (.queueEnable q flags) s = .next t ∧
        OneQueue s t q { w with qflags := soft ||| 16#32 }) ∧
      (w.enabling ≠ none ∨ (w.on = false ∧ s.queueBad w = false) →
        (∀ x v, s.devRead devUnit w.pasid (s.frontPart w) w.ridxAddr 8 = .ok x v → ∃ t, exec (.queueEnable q flags) s = .next t ∧
          (∀ k, t.peek k = v.peek k) ∧ t.queue q = { w with qflags := soft ||| 1#32, enabling := none, ridx := x } ∧
          ∀ k, k ≠ q → t.queue k = s.queue k) ∧
        (∀ va v, s.devRead devUnit w.pasid (s.frontPart w) w.ridxAddr 8 = .fault va v → ∃ t, exec (.queueEnable q flags) s = .next t ∧
          (t.queue q).on = false ∧ (t.queue q).qflags.getLsbD 4 = true) ∧
        ∀ x, s.devRead devUnit w.pasid (s.frontPart w) w.ridxAddr 8 = .wait x → ∃ t, exec (.queueEnable q flags) s = .next t ∧
          MemKept s t ∧ t.queue q = { w with qflags := soft ||| 1#32, enabling := some (soft ||| 1#32) } ∧
          ∀ k, k ≠ q → t.queue k = s.queue k))

/-- QUEUE_DISABLE (10 R274): ENABLE clears; FAULTED stays; the software bits are as written. -/
def Says.QueueDisableResult : Prop :=
  ∀ (s : State) (q : Nat) (flags : W32), s.journal = [] → q < 512 → flags.getLsbD 0 = false → s.dev.recovery = false →
    ∃ t, exec (.queueDisable q flags) s = .next t ∧
      OneQueue s t q { s.queue q with
        qflags := BitVec.ofNat 32 (flags.toNat / 2 % 8 * 2) ||| ((s.queue q).qflags &&& 16#32), enabling := none }

/-- ERRHEAD_WRITE (03 R62, 10 R274), of an enabled queue too. -/
def Says.ErrheadWriteResult : Prop :=
  ∀ (s : State) (q : Nat) (v : W32), s.journal = [] → q < 512 → s.dev.recovery = false →
    ∃ t, exec (.errheadWrite q v) s = .next t ∧ OneQueue s t q { s.queue q with errhead := v.toNat }

/-- A word of a register that software writes reads back, and every other register of its block reads as before (10 R273, Tables 10.3,
10.4): device block, with 6 bits of CHIPID; partition block, with 1 bit of PEN; the descriptor of a queue that is not enabled;
routes, of 18 bits; kiln budgets, at least 8. -/
def Says.RegisterReadsBack : Prop :=
  ∀ (s : State) (owner : Option Nat) (off : Nat) (v : W64), s.journal = [] → s.regMine owner off = true → off % 4 = 0 →
    let x := v.toNat % 2 ^ 32
    let reads := fun (t : State) (r : Nat) => exec (.registerWrite owner off 4 v) s = .next t ∧ t.regRead off 4 = r
    (off ∈ [24, 28, 32, 36, 40, 44, 48, 56, 60] → ∃ t, reads t x ∧ { t with dev := s.dev } = s ∧
      ∀ o, o < 0x10000 → o % 4 = 0 → o ≠ off → t.regRead o 4 = s.regRead o 4) ∧
    (off = 52 → ∃ t, reads t (x % 64) ∧ { t with dev := s.dev } = s) ∧
    (∀ n o, n < 8 → n < s.parts.length → off = 0x20000 + 0x1000 * n + o →
      (o ∈ [0, 4, 8, 12, 16, 20, 24, 28, 32, 36, 40, 44, 48, 56, 60, 64, 68, 76, 80, 88, 92, 96, 100, 104] →
        ∃ t, reads t x ∧ { t with parts := s.parts } = s ∧ (∀ m, m ≠ n → t.part m = s.part m) ∧
          ∀ d, d < 0x1000 → d % 4 = 0 → d ≠ o → t.regRead (0x20000 + 0x1000 * n + d) 4 = s.regRead (0x20000 + 0x1000 * n + d) 4) ∧
      (o = 72 → ∃ t, reads t (x % 2) ∧ { t with parts := s.parts } = s)) ∧
    (∀ q o, q < 512 → off = 0x10000 + 64 * q + o →
      ((s.queue q).on = false → o ∈ [0, 4, 8, 16, 20, 24, 28, 32, 36, 48, 52] →
        ∃ t, reads t x ∧ { t with queues := s.queues } = s ∧ ∀ k, k ≠ q → t.queue k = s.queue k) ∧
      ((s.queue q).on = false → o = 40 → ∃ t, reads t (x % 2 ^ 20)) ∧ ((s.queue q).on = false → o = 44 → ∃ t, reads t (x % 256)) ∧
      (o = 56 → ∃ t, reads t x)) ∧
    (∀ k, k < 64 → k < s.routes.length → off = 0x100000 + 8 * k → ∃ t, reads t (x % 2 ^ 18) ∧ { t with routes := s.routes } = s) ∧
    (∀ c, c < 32 → c < s.kbudget.length → off = 0x40000 + 8 * c → ∃ t, reads t (max 8 (x % 256)) ∧ { t with kbudget := s.kbudget } = s)

/-- A write of 8 bytes of a 64-bit register of the device block writes both its words. -/
def Says.RegisterWriteWide : Prop :=
  ∀ (s : State) (owner : Option Nat) (off : Nat) (v : W64), s.journal = [] → s.regMine owner off = true →
    off ∈ [24, 32, 40, 56] → ∃ t, exec (.registerWrite owner off 8 v) s = .next t ∧ t.regRead off 8 = v.toNat ∧
      { t with dev := s.dev } = s

/-- A write that is misaligned or of another size, outside register space, of another partition's registers, of all but the device block in
recovery, of a read-only or absent register, or of the descriptor of an enabled queue but QFLAGS and ERRHEAD, changes nothing
(10 R273, R274, R296). -/
def Says.RegisterWriteIgnored : Prop :=
  ∀ (s : State) (owner : Option Nat) (off size : Nat) (v : W64), s.journal = [] →
    ((size ≠ 4 ∧ size ≠ 8) ∨ off % size ≠ 0 ∨ 2 ^ 26 ≤ off ∨ (s.dev.recovery = true ∧ 0x10000 ≤ off) ∨
      (∃ n, owner = some n ∧ (off < 0x10000 ∨ 0x38000 ≤ off ∨
        (0x20000 ≤ off ∧ off < 0x28000 ∧ (off - 0x20000) / 0x1000 ≠ n) ∨
        (0x10000 ≤ off ∧ off < 0x18000 ∧ (s.queue ((off - 0x10000) / 64)).partMask ≠ 2 ^ n))) ∨
      (size = 4 ∧ (off ∈ [0, 4, 8, 12, 20, 64, 68] ∨ (72 ≤ off ∧ off < 0x10000))) ∨
      (size = 4 ∧ ∃ q o, q < 512 ∧ off = 0x10000 + 64 * q + o ∧ o < 64 ∧ o ≠ 12 ∧ o ≠ 56 ∧ (s.queue q).on = true)) →
    exec (.registerWrite owner off size v) s = .next s

/-- KBUDGET_WRITE (10 R289): a value below 8 acts as 8. -/
def Says.KbudgetWriteResult : Prop :=
  ∀ (s : State) (c : Nat) (v : Byte), s.journal = [] → s.dev.recovery = false → c < s.kbudget.length →
    ∃ t, exec (.kbudgetWrite c v) s = .next t ∧ { t with kbudget := s.kbudget } = s ∧ t.kbudget[c]? = some (max 8 v.toNat) ∧
      ∀ d, d ≠ c → t.kbudget[d]? = s.kbudget[d]?

/-- PINMAX_WRITE (08 R235, 10 R279). -/
def Says.PinmaxWriteResult : Prop :=
  ∀ (s : State) (v : W32), s.journal = [] →
    ∃ t, exec (.pinmaxWrite v) s = .next t ∧ { t with dev := s.dev } = s ∧ t.dev = { s.dev with pinmax := v }

/-- HOST_BAR2_ACCESS (10 R272): within tier 0 a write stores exactly its bytes from the window's base on, and a read answers with them;
beyond tier 0 the access completes with Unsupported Request, and in recovery nothing happens. -/
def Says.HostBar2Result : Prop :=
  ∀ (s : State) (off len : Nat), s.journal = [] →
    let pa := s.dev.winbase.toNat + off
    let size := fun (wr : Option (List Byte)) => match wr with | some l => l.length | none => len
    (s.dev.recovery = true → ∀ wr, exec (.hostBar2Access off len wr) s = .next s) ∧
    (s.dev.recovery = false → ∀ wr, 384 * 2 ^ 30 < pa + size wr → ∃ t, exec (.hostBar2Access off len wr) s = .next t ∧
      { t with hostOut := s.hostOut } = s ∧ t.hostOut = s.hostOut ++ [{ kind := 11, args := [off, size wr] }]) ∧
    (s.dev.recovery = false → s.zbBlocks = [] → s.poison = [] → s.cbUse = [] →
      (∀ l : List Byte, pa + l.length ≤ 384 * 2 ^ 30 → ∃ t, exec (.hostBar2Access off len (some l)) s = .next t ∧
        t.hostOut = s.hostOut ∧ ∀ k, t.peek k = if pa ≤ k ∧ k < pa + l.length then l.getD (k - pa) 0 else s.peek k) ∧
      (pa + len ≤ 384 * 2 ^ 30 → ∃ t, exec (.hostBar2Access off len none) s = .next t ∧ { t with hostOut := s.hostOut } = s ∧
        t.hostOut = s.hostOut ++ [{ kind := 7, args := [off, len, s.peekN pa len, 0] }]))

/-! ### Resets (10 R294-R296, Tables 10.6, 10.7) -/

/-- What a reset of the device leaves: no work of any kind, the registers at their reset values, the retired units and the count of regions
without spares, the repair record, and RECOVERY as the check of the image says. -/
def ResetLeaves (s t : State) (ok : Bool) : Prop :=
  t.gangs = [] ∧ t.wgs = [] ∧ t.grids = [] ∧ t.entries = [] ∧ t.queues = [] ∧ t.flights = [] ∧ t.dcs = [] ∧ t.graphs = [] ∧
    t.mcs = [] ∧ t.ctxs = [] ∧ t.cmdqs = [] ∧ t.kilns = [] ∧ t.pins = [] ∧ t.l1 = [] ∧ t.tlb = [] ∧ t.icache = [] ∧
    t.hubs = [] ∧ t.issue = none ∧ t.latch = none ∧ (∀ p, t.part p = PartBlk.reset) ∧ (∀ c, c < 32 → t.kbudget[c]? = some 32) ∧
    t.dev.pinmax = 8192 ∧ t.dev.clkstep = 2000 ∧ t.dev.pasidtab = 0 ∧ t.dev.winbase = 0 ∧ t.dev.devctl = 0 ∧
    t.retiredCores = s.retiredCores ∧ t.retiredSlices = s.retiredSlices ∧ t.cores = s.cores ∧ t.slices = s.slices ∧
    t.dev.replace = s.dev.replace ∧ t.dev.nospare = s.dev.nospare ∧ t.dev.recovery = !ok ∧ t.repair = s.repair ∧ t.journal = []

/-- What a warm reset leaves: with RETAIN every byte; without it a byte may be what GDDR held before L2's line was written back. Poison and
CHIPID stay. -/
def WarmLeaves (s t : State) (retain : Bool) : Prop :=
  ResetLeaves s t s.flashOk ∧ t.dev.chipid = s.dev.chipid ∧ t.flash = s.flash ∧ (∀ p ∈ s.poison, p ∈ t.poison) ∧
    (retain = true → MemKept s t) ∧
    (retain = false → ∀ k, t.peek k = s.peek k ∨ s.l2old.find? k = some (t.peek k))

/-- WARM_RESET, with RETAIN as DEVCTL[1] says; FUNCTION_LEVEL_RESET, which ignores it (10 R294). -/
def Says.WarmResetResult : Prop :=
  ∀ s : State, s.journal = [] →
    (∃ t, exec .warmReset s = .next t ∧ WarmLeaves s t (s.dev.devctl.getLsbD 1)) ∧
    ∃ t, exec .functionLevelReset s = .next t ∧ WarmLeaves s t false

/-- DEVCTL_WARM_RESET (10 Table 10.3, R294): a 1 in bit 0 resets, with RETAIN as bit 1 of the same write says; a 0 only sets RETAIN. -/
def Says.DevctlWarmResetResult : Prop :=
  ∀ (s : State) (v : W64), s.journal = [] →
    (v.getLsbD 0 = true → ∃ t, exec (.devctlWarmReset v) s = .next t ∧ WarmLeaves s t (v.getLsbD 1)) ∧
    (v.getLsbD 0 = false → ∃ t, exec (.devctlWarmReset v) s = .next t ∧ { t with dev := s.dev } = s ∧
      { t.dev with devctl := s.dev.devctl } = s.dev ∧ t.dev.devctl.getLsbD 1 = v.getLsbD 1 ∧
      ∀ n, n ≠ 1 → t.dev.devctl.getLsbD n = false)

/-- COLD_RESET (10 R294, R296): GDDR's bytes are gone, host memory's stay; CHIPID is 0; a new image in flash takes effect. THERMAL_TRIP above
115 °C is a cold reset; at or below, nothing. -/
def Says.ColdResetResult : Prop :=
  ∀ s : State, s.journal = [] →
    (∃ t ok, exec .coldReset s = .next t ∧ ResetLeaves s t ok ∧ (s.flashNew = none → ok = s.flashOk) ∧ t.dev.chipid = 0 ∧
      t.flash = s.flashNew.getD s.flash ∧ t.flashNew = none ∧ (∀ k, k < 2 ^ 61 → t.peek k = 0) ∧
      (∀ k, 2 ^ 61 ≤ k → t.peek k = s.peek k) ∧ ∀ p ∈ t.poison, 2 ^ 61 ≤ p * 32) ∧
    ∀ c, (115 < c → exec (.thermalTrip c) s = exec .coldReset s) ∧ (c ≤ 115 → exec (.thermalTrip c) s = .next s)

/-- PRESET (10 R294, Table 10.7): the partition's work and its queues' enables are gone; other partitions' work, the registers and every byte
of memory stay. -/
def Says.PresetResult : Prop :=
  ∀ (s : State) (n : Nat), s.journal = [] → n < 8 →
    (s.dev.recovery = true → exec (.preset n) s = .next s) ∧
    (s.dev.recovery = false → ∃ t, exec (.preset n) s = .next t ∧ MemKept s t ∧ t.parts = s.parts ∧ t.dev = s.dev ∧
      t.kbudget = s.kbudget ∧ t.routes = s.routes ∧ t.issue = none ∧ t.swapped.has n = false ∧
      (∀ e ∈ t.wgs, e.2.part ≠ n) ∧ (∀ j w, s.wgs.find? j = some w → w.part ≠ n → t.wgs.find? j = some w) ∧
      (∀ e ∈ t.grids, e.2.lr.part ≠ n) ∧ (∀ j g, s.grids.find? j = some g → g.lr.part ≠ n → t.grids.find? j = some g) ∧
      (∀ e ∈ t.entries, e.part ≠ n) ∧ (∀ e ∈ s.entries, e.part ≠ n → e ∈ t.entries) ∧
      (∀ q w, s.queues.find? q = some w → ∃ w', t.queues.find? q = some w' ∧
        { w' with qflags := w.qflags, enabling := w.enabling } = w ∧
        (w.partMask % 256 = 2 ^ n → w'.on = false ∧ w'.enabling = none) ∧ (w.partMask % 256 ≠ 2 ^ n → w' = w)) ∧
      (∀ id, id / 512 = n → t.dc id = DepCtr.zero) ∧ (∀ id, id / 512 ≠ n → t.dc id = s.dc id) ∧
      (∀ c, partOfCluster (ctxCluster c) = n → t.ctx c = Ctx.free) ∧
      ∀ c, partOfCluster (ctxCluster c) ≠ n → t.ctx c = s.ctx c)

/-! ### Power, the vertical bus, retired units, links and firmware (06 R182, R184; 10 R280-R293, R296) -/

/-- POWER_THROTTLE (10 R289): the cluster's budget, the clock in steps of 100 MHz between 1.0 and 2.0 GHz, and the indication of its cause. -/
def Says.PowerThrottleResult : Prop :=
  ∀ (s : State) (c budget mhz : Nat) (thermal active : Bool), s.journal = [] → c < s.kbudget.length →
    ∃ t, exec (.powerThrottle c budget mhz thermal active) s = .next t ∧ { t with kbudget := s.kbudget, dev := s.dev } = s ∧
      t.kbudget[c]? = some (max 8 (min budget 255)) ∧ (∀ d, d ≠ c → t.kbudget[d]? = s.kbudget[d]?) ∧
      (mhz % 100 = 0 → 1000 ≤ mhz → mhz ≤ 2000 → t.dev.clkstep.toNat = mhz) ∧
      (¬ (mhz % 100 = 0 ∧ 1000 ≤ mhz ∧ mhz ≤ 2000) → t.dev.clkstep = s.dev.clkstep) ∧
      (thermal = true → t.dev.thermal = active ∧ t.dev.pwrcap = s.dev.pwrcap) ∧
      (thermal = false → t.dev.pwrcap = active ∧ t.dev.thermal = s.dev.thermal)

/-- Nothing but one bond region changes. -/
def OneRegion (s t : State) (r : Nat) (x : Region) : Prop :=
  { t with regions := s.regions } = s ∧ t.region r = x ∧ ∀ k, k ≠ r → t.region k = s.region k

/-- CANARY_MEASURE (10 R286, R288): a drifted canary schedules a repair while a spare is left, once; with none left its slice retires. -/
def Says.CanaryMeasureResult : Prop :=
  ∀ (s : State) (r : Nat), s.journal = [] → r < 3200 →
    exec (.canaryMeasure r false) s = .next s ∧
    ((s.region r).spares < 8 → (s.region r).scheduled = true → exec (.canaryMeasure r true) s = .next s) ∧
    ((s.region r).spares < 8 → (s.region r).scheduled = false → ∃ t, exec (.canaryMeasure r true) s = .next t ∧
      OneRegion s t r { s.region r with scheduled := true, since := s.cycle }) ∧
    (8 ≤ (s.region r).spares → exec (.canaryMeasure r true) s = exec (.unitRetire false (r / 10)) s)

/-- BUS_CRC_REPLAY (10 R285-R288): the transfer that failed is noted beside those of the slice's last 4,096; errors of a failing bond schedule
a repair, or, in a region with no spare left, retire the slice, as UNIT_RETIRE does. -/
def Says.BusCrcReplayResult : Prop :=
  ∀ (s : State) (r : Nat), s.journal = [] → r < 3200 →
    let n := Tab.get 0 s.xfers (r / 10)
    let fails := n :: (s.region r).fails.filter fun k => decide (n < k + 4096)
    (∃ t, exec (.busCrcReplay r false) s = .next t ∧ OneRegion s t r { s.region r with fails := fails }) ∧
    ((s.region r).spares < 8 → (s.region r).scheduled = false → ∃ t, exec (.busCrcReplay r true) s = .next t ∧
      OneRegion s t r { s.region r with fails := fails, scheduled := true, since := s.cycle }) ∧
    ((s.region r).spares < 8 → (s.region r).scheduled = true → ∃ t, exec (.busCrcReplay r true) s = .next t ∧
      OneRegion s t r { s.region r with fails := fails }) ∧
    (8 ≤ (s.region r).spares → ∀ u, exec (.busCrcReplay r false) s = .next u →
      exec (.busCrcReplay r true) s = exec (.unitRetire false (r / 10)) u)

/-- REGION_RETRAIN (10 R286, R287, R295): a region that is scheduled, or pauses for it, starts to retrain with no transfer in flight through its
port but those issued since its pause began; as it ends, one spare more is in use, and a repair record with a higher sequence number says so. -/
def Says.RegionRetrainResult : Prop :=
  ∀ (s : State) (r : Nat), s.journal = [] →
    let x := s.region r
    (x.retraining = false → x.scheduled = true ∨ x.pause ≠ none → s.portBusy (r / 10) x.pause = false →
      ∃ t, exec (.regionRetrain r) s = .next t ∧ OneRegion s t r { x with retraining := true }) ∧
    (x.retraining = false → (x.scheduled = false ∧ x.pause = none) ∨ s.portBusy (r / 10) x.pause = true →
      exec (.regionRetrain r) s = .next s) ∧
    (x.retraining = true → x.scheduled = false → ∃ t, exec (.regionRetrain r) s = .next t ∧
      OneRegion s t r { x with retraining := false, pause := none, fails := [] }) ∧
    (x.retraining = true → x.scheduled = true → x.spares < 8 → ∃ t b, exec (.regionRetrain r) s = .next t ∧ MemKept s t ∧
      t.region r = { x with retraining := false, pause := none, fails := [], spares := x.spares + 1, scheduled := false } ∧
      (∀ k, k ≠ r → t.region k = s.region k) ∧ Tab.get 0 t.soft r = x.spares + 1 ∧
      (∀ k, k ≠ r → Tab.get 0 t.soft k = Tab.get 0 s.soft k) ∧ bestRecord t.repair = some b ∧ b.spares = t.soft ∧
      ∀ a, bestRecord s.repair = some a → a.seq < b.seq)

/-- RETRAIN_DEFERRAL_EXPIRE (10 R287), after 128,000 cycles; CRC_BURST_RETRAIN, with more than 16 failures among 4,096 transfers: from now on
new transfers wait. -/
def Says.RetrainForcedResult : Prop :=
  ∀ (s : State) (r : Nat), s.journal = [] →
    let x := s.region r
    let failed := (x.fails.filter fun k => decide (Tab.get 0 s.xfers (r / 10) < k + 4096)).length
    (x.scheduled = true → x.retraining = false → x.pause = none → x.since + 128000 ≤ s.cycle →
      ∃ t, exec (.retrainDeferralExpire r) s = .next t ∧ OneRegion s t r { x with pause := some s.cycle }) ∧
    (s.cycle < x.since + 128000 → exec (.retrainDeferralExpire r) s = .next s) ∧
    (16 < failed → x.retraining = false → x.pause = none →
      ∃ t, exec (.crcBurstRetrain r) s = .next t ∧ OneRegion s t r { x with pause := some s.cycle }) ∧
    (failed ≤ 16 → exec (.crcBurstRetrain r) s = .next s)

/-- UNIT_RETIRE (10 R291-R293): a core leaves service, with its L1 and instruction cache, and the workgroups on it stop to be saved as SWAPO
saves them, where their partition has a shadow region; a slice leaves service; HEALTH says that the device should be replaced; no byte of memory changes. A unit retires once. -/
def Says.UnitRetireResult : Prop :=
  ∀ (s : State) (k : Nat), s.journal = [] →
    (k < 256 → s.retiredCores.has k = false → ∃ t, exec (.unitRetire true k) s = .next t ∧ MemKept s t ∧ t.retiredCores.has k = true ∧
      (∀ c, c ≠ k → t.retiredCores.has c = s.retiredCores.has c) ∧ t.cores = s.cores - 1 ∧ t.dev = { s.dev with replace := true } ∧
      (∀ l ∈ t.l1, l.core ≠ k) ∧ (∀ l ∈ t.icache, l.core ≠ k) ∧ t.gangs = s.gangs ∧
      ∀ j w, s.wgs.find? j = some w → w.stat = .resident →
        (k ∈ w.cores → s.allExited w = false → ∃ w', t.wgs.find? j = some w' ∧ w'.stat = .swapping 1 ∧
          { w' with stat := w.stat, swapo := w.swapo, emptied := w.emptied } = w ∧
          ((s.part w.part).shadow ≠ 0 → w'.swapo = true)) ∧
        ((∀ e ∈ s.wgs, e.1 = j → k ∉ e.2.cores) → t.wgs.find? j = some w)) ∧
    (k < 320 → s.retiredSlices.has k = false → (∀ q ∈ s.pins, (s.pinSlices q).contains k = false) →
      ∃ t, exec (.unitRetire false k) s = .next t ∧ MemKept s t ∧ t.retiredSlices.has k = true ∧
        (∀ c, c ≠ k → t.retiredSlices.has c = s.retiredSlices.has c) ∧ t.slices = s.slices - 1 ∧
        t.dev = { s.dev with replace := true } ∧ t.gangs = s.gangs ∧ t.flights = s.flights) ∧
    (s.retiredCores.has k = true ∨ 256 ≤ k → exec (.unitRetire true k) s = .next s) ∧
    (s.retiredSlices.has k = true ∨ 320 ≤ k → exec (.unitRetire false k) s = .next s)

/-- FABRIC_LINK_RETRAIN (10 R284): an active link retrains, and one that retrains is active again; FABRIC_FLIT_REPLAY (10 R282) changes
nothing that software sees. -/
def Says.LinkRetrainResult : Prop :=
  ∀ (s : State) (k : Nat), s.journal = [] →
    (∀ x, (x = 0 ∨ x = 1) → s.links[k]? = some x → ∃ t, exec (.fabricLinkRetrain k) s = .next t ∧ { t with links := s.links } = s ∧
      t.links[k]? = some (1 - x) ∧ ∀ j, j ≠ k → t.links[j]? = s.links[j]?) ∧
    ((∀ x, s.links[k]? = some x → 2 ≤ x) → exec (.fabricLinkRetrain k) s = .next s) ∧ exec (.fabricFlitReplay k) s = .next s

/-- FABRIC_LINK_FAIL (10 R283, R284; 06 R184): a link that does not come back leaves service and every route; its streams move to another link
of their route, and what of theirs is not acknowledged, all but some of the oldest requests, is sent again with its identifiers. -/
def Says.LinkFailResult : Prop :=
  ∀ (s : State) (k : Nat), s.journal = [] →
    (s.links[k]? ≠ some 1 → exec (.fabricLinkFail k) s = .next s) ∧
    (s.links[k]? = some 1 → ∃ t, exec (.fabricLinkFail k) s = .next t ∧ MemKept s t ∧ t.links[k]? = some 2 ∧
      (∀ j, j ≠ k → t.links[j]? = s.links[j]?) ∧ t.dev = { s.dev with fabdeg := true } ∧
      (∀ m ∈ s.fabricOut, m ∈ t.fabricOut) ∧
      ∀ (i : Nat) (x : Stream), s.streams[i]? = some x → (x.link ≠ k → t.streams[i]? = some x) ∧
        (x.link = k → t.routeMask x.peer ≠ 0 → ∃ y, t.streams[i]? = some y ∧ { y with link := x.link, unacked := x.unacked } = x ∧
          (t.routeMask x.peer).testBit y.link = true ∧ (∃ m, y.unacked = x.unacked.drop m) ∧
          ∀ n ∈ y.unacked, ({ kind := 10, args := [x.peer, s.chip, x.num, n.1] } : OutMsg) ∈ t.fabricOut))

/-- FABRIC_REQUEST_ARRIVE (06 R182, R184; 10 R283): a request applied before is acknowledged with the prior value recorded and not applied
again; the next one in order is applied and acknowledged; one that is early is held. -/
def Says.FabricRequestArriveResult : Prop :=
  ∀ (s : State) (r : FabReq) (w : Window), s.journal = [] → keyTier r.key < 2 → s.cbUse = [] →
    s.windows.find? (fun w => w.src == r.src && w.stream == r.stream) = some w →
    let ack := fun (v : Nat) => ({ kind := 8, args := [r.src, r.stream, r.seq, v] } : OutMsg)
    (∀ v, w.applied.find? r.seq = some v → ∃ t, exec (.fabricRequestArrive r) s = .next t ∧ { t with fabricOut := s.fabricOut } = s ∧
      t.fabricOut = s.fabricOut ++ [ack v]) ∧
    (w.applied.find? r.seq = none → w.heldReqs = [] → (r.seq + 2 ^ 32 - w.next) % 2 ^ 32 < 2 ^ 31 →
      (r.seq ≠ w.next → ∃ t w', exec (.fabricRequestArrive r) s = .next t ∧ { t with windows := s.windows } = s ∧
        t.windows.find? (fun w => w.src == r.src && w.stream == r.stream) = some w' ∧ w'.heldReqs = [r] ∧ w'.next = w.next) ∧
      (r.seq = w.next → w.next < 2 ^ 32 →
        (∀ bytes, r.op = .store bytes → PlainMem s r.key bytes.length (s.blockZb r.key) →
          ∃ t w', exec (.fabricRequestArrive r) s = .next t ∧ t.fabricOut = s.fabricOut ++ [ack 0] ∧
            t.windows.find? (fun w => w.src == r.src && w.stream == r.stream) = some w' ∧ w'.next = (w.next + 1) % 2 ^ 32 ∧
            w'.applied.find? r.seq = some 0 ∧
            ∀ k, t.peek k = if r.key ≤ k ∧ k < r.key + bytes.length then bytes.getD (k - r.key) 0 else s.peek k) ∧
        (∀ x y, r.op = .rmw .gath8 x y → PlainMem s r.key 128 (s.blockZb r.key) →
          let v := (s.spotGather (.mem r.key (s.blockZb r.key)) x).1
          ∃ t w', exec (.fabricRequestArrive r) s = .next t ∧ t.fabricOut = s.fabricOut ++ [ack v] ∧ (∀ k, t.peek k = s.peek k) ∧
            t.windows.find? (fun w => w.src == r.src && w.stream == r.stream) = some w' ∧ w'.next = (w.next + 1) % 2 ^ 32 ∧
            w'.applied.find? r.seq = some v) ∧
        (∀ h x y, r.op = .rmw h x y → h ≠ .gath8 → PlainMem s r.key (HomeFn.bytes h) (s.blockZb r.key) →
          let v := homeFn h (s.peekN r.key (HomeFn.bytes h)) x y
          ∃ t w', exec (.fabricRequestArrive r) s = .next t ∧ t.fabricOut = s.fabricOut ++ [ack v.2] ∧
            t.windows.find? (fun w => w.src == r.src && w.stream == r.stream) = some w' ∧ w'.next = (w.next + 1) % 2 ^ 32 ∧
            w'.applied.find? r.seq = some v.2 ∧
            ∀ k, t.peek k = if r.key ≤ k ∧ k < r.key + HomeFn.bytes h then BitVec.ofNat 8 (v.1 / 256 ^ (k - r.key)) else s.peek k)))

/-- CXL_LINK_DOWN and CXL_LINK_UP (10 R280): the port's state, and HEALTH while any is down; accesses to a range whose port is down meet
poison. -/
def Says.CxlLinkResult : Prop :=
  ∀ (s : State) (p : Nat), s.journal = [] → p < s.cxl.length →
    (∃ t : State, exec (.cxlLinkDown p) s = .next t ∧ { t with cxl := s.cxl, dev := s.dev } = s ∧ t.cxl[p]? = some false ∧
      (∀ q, q ≠ p → t.cxl[q]? = s.cxl[q]?) ∧ t.dev = { s.dev with cxldeg := true } ∧
      ∀ k n z, keyTier k = 1 → sliceOf k / 160 * 2 + k / 256 % 2 = p → (t.memRead k n z).2 = true) ∧
    ∃ t : State, exec (.cxlLinkUp p) s = .next t ∧ { t with cxl := s.cxl, dev := s.dev } = s ∧ t.cxl[p]? = some true ∧
      (∀ q, q ≠ p → t.cxl[q]? = s.cxl[q]?) ∧ (t.dev.cxldeg = true ↔ ∃ q : Nat, t.cxl[q]? = some false)

/-- PATROL_SCRUB and GDDR_CXL_CRC_RETRY (10 R290): an error that can be corrected is counted, modulo 2^16; one that cannot poisons its sector of
32 bytes, of memory, of scratchpad, of a gang's tiles or of a plane that holds it, or the 8 lanes of a gang's register line. No byte
changes. -/
def Says.ScrubResult : Prop :=
  ∀ (s : State) (sector : Nat), s.journal = [] →
    (sector / 2 ^ 55 ≠ 12 → sector / 2 ^ 55 ≠ 13 → ∃ t, exec (.patrolScrub sector true) s = .next t ∧ { t with poison := s.poison } = s ∧
      ∀ p, p ∈ t.poison ↔ p = sector ∨ p ∈ s.poison) ∧
    (∀ gid n k g, gid < 2 ^ 40 → n < 256 → k < 128 → s.gang? gid = some g → ∃ t g', exec (.patrolScrub (regSector gid n k) true) s = .next t ∧
      { t with gangs := s.gangs } = s ∧ t.gang? gid = some g' ∧ { g' with vbad := g.vbad } = g ∧
      (∀ j, j ≠ gid → t.gang? j = s.gang? j) ∧
      ∀ x, x ∈ g'.vbad ↔ x ∈ g.vbad ∨ ∃ l, l < 8 ∧ x = vKey n (8 * k + l)) ∧
    (∀ gid i g, gid < 2 ^ 40 → i < 9216 → s.gang? gid = some g →
      ∃ t g', exec (.patrolScrub (engSector gid i) true) s = .next t ∧ { t with gangs := s.gangs } = s ∧ t.gang? gid = some g' ∧
        (∀ j, j ≠ gid → t.gang? j = s.gang? j) ∧
        { g' with abad := g.abad, active := { g'.active with bad := g.active.bad }, shadow := { g'.shadow with bad := g.shadow.bad } } = g ∧
        (∀ x, x ∈ g'.abad ↔ x ∈ g.abad ∨ i < 8192 ∧ x = i) ∧
        (∀ x, x ∈ g'.active.bad ↔ x ∈ g.active.bad ∨ i = 8192 + x ∧ x < 512 ∧ 32 * x < g.active.data.length) ∧
        ∀ x, x ∈ g'.shadow.bad ↔ x ∈ g.shadow.bad ∨ i = 8704 + x ∧ 32 * x < g.shadow.data.length) ∧
    (∃ t, exec (.patrolScrub sector false) s = .next t ∧ { t with dev := s.dev } = s ∧
      t.dev = { s.dev with corr := (s.dev.corr + 1) % 2 ^ 16 }) ∧
    ∃ t, exec (.gddrCxlCrcRetry sector) s = .next t ∧ { t with dev := s.dev } = s ∧
      t.dev = { s.dev with corr := (s.dev.corr + 1) % 2 ^ 16 }

/-- FIRMWARE_MAILBOX_ACCESS (10 R296): the new image waits for the next cold reset; the image in use stays. -/
def Says.FirmwareMailboxResult : Prop :=
  ∀ (s : State) (image : List Byte), s.journal = [] →
    ∃ t, exec (.firmwareMailboxAccess image) s = .next t ∧ { t with flashNew := s.flashNew } = s ∧ t.flashNew = some image

/-- The events of register space, resets, power, the vertical bus, links and firmware. The model's choices: the blocks' reset values and
CLKSTEP (log entry 2), GDDR's bytes as 0 after a cold reset (log entry 3), the units of a lost register line, tile and plane (log entry 10),
what PRESET clears and that CHIPID survives a warm reset (log entry 42), the lines lost with L2 (log entry 43), the fields that software
writes (log entry 44), how many requests a failed link has to send again, and the kinds of the fabric's messages, 8 and 10 among them (log
entry 48), that the workgroups of a retired core stop at once (log entry 55), the window of 4,096 transfers (log entry 56), CORR's wrap and
the throttle's limits (log entry 57), a workgroup saved off a retired core (log entry 88). -/
def Obligations.DeviceEvents : Prop :=
  Says.QueueEnableResult ∧ Says.QueueDisableResult ∧ Says.ErrheadWriteResult ∧ Says.RegisterReadsBack ∧ Says.RegisterWriteWide ∧
  Says.RegisterWriteIgnored ∧ Says.KbudgetWriteResult ∧ Says.PinmaxWriteResult ∧ Says.HostBar2Result ∧ Says.WarmResetResult ∧
  Says.DevctlWarmResetResult ∧ Says.ColdResetResult ∧ Says.PresetResult ∧ Says.PowerThrottleResult ∧ Says.CanaryMeasureResult ∧
  Says.BusCrcReplayResult ∧ Says.RegionRetrainResult ∧ Says.RetrainForcedResult ∧ Says.UnitRetireResult ∧ Says.LinkRetrainResult ∧
  Says.LinkFailResult ∧ Says.FabricRequestArriveResult ∧ Says.CxlLinkResult ∧ Says.ScrubResult ∧ Says.FirmwareMailboxResult
end

