-- ==== Sys2Proof/Laws/State.lean ====
section
/-!
SUPPORT. What each update of one part of the state leaves: a lemma per field and update, so that no proof unfolds a record update.
-/
namespace Sys2Proof.Machine

/-! ### updGang -/

section
variable (s : State) (gid : Nat) (f : Gang → Gang)

@[simp] theorem State.cycle_updGang : (s.updGang gid f).cycle = s.cycle := rfl
@[simp] theorem State.mem_updGang : (s.updGang gid f).mem = s.mem := rfl
@[simp] theorem State.poison_updGang : (s.updGang gid f).poison = s.poison := rfl
@[simp] theorem State.zbBlocks_updGang : (s.updGang gid f).zbBlocks = s.zbBlocks := rfl
@[simp] theorem State.l1_updGang : (s.updGang gid f).l1 = s.l1 := rfl
@[simp] theorem State.icache_updGang : (s.updGang gid f).icache = s.icache := rfl
@[simp] theorem State.l2old_updGang : (s.updGang gid f).l2old = s.l2old := rfl
@[simp] theorem State.l2first_updGang : (s.updGang gid f).l2first = s.l2first := rfl
@[simp] theorem State.tlb_updGang : (s.updGang gid f).tlb = s.tlb := rfl
@[simp] theorem State.atc_updGang : (s.updGang gid f).atc = s.atc := rfl
@[simp] theorem State.flights_updGang : (s.updGang gid f).flights = s.flights := rfl
@[simp] theorem State.wgs_updGang : (s.updGang gid f).wgs = s.wgs := rfl
@[simp] theorem State.grids_updGang : (s.updGang gid f).grids = s.grids := rfl
@[simp] theorem State.entries_updGang : (s.updGang gid f).entries = s.entries := rfl
@[simp] theorem State.dps_updGang : (s.updGang gid f).dps = s.dps := rfl
@[simp] theorem State.dcs_updGang : (s.updGang gid f).dcs = s.dcs := rfl
@[simp] theorem State.pending_updGang : (s.updGang gid f).pending = s.pending := rfl
@[simp] theorem State.graphs_updGang : (s.updGang gid f).graphs = s.graphs := rfl
@[simp] theorem State.mcs_updGang : (s.updGang gid f).mcs = s.mcs := rfl
@[simp] theorem State.gens_updGang : (s.updGang gid f).gens = s.gens := rfl
@[simp] theorem State.images_updGang : (s.updGang gid f).images = s.images := rfl
@[simp] theorem State.swapped_updGang : (s.updGang gid f).swapped = s.swapped := rfl
@[simp] theorem State.lag_updGang : (s.updGang gid f).lag = s.lag := rfl
@[simp] theorem State.cbUse_updGang : (s.updGang gid f).cbUse = s.cbUse := rfl
@[simp] theorem State.shadows_updGang : (s.updGang gid f).shadows = s.shadows := rfl
@[simp] theorem State.hubs_updGang : (s.updGang gid f).hubs = s.hubs := rfl
@[simp] theorem State.atsInv_updGang : (s.updGang gid f).atsInv = s.atsInv := rfl
@[simp] theorem State.xfers_updGang : (s.updGang gid f).xfers = s.xfers := rfl
@[simp] theorem State.hostWrites_updGang : (s.updGang gid f).hostWrites = s.hostWrites := rfl
@[simp] theorem State.hostSeen_updGang : (s.updGang gid f).hostSeen = s.hostSeen := rfl
@[simp] theorem State.older_updGang : (s.updGang gid f).older = s.older := rfl
@[simp] theorem State.pri_updGang : (s.updGang gid f).pri = s.pri := rfl
@[simp] theorem State.priOff_updGang : (s.updGang gid f).priOff = s.priOff := rfl
@[simp] theorem State.queues_updGang : (s.updGang gid f).queues = s.queues := rfl
@[simp] theorem State.cbops_updGang : (s.updGang gid f).cbops = s.cbops := rfl
@[simp] theorem State.parts_updGang : (s.updGang gid f).parts = s.parts := rfl
@[simp] theorem State.dev_updGang : (s.updGang gid f).dev = s.dev := rfl
@[simp] theorem State.kbudget_updGang : (s.updGang gid f).kbudget = s.kbudget := rfl
@[simp] theorem State.kilns_updGang : (s.updGang gid f).kilns = s.kilns := rfl
@[simp] theorem State.routes_updGang : (s.updGang gid f).routes = s.routes := rfl
@[simp] theorem State.ctxs_updGang : (s.updGang gid f).ctxs = s.ctxs := rfl
@[simp] theorem State.cmdqs_updGang : (s.updGang gid f).cmdqs = s.cmdqs := rfl
@[simp] theorem State.lfHeld_updGang : (s.updGang gid f).lfHeld = s.lfHeld := rfl
@[simp] theorem State.tiles_updGang : (s.updGang gid f).tiles = s.tiles := rfl
@[simp] theorem State.latches_updGang : (s.updGang gid f).latches = s.latches := rfl
@[simp] theorem State.rast_updGang : (s.updGang gid f).rast = s.rast := rfl
@[simp] theorem State.seals_updGang : (s.updGang gid f).seals = s.seals := rfl
@[simp] theorem State.scans_updGang : (s.updGang gid f).scans = s.scans := rfl
@[simp] theorem State.bins_updGang : (s.updGang gid f).bins = s.bins := rfl
@[simp] theorem State.rays_updGang : (s.updGang gid f).rays = s.rays := rfl
@[simp] theorem State.passes_updGang : (s.updGang gid f).passes = s.passes := rfl
@[simp] theorem State.pins_updGang : (s.updGang gid f).pins = s.pins := rfl
@[simp] theorem State.pinWait_updGang : (s.updGang gid f).pinWait = s.pinWait := rfl
@[simp] theorem State.cores_updGang : (s.updGang gid f).cores = s.cores := rfl
@[simp] theorem State.slices_updGang : (s.updGang gid f).slices = s.slices := rfl
@[simp] theorem State.retiredCores_updGang : (s.updGang gid f).retiredCores = s.retiredCores := rfl
@[simp] theorem State.retiredSlices_updGang : (s.updGang gid f).retiredSlices = s.retiredSlices := rfl
@[simp] theorem State.links_updGang : (s.updGang gid f).links = s.links := rfl
@[simp] theorem State.windows_updGang : (s.updGang gid f).windows = s.windows := rfl
@[simp] theorem State.streams_updGang : (s.updGang gid f).streams = s.streams := rfl
@[simp] theorem State.cxl_updGang : (s.updGang gid f).cxl = s.cxl := rfl
@[simp] theorem State.regions_updGang : (s.updGang gid f).regions = s.regions := rfl
@[simp] theorem State.repair_updGang : (s.updGang gid f).repair = s.repair := rfl
@[simp] theorem State.soft_updGang : (s.updGang gid f).soft = s.soft := rfl
@[simp] theorem State.flash_updGang : (s.updGang gid f).flash = s.flash := rfl
@[simp] theorem State.flashOk_updGang : (s.updGang gid f).flashOk = s.flashOk := rfl
@[simp] theorem State.flashNew_updGang : (s.updGang gid f).flashNew = s.flashNew := rfl
@[simp] theorem State.hostOut_updGang : (s.updGang gid f).hostOut = s.hostOut := rfl
@[simp] theorem State.fabricOut_updGang : (s.updGang gid f).fabricOut = s.fabricOut := rfl
@[simp] theorem State.issue_updGang : (s.updGang gid f).issue = s.issue := rfl
@[simp] theorem State.latch_updGang : (s.updGang gid f).latch = s.latch := rfl
@[simp] theorem State.agenda_updGang : (s.updGang gid f).agenda = s.agenda := rfl
@[simp] theorem State.round_updGang : (s.updGang gid f).round = s.round := rfl
@[simp] theorem State.journal_updGang : (s.updGang gid f).journal = s.journal := rfl
@[simp] theorem State.fresh_updGang : (s.updGang gid f).fresh = s.fresh := rfl
@[simp] theorem State.nextId_updGang : (s.updGang gid f).nextId = s.nextId := rfl
@[simp] theorem State.gangs_updGang : (s.updGang gid f).gangs = s.gangs.upd f gid := rfl

end

/-! ### updFrag -/

section
variable (s : State) (gid fid : Nat) (f : Frag → Frag)

@[simp] theorem State.cycle_updFrag : (s.updFrag gid fid f).cycle = s.cycle := rfl
@[simp] theorem State.mem_updFrag : (s.updFrag gid fid f).mem = s.mem := rfl
@[simp] theorem State.poison_updFrag : (s.updFrag gid fid f).poison = s.poison := rfl
@[simp] theorem State.zbBlocks_updFrag : (s.updFrag gid fid f).zbBlocks = s.zbBlocks := rfl
@[simp] theorem State.l1_updFrag : (s.updFrag gid fid f).l1 = s.l1 := rfl
@[simp] theorem State.icache_updFrag : (s.updFrag gid fid f).icache = s.icache := rfl
@[simp] theorem State.l2old_updFrag : (s.updFrag gid fid f).l2old = s.l2old := rfl
@[simp] theorem State.l2first_updFrag : (s.updFrag gid fid f).l2first = s.l2first := rfl
@[simp] theorem State.tlb_updFrag : (s.updFrag gid fid f).tlb = s.tlb := rfl
@[simp] theorem State.atc_updFrag : (s.updFrag gid fid f).atc = s.atc := rfl
@[simp] theorem State.flights_updFrag : (s.updFrag gid fid f).flights = s.flights := rfl
@[simp] theorem State.wgs_updFrag : (s.updFrag gid fid f).wgs = s.wgs := rfl
@[simp] theorem State.grids_updFrag : (s.updFrag gid fid f).grids = s.grids := rfl
@[simp] theorem State.entries_updFrag : (s.updFrag gid fid f).entries = s.entries := rfl
@[simp] theorem State.dps_updFrag : (s.updFrag gid fid f).dps = s.dps := rfl
@[simp] theorem State.dcs_updFrag : (s.updFrag gid fid f).dcs = s.dcs := rfl
@[simp] theorem State.pending_updFrag : (s.updFrag gid fid f).pending = s.pending := rfl
@[simp] theorem State.graphs_updFrag : (s.updFrag gid fid f).graphs = s.graphs := rfl
@[simp] theorem State.mcs_updFrag : (s.updFrag gid fid f).mcs = s.mcs := rfl
@[simp] theorem State.gens_updFrag : (s.updFrag gid fid f).gens = s.gens := rfl
@[simp] theorem State.images_updFrag : (s.updFrag gid fid f).images = s.images := rfl
@[simp] theorem State.swapped_updFrag : (s.updFrag gid fid f).swapped = s.swapped := rfl
@[simp] theorem State.lag_updFrag : (s.updFrag gid fid f).lag = s.lag := rfl
@[simp] theorem State.cbUse_updFrag : (s.updFrag gid fid f).cbUse = s.cbUse := rfl
@[simp] theorem State.shadows_updFrag : (s.updFrag gid fid f).shadows = s.shadows := rfl
@[simp] theorem State.hubs_updFrag : (s.updFrag gid fid f).hubs = s.hubs := rfl
@[simp] theorem State.atsInv_updFrag : (s.updFrag gid fid f).atsInv = s.atsInv := rfl
@[simp] theorem State.xfers_updFrag : (s.updFrag gid fid f).xfers = s.xfers := rfl
@[simp] theorem State.hostWrites_updFrag : (s.updFrag gid fid f).hostWrites = s.hostWrites := rfl
@[simp] theorem State.hostSeen_updFrag : (s.updFrag gid fid f).hostSeen = s.hostSeen := rfl
@[simp] theorem State.older_updFrag : (s.updFrag gid fid f).older = s.older := rfl
@[simp] theorem State.pri_updFrag : (s.updFrag gid fid f).pri = s.pri := rfl
@[simp] theorem State.priOff_updFrag : (s.updFrag gid fid f).priOff = s.priOff := rfl
@[simp] theorem State.queues_updFrag : (s.updFrag gid fid f).queues = s.queues := rfl
@[simp] theorem State.cbops_updFrag : (s.updFrag gid fid f).cbops = s.cbops := rfl
@[simp] theorem State.parts_updFrag : (s.updFrag gid fid f).parts = s.parts := rfl
@[simp] theorem State.dev_updFrag : (s.updFrag gid fid f).dev = s.dev := rfl
@[simp] theorem State.kbudget_updFrag : (s.updFrag gid fid f).kbudget = s.kbudget := rfl
@[simp] theorem State.kilns_updFrag : (s.updFrag gid fid f).kilns = s.kilns := rfl
@[simp] theorem State.routes_updFrag : (s.updFrag gid fid f).routes = s.routes := rfl
@[simp] theorem State.ctxs_updFrag : (s.updFrag gid fid f).ctxs = s.ctxs := rfl
@[simp] theorem State.cmdqs_updFrag : (s.updFrag gid fid f).cmdqs = s.cmdqs := rfl
@[simp] theorem State.lfHeld_updFrag : (s.updFrag gid fid f).lfHeld = s.lfHeld := rfl
@[simp] theorem State.tiles_updFrag : (s.updFrag gid fid f).tiles = s.tiles := rfl
@[simp] theorem State.latches_updFrag : (s.updFrag gid fid f).latches = s.latches := rfl
@[simp] theorem State.rast_updFrag : (s.updFrag gid fid f).rast = s.rast := rfl
@[simp] theorem State.seals_updFrag : (s.updFrag gid fid f).seals = s.seals := rfl
@[simp] theorem State.scans_updFrag : (s.updFrag gid fid f).scans = s.scans := rfl
@[simp] theorem State.bins_updFrag : (s.updFrag gid fid f).bins = s.bins := rfl
@[simp] theorem State.rays_updFrag : (s.updFrag gid fid f).rays = s.rays := rfl
@[simp] theorem State.passes_updFrag : (s.updFrag gid fid f).passes = s.passes := rfl
@[simp] theorem State.pins_updFrag : (s.updFrag gid fid f).pins = s.pins := rfl
@[simp] theorem State.pinWait_updFrag : (s.updFrag gid fid f).pinWait = s.pinWait := rfl
@[simp] theorem State.cores_updFrag : (s.updFrag gid fid f).cores = s.cores := rfl
@[simp] theorem State.slices_updFrag : (s.updFrag gid fid f).slices = s.slices := rfl
@[simp] theorem State.retiredCores_updFrag : (s.updFrag gid fid f).retiredCores = s.retiredCores := rfl
@[simp] theorem State.retiredSlices_updFrag : (s.updFrag gid fid f).retiredSlices = s.retiredSlices := rfl
@[simp] theorem State.links_updFrag : (s.updFrag gid fid f).links = s.links := rfl
@[simp] theorem State.windows_updFrag : (s.updFrag gid fid f).windows = s.windows := rfl
@[simp] theorem State.streams_updFrag : (s.updFrag gid fid f).streams = s.streams := rfl
@[simp] theorem State.cxl_updFrag : (s.updFrag gid fid f).cxl = s.cxl := rfl
@[simp] theorem State.regions_updFrag : (s.updFrag gid fid f).regions = s.regions := rfl
@[simp] theorem State.repair_updFrag : (s.updFrag gid fid f).repair = s.repair := rfl
@[simp] theorem State.soft_updFrag : (s.updFrag gid fid f).soft = s.soft := rfl
@[simp] theorem State.flash_updFrag : (s.updFrag gid fid f).flash = s.flash := rfl
@[simp] theorem State.flashOk_updFrag : (s.updFrag gid fid f).flashOk = s.flashOk := rfl
@[simp] theorem State.flashNew_updFrag : (s.updFrag gid fid f).flashNew = s.flashNew := rfl
@[simp] theorem State.hostOut_updFrag : (s.updFrag gid fid f).hostOut = s.hostOut := rfl
@[simp] theorem State.fabricOut_updFrag : (s.updFrag gid fid f).fabricOut = s.fabricOut := rfl
@[simp] theorem State.issue_updFrag : (s.updFrag gid fid f).issue = s.issue := rfl
@[simp] theorem State.latch_updFrag : (s.updFrag gid fid f).latch = s.latch := rfl
@[simp] theorem State.agenda_updFrag : (s.updFrag gid fid f).agenda = s.agenda := rfl
@[simp] theorem State.round_updFrag : (s.updFrag gid fid f).round = s.round := rfl
@[simp] theorem State.journal_updFrag : (s.updFrag gid fid f).journal = s.journal := rfl
@[simp] theorem State.fresh_updFrag : (s.updFrag gid fid f).fresh = s.fresh := rfl
@[simp] theorem State.nextId_updFrag : (s.updFrag gid fid f).nextId = s.nextId := rfl
@[simp] theorem State.gangs_updFrag : (s.updFrag gid fid f).gangs = s.gangs.upd (fun g => { g with frags := g.frags.upd f fid }) gid := rfl

end

/-! ### updWg -/

section
variable (s : State) (wid : Nat) (f : Wg → Wg)

@[simp] theorem State.cycle_updWg : (s.updWg wid f).cycle = s.cycle := rfl
@[simp] theorem State.mem_updWg : (s.updWg wid f).mem = s.mem := rfl
@[simp] theorem State.poison_updWg : (s.updWg wid f).poison = s.poison := rfl
@[simp] theorem State.zbBlocks_updWg : (s.updWg wid f).zbBlocks = s.zbBlocks := rfl
@[simp] theorem State.l1_updWg : (s.updWg wid f).l1 = s.l1 := rfl
@[simp] theorem State.icache_updWg : (s.updWg wid f).icache = s.icache := rfl
@[simp] theorem State.l2old_updWg : (s.updWg wid f).l2old = s.l2old := rfl
@[simp] theorem State.l2first_updWg : (s.updWg wid f).l2first = s.l2first := rfl
@[simp] theorem State.tlb_updWg : (s.updWg wid f).tlb = s.tlb := rfl
@[simp] theorem State.atc_updWg : (s.updWg wid f).atc = s.atc := rfl
@[simp] theorem State.flights_updWg : (s.updWg wid f).flights = s.flights := rfl
@[simp] theorem State.gangs_updWg : (s.updWg wid f).gangs = s.gangs := rfl
@[simp] theorem State.grids_updWg : (s.updWg wid f).grids = s.grids := rfl
@[simp] theorem State.entries_updWg : (s.updWg wid f).entries = s.entries := rfl
@[simp] theorem State.dps_updWg : (s.updWg wid f).dps = s.dps := rfl
@[simp] theorem State.dcs_updWg : (s.updWg wid f).dcs = s.dcs := rfl
@[simp] theorem State.pending_updWg : (s.updWg wid f).pending = s.pending := rfl
@[simp] theorem State.graphs_updWg : (s.updWg wid f).graphs = s.graphs := rfl
@[simp] theorem State.mcs_updWg : (s.updWg wid f).mcs = s.mcs := rfl
@[simp] theorem State.gens_updWg : (s.updWg wid f).gens = s.gens := rfl
@[simp] theorem State.images_updWg : (s.updWg wid f).images = s.images := rfl
@[simp] theorem State.swapped_updWg : (s.updWg wid f).swapped = s.swapped := rfl
@[simp] theorem State.lag_updWg : (s.updWg wid f).lag = s.lag := rfl
@[simp] theorem State.cbUse_updWg : (s.updWg wid f).cbUse = s.cbUse := rfl
@[simp] theorem State.shadows_updWg : (s.updWg wid f).shadows = s.shadows := rfl
@[simp] theorem State.hubs_updWg : (s.updWg wid f).hubs = s.hubs := rfl
@[simp] theorem State.atsInv_updWg : (s.updWg wid f).atsInv = s.atsInv := rfl
@[simp] theorem State.xfers_updWg : (s.updWg wid f).xfers = s.xfers := rfl
@[simp] theorem State.hostWrites_updWg : (s.updWg wid f).hostWrites = s.hostWrites := rfl
@[simp] theorem State.hostSeen_updWg : (s.updWg wid f).hostSeen = s.hostSeen := rfl
@[simp] theorem State.older_updWg : (s.updWg wid f).older = s.older := rfl
@[simp] theorem State.pri_updWg : (s.updWg wid f).pri = s.pri := rfl
@[simp] theorem State.priOff_updWg : (s.updWg wid f).priOff = s.priOff := rfl
@[simp] theorem State.queues_updWg : (s.updWg wid f).queues = s.queues := rfl
@[simp] theorem State.cbops_updWg : (s.updWg wid f).cbops = s.cbops := rfl
@[simp] theorem State.parts_updWg : (s.updWg wid f).parts = s.parts := rfl
@[simp] theorem State.dev_updWg : (s.updWg wid f).dev = s.dev := rfl
@[simp] theorem State.kbudget_updWg : (s.updWg wid f).kbudget = s.kbudget := rfl
@[simp] theorem State.kilns_updWg : (s.updWg wid f).kilns = s.kilns := rfl
@[simp] theorem State.routes_updWg : (s.updWg wid f).routes = s.routes := rfl
@[simp] theorem State.ctxs_updWg : (s.updWg wid f).ctxs = s.ctxs := rfl
@[simp] theorem State.cmdqs_updWg : (s.updWg wid f).cmdqs = s.cmdqs := rfl
@[simp] theorem State.lfHeld_updWg : (s.updWg wid f).lfHeld = s.lfHeld := rfl
@[simp] theorem State.tiles_updWg : (s.updWg wid f).tiles = s.tiles := rfl
@[simp] theorem State.latches_updWg : (s.updWg wid f).latches = s.latches := rfl
@[simp] theorem State.rast_updWg : (s.updWg wid f).rast = s.rast := rfl
@[simp] theorem State.seals_updWg : (s.updWg wid f).seals = s.seals := rfl
@[simp] theorem State.scans_updWg : (s.updWg wid f).scans = s.scans := rfl
@[simp] theorem State.bins_updWg : (s.updWg wid f).bins = s.bins := rfl
@[simp] theorem State.rays_updWg : (s.updWg wid f).rays = s.rays := rfl
@[simp] theorem State.passes_updWg : (s.updWg wid f).passes = s.passes := rfl
@[simp] theorem State.pins_updWg : (s.updWg wid f).pins = s.pins := rfl
@[simp] theorem State.pinWait_updWg : (s.updWg wid f).pinWait = s.pinWait := rfl
@[simp] theorem State.cores_updWg : (s.updWg wid f).cores = s.cores := rfl
@[simp] theorem State.slices_updWg : (s.updWg wid f).slices = s.slices := rfl
@[simp] theorem State.retiredCores_updWg : (s.updWg wid f).retiredCores = s.retiredCores := rfl
@[simp] theorem State.retiredSlices_updWg : (s.updWg wid f).retiredSlices = s.retiredSlices := rfl
@[simp] theorem State.links_updWg : (s.updWg wid f).links = s.links := rfl
@[simp] theorem State.windows_updWg : (s.updWg wid f).windows = s.windows := rfl
@[simp] theorem State.streams_updWg : (s.updWg wid f).streams = s.streams := rfl
@[simp] theorem State.cxl_updWg : (s.updWg wid f).cxl = s.cxl := rfl
@[simp] theorem State.regions_updWg : (s.updWg wid f).regions = s.regions := rfl
@[simp] theorem State.repair_updWg : (s.updWg wid f).repair = s.repair := rfl
@[simp] theorem State.soft_updWg : (s.updWg wid f).soft = s.soft := rfl
@[simp] theorem State.flash_updWg : (s.updWg wid f).flash = s.flash := rfl
@[simp] theorem State.flashOk_updWg : (s.updWg wid f).flashOk = s.flashOk := rfl
@[simp] theorem State.flashNew_updWg : (s.updWg wid f).flashNew = s.flashNew := rfl
@[simp] theorem State.hostOut_updWg : (s.updWg wid f).hostOut = s.hostOut := rfl
@[simp] theorem State.fabricOut_updWg : (s.updWg wid f).fabricOut = s.fabricOut := rfl
@[simp] theorem State.issue_updWg : (s.updWg wid f).issue = s.issue := rfl
@[simp] theorem State.latch_updWg : (s.updWg wid f).latch = s.latch := rfl
@[simp] theorem State.agenda_updWg : (s.updWg wid f).agenda = s.agenda := rfl
@[simp] theorem State.round_updWg : (s.updWg wid f).round = s.round := rfl
@[simp] theorem State.journal_updWg : (s.updWg wid f).journal = s.journal := rfl
@[simp] theorem State.fresh_updWg : (s.updWg wid f).fresh = s.fresh := rfl
@[simp] theorem State.nextId_updWg : (s.updWg wid f).nextId = s.nextId := rfl
@[simp] theorem State.wgs_updWg : (s.updWg wid f).wgs = s.wgs.upd f wid := rfl

end

/-! ### updGrid -/

section
variable (s : State) (grid : Nat) (f : Grid → Grid)

@[simp] theorem State.cycle_updGrid : (s.updGrid grid f).cycle = s.cycle := rfl
@[simp] theorem State.mem_updGrid : (s.updGrid grid f).mem = s.mem := rfl
@[simp] theorem State.poison_updGrid : (s.updGrid grid f).poison = s.poison := rfl
@[simp] theorem State.zbBlocks_updGrid : (s.updGrid grid f).zbBlocks = s.zbBlocks := rfl
@[simp] theorem State.l1_updGrid : (s.updGrid grid f).l1 = s.l1 := rfl
@[simp] theorem State.icache_updGrid : (s.updGrid grid f).icache = s.icache := rfl
@[simp] theorem State.l2old_updGrid : (s.updGrid grid f).l2old = s.l2old := rfl
@[simp] theorem State.l2first_updGrid : (s.updGrid grid f).l2first = s.l2first := rfl
@[simp] theorem State.tlb_updGrid : (s.updGrid grid f).tlb = s.tlb := rfl
@[simp] theorem State.atc_updGrid : (s.updGrid grid f).atc = s.atc := rfl
@[simp] theorem State.flights_updGrid : (s.updGrid grid f).flights = s.flights := rfl
@[simp] theorem State.gangs_updGrid : (s.updGrid grid f).gangs = s.gangs := rfl
@[simp] theorem State.wgs_updGrid : (s.updGrid grid f).wgs = s.wgs := rfl
@[simp] theorem State.entries_updGrid : (s.updGrid grid f).entries = s.entries := rfl
@[simp] theorem State.dps_updGrid : (s.updGrid grid f).dps = s.dps := rfl
@[simp] theorem State.dcs_updGrid : (s.updGrid grid f).dcs = s.dcs := rfl
@[simp] theorem State.pending_updGrid : (s.updGrid grid f).pending = s.pending := rfl
@[simp] theorem State.graphs_updGrid : (s.updGrid grid f).graphs = s.graphs := rfl
@[simp] theorem State.mcs_updGrid : (s.updGrid grid f).mcs = s.mcs := rfl
@[simp] theorem State.gens_updGrid : (s.updGrid grid f).gens = s.gens := rfl
@[simp] theorem State.images_updGrid : (s.updGrid grid f).images = s.images := rfl
@[simp] theorem State.swapped_updGrid : (s.updGrid grid f).swapped = s.swapped := rfl
@[simp] theorem State.lag_updGrid : (s.updGrid grid f).lag = s.lag := rfl
@[simp] theorem State.cbUse_updGrid : (s.updGrid grid f).cbUse = s.cbUse := rfl
@[simp] theorem State.shadows_updGrid : (s.updGrid grid f).shadows = s.shadows := rfl
@[simp] theorem State.hubs_updGrid : (s.updGrid grid f).hubs = s.hubs := rfl
@[simp] theorem State.atsInv_updGrid : (s.updGrid grid f).atsInv = s.atsInv := rfl
@[simp] theorem State.xfers_updGrid : (s.updGrid grid f).xfers = s.xfers := rfl
@[simp] theorem State.hostWrites_updGrid : (s.updGrid grid f).hostWrites = s.hostWrites := rfl
@[simp] theorem State.hostSeen_updGrid : (s.updGrid grid f).hostSeen = s.hostSeen := rfl
@[simp] theorem State.older_updGrid : (s.updGrid grid f).older = s.older := rfl
@[simp] theorem State.pri_updGrid : (s.updGrid grid f).pri = s.pri := rfl
@[simp] theorem State.priOff_updGrid : (s.updGrid grid f).priOff = s.priOff := rfl
@[simp] theorem State.queues_updGrid : (s.updGrid grid f).queues = s.queues := rfl
@[simp] theorem State.cbops_updGrid : (s.updGrid grid f).cbops = s.cbops := rfl
@[simp] theorem State.parts_updGrid : (s.updGrid grid f).parts = s.parts := rfl
@[simp] theorem State.dev_updGrid : (s.updGrid grid f).dev = s.dev := rfl
@[simp] theorem State.kbudget_updGrid : (s.updGrid grid f).kbudget = s.kbudget := rfl
@[simp] theorem State.kilns_updGrid : (s.updGrid grid f).kilns = s.kilns := rfl
@[simp] theorem State.routes_updGrid : (s.updGrid grid f).routes = s.routes := rfl
@[simp] theorem State.ctxs_updGrid : (s.updGrid grid f).ctxs = s.ctxs := rfl
@[simp] theorem State.cmdqs_updGrid : (s.updGrid grid f).cmdqs = s.cmdqs := rfl
@[simp] theorem State.lfHeld_updGrid : (s.updGrid grid f).lfHeld = s.lfHeld := rfl
@[simp] theorem State.tiles_updGrid : (s.updGrid grid f).tiles = s.tiles := rfl
@[simp] theorem State.latches_updGrid : (s.updGrid grid f).latches = s.latches := rfl
@[simp] theorem State.rast_updGrid : (s.updGrid grid f).rast = s.rast := rfl
@[simp] theorem State.seals_updGrid : (s.updGrid grid f).seals = s.seals := rfl
@[simp] theorem State.scans_updGrid : (s.updGrid grid f).scans = s.scans := rfl
@[simp] theorem State.bins_updGrid : (s.updGrid grid f).bins = s.bins := rfl
@[simp] theorem State.rays_updGrid : (s.updGrid grid f).rays = s.rays := rfl
@[simp] theorem State.passes_updGrid : (s.updGrid grid f).passes = s.passes := rfl
@[simp] theorem State.pins_updGrid : (s.updGrid grid f).pins = s.pins := rfl
@[simp] theorem State.pinWait_updGrid : (s.updGrid grid f).pinWait = s.pinWait := rfl
@[simp] theorem State.cores_updGrid : (s.updGrid grid f).cores = s.cores := rfl
@[simp] theorem State.slices_updGrid : (s.updGrid grid f).slices = s.slices := rfl
@[simp] theorem State.retiredCores_updGrid : (s.updGrid grid f).retiredCores = s.retiredCores := rfl
@[simp] theorem State.retiredSlices_updGrid : (s.updGrid grid f).retiredSlices = s.retiredSlices := rfl
@[simp] theorem State.links_updGrid : (s.updGrid grid f).links = s.links := rfl
@[simp] theorem State.windows_updGrid : (s.updGrid grid f).windows = s.windows := rfl
@[simp] theorem State.streams_updGrid : (s.updGrid grid f).streams = s.streams := rfl
@[simp] theorem State.cxl_updGrid : (s.updGrid grid f).cxl = s.cxl := rfl
@[simp] theorem State.regions_updGrid : (s.updGrid grid f).regions = s.regions := rfl
@[simp] theorem State.repair_updGrid : (s.updGrid grid f).repair = s.repair := rfl
@[simp] theorem State.soft_updGrid : (s.updGrid grid f).soft = s.soft := rfl
@[simp] theorem State.flash_updGrid : (s.updGrid grid f).flash = s.flash := rfl
@[simp] theorem State.flashOk_updGrid : (s.updGrid grid f).flashOk = s.flashOk := rfl
@[simp] theorem State.flashNew_updGrid : (s.updGrid grid f).flashNew = s.flashNew := rfl
@[simp] theorem State.hostOut_updGrid : (s.updGrid grid f).hostOut = s.hostOut := rfl
@[simp] theorem State.fabricOut_updGrid : (s.updGrid grid f).fabricOut = s.fabricOut := rfl
@[simp] theorem State.issue_updGrid : (s.updGrid grid f).issue = s.issue := rfl
@[simp] theorem State.latch_updGrid : (s.updGrid grid f).latch = s.latch := rfl
@[simp] theorem State.agenda_updGrid : (s.updGrid grid f).agenda = s.agenda := rfl
@[simp] theorem State.round_updGrid : (s.updGrid grid f).round = s.round := rfl
@[simp] theorem State.journal_updGrid : (s.updGrid grid f).journal = s.journal := rfl
@[simp] theorem State.fresh_updGrid : (s.updGrid grid f).fresh = s.fresh := rfl
@[simp] theorem State.nextId_updGrid : (s.updGrid grid f).nextId = s.nextId := rfl
@[simp] theorem State.grids_updGrid : (s.updGrid grid f).grids = s.grids.upd f grid := rfl

end

/-! ### updCtx -/

section
variable (s : State) (n : Nat) (f : Ctx → Ctx)

@[simp] theorem State.cycle_updCtx : (s.updCtx n f).cycle = s.cycle := rfl
@[simp] theorem State.mem_updCtx : (s.updCtx n f).mem = s.mem := rfl
@[simp] theorem State.poison_updCtx : (s.updCtx n f).poison = s.poison := rfl
@[simp] theorem State.zbBlocks_updCtx : (s.updCtx n f).zbBlocks = s.zbBlocks := rfl
@[simp] theorem State.l1_updCtx : (s.updCtx n f).l1 = s.l1 := rfl
@[simp] theorem State.icache_updCtx : (s.updCtx n f).icache = s.icache := rfl
@[simp] theorem State.l2old_updCtx : (s.updCtx n f).l2old = s.l2old := rfl
@[simp] theorem State.l2first_updCtx : (s.updCtx n f).l2first = s.l2first := rfl
@[simp] theorem State.tlb_updCtx : (s.updCtx n f).tlb = s.tlb := rfl
@[simp] theorem State.atc_updCtx : (s.updCtx n f).atc = s.atc := rfl
@[simp] theorem State.flights_updCtx : (s.updCtx n f).flights = s.flights := rfl
@[simp] theorem State.gangs_updCtx : (s.updCtx n f).gangs = s.gangs := rfl
@[simp] theorem State.wgs_updCtx : (s.updCtx n f).wgs = s.wgs := rfl
@[simp] theorem State.grids_updCtx : (s.updCtx n f).grids = s.grids := rfl
@[simp] theorem State.entries_updCtx : (s.updCtx n f).entries = s.entries := rfl
@[simp] theorem State.dps_updCtx : (s.updCtx n f).dps = s.dps := rfl
@[simp] theorem State.dcs_updCtx : (s.updCtx n f).dcs = s.dcs := rfl
@[simp] theorem State.pending_updCtx : (s.updCtx n f).pending = s.pending := rfl
@[simp] theorem State.graphs_updCtx : (s.updCtx n f).graphs = s.graphs := rfl
@[simp] theorem State.mcs_updCtx : (s.updCtx n f).mcs = s.mcs := rfl
@[simp] theorem State.gens_updCtx : (s.updCtx n f).gens = s.gens := rfl
@[simp] theorem State.images_updCtx : (s.updCtx n f).images = s.images := rfl
@[simp] theorem State.swapped_updCtx : (s.updCtx n f).swapped = s.swapped := rfl
@[simp] theorem State.lag_updCtx : (s.updCtx n f).lag = s.lag := rfl
@[simp] theorem State.cbUse_updCtx : (s.updCtx n f).cbUse = s.cbUse := rfl
@[simp] theorem State.shadows_updCtx : (s.updCtx n f).shadows = s.shadows := rfl
@[simp] theorem State.hubs_updCtx : (s.updCtx n f).hubs = s.hubs := rfl
@[simp] theorem State.atsInv_updCtx : (s.updCtx n f).atsInv = s.atsInv := rfl
@[simp] theorem State.xfers_updCtx : (s.updCtx n f).xfers = s.xfers := rfl
@[simp] theorem State.hostWrites_updCtx : (s.updCtx n f).hostWrites = s.hostWrites := rfl
@[simp] theorem State.hostSeen_updCtx : (s.updCtx n f).hostSeen = s.hostSeen := rfl
@[simp] theorem State.older_updCtx : (s.updCtx n f).older = s.older := rfl
@[simp] theorem State.pri_updCtx : (s.updCtx n f).pri = s.pri := rfl
@[simp] theorem State.priOff_updCtx : (s.updCtx n f).priOff = s.priOff := rfl
@[simp] theorem State.queues_updCtx : (s.updCtx n f).queues = s.queues := rfl
@[simp] theorem State.cbops_updCtx : (s.updCtx n f).cbops = s.cbops := rfl
@[simp] theorem State.parts_updCtx : (s.updCtx n f).parts = s.parts := rfl
@[simp] theorem State.dev_updCtx : (s.updCtx n f).dev = s.dev := rfl
@[simp] theorem State.kbudget_updCtx : (s.updCtx n f).kbudget = s.kbudget := rfl
@[simp] theorem State.kilns_updCtx : (s.updCtx n f).kilns = s.kilns := rfl
@[simp] theorem State.routes_updCtx : (s.updCtx n f).routes = s.routes := rfl
@[simp] theorem State.cmdqs_updCtx : (s.updCtx n f).cmdqs = s.cmdqs := rfl
@[simp] theorem State.lfHeld_updCtx : (s.updCtx n f).lfHeld = s.lfHeld := rfl
@[simp] theorem State.tiles_updCtx : (s.updCtx n f).tiles = s.tiles := rfl
@[simp] theorem State.latches_updCtx : (s.updCtx n f).latches = s.latches := rfl
@[simp] theorem State.rast_updCtx : (s.updCtx n f).rast = s.rast := rfl
@[simp] theorem State.seals_updCtx : (s.updCtx n f).seals = s.seals := rfl
@[simp] theorem State.scans_updCtx : (s.updCtx n f).scans = s.scans := rfl
@[simp] theorem State.bins_updCtx : (s.updCtx n f).bins = s.bins := rfl
@[simp] theorem State.rays_updCtx : (s.updCtx n f).rays = s.rays := rfl
@[simp] theorem State.passes_updCtx : (s.updCtx n f).passes = s.passes := rfl
@[simp] theorem State.pins_updCtx : (s.updCtx n f).pins = s.pins := rfl
@[simp] theorem State.pinWait_updCtx : (s.updCtx n f).pinWait = s.pinWait := rfl
@[simp] theorem State.cores_updCtx : (s.updCtx n f).cores = s.cores := rfl
@[simp] theorem State.slices_updCtx : (s.updCtx n f).slices = s.slices := rfl
@[simp] theorem State.retiredCores_updCtx : (s.updCtx n f).retiredCores = s.retiredCores := rfl
@[simp] theorem State.retiredSlices_updCtx : (s.updCtx n f).retiredSlices = s.retiredSlices := rfl
@[simp] theorem State.links_updCtx : (s.updCtx n f).links = s.links := rfl
@[simp] theorem State.windows_updCtx : (s.updCtx n f).windows = s.windows := rfl
@[simp] theorem State.streams_updCtx : (s.updCtx n f).streams = s.streams := rfl
@[simp] theorem State.cxl_updCtx : (s.updCtx n f).cxl = s.cxl := rfl
@[simp] theorem State.regions_updCtx : (s.updCtx n f).regions = s.regions := rfl
@[simp] theorem State.repair_updCtx : (s.updCtx n f).repair = s.repair := rfl
@[simp] theorem State.soft_updCtx : (s.updCtx n f).soft = s.soft := rfl
@[simp] theorem State.flash_updCtx : (s.updCtx n f).flash = s.flash := rfl
@[simp] theorem State.flashOk_updCtx : (s.updCtx n f).flashOk = s.flashOk := rfl
@[simp] theorem State.flashNew_updCtx : (s.updCtx n f).flashNew = s.flashNew := rfl
@[simp] theorem State.hostOut_updCtx : (s.updCtx n f).hostOut = s.hostOut := rfl
@[simp] theorem State.fabricOut_updCtx : (s.updCtx n f).fabricOut = s.fabricOut := rfl
@[simp] theorem State.issue_updCtx : (s.updCtx n f).issue = s.issue := rfl
@[simp] theorem State.latch_updCtx : (s.updCtx n f).latch = s.latch := rfl
@[simp] theorem State.agenda_updCtx : (s.updCtx n f).agenda = s.agenda := rfl
@[simp] theorem State.round_updCtx : (s.updCtx n f).round = s.round := rfl
@[simp] theorem State.journal_updCtx : (s.updCtx n f).journal = s.journal := rfl
@[simp] theorem State.fresh_updCtx : (s.updCtx n f).fresh = s.fresh := rfl
@[simp] theorem State.nextId_updCtx : (s.updCtx n f).nextId = s.nextId := rfl
@[simp] theorem State.ctxs_updCtx : (s.updCtx n f).ctxs = Tab.set Ctx.free s.ctxs n (f (s.ctx n)) := rfl

end

/-! ### updPart -/

section
variable (s : State) (n : Nat) (f : PartBlk → PartBlk)

@[simp] theorem State.cycle_updPart : (s.updPart n f).cycle = s.cycle := rfl
@[simp] theorem State.mem_updPart : (s.updPart n f).mem = s.mem := rfl
@[simp] theorem State.poison_updPart : (s.updPart n f).poison = s.poison := rfl
@[simp] theorem State.zbBlocks_updPart : (s.updPart n f).zbBlocks = s.zbBlocks := rfl
@[simp] theorem State.l1_updPart : (s.updPart n f).l1 = s.l1 := rfl
@[simp] theorem State.icache_updPart : (s.updPart n f).icache = s.icache := rfl
@[simp] theorem State.l2old_updPart : (s.updPart n f).l2old = s.l2old := rfl
@[simp] theorem State.l2first_updPart : (s.updPart n f).l2first = s.l2first := rfl
@[simp] theorem State.tlb_updPart : (s.updPart n f).tlb = s.tlb := rfl
@[simp] theorem State.atc_updPart : (s.updPart n f).atc = s.atc := rfl
@[simp] theorem State.flights_updPart : (s.updPart n f).flights = s.flights := rfl
@[simp] theorem State.gangs_updPart : (s.updPart n f).gangs = s.gangs := rfl
@[simp] theorem State.wgs_updPart : (s.updPart n f).wgs = s.wgs := rfl
@[simp] theorem State.grids_updPart : (s.updPart n f).grids = s.grids := rfl
@[simp] theorem State.entries_updPart : (s.updPart n f).entries = s.entries := rfl
@[simp] theorem State.dps_updPart : (s.updPart n f).dps = s.dps := rfl
@[simp] theorem State.dcs_updPart : (s.updPart n f).dcs = s.dcs := rfl
@[simp] theorem State.pending_updPart : (s.updPart n f).pending = s.pending := rfl
@[simp] theorem State.graphs_updPart : (s.updPart n f).graphs = s.graphs := rfl
@[simp] theorem State.mcs_updPart : (s.updPart n f).mcs = s.mcs := rfl
@[simp] theorem State.gens_updPart : (s.updPart n f).gens = s.gens := rfl
@[simp] theorem State.images_updPart : (s.updPart n f).images = s.images := rfl
@[simp] theorem State.swapped_updPart : (s.updPart n f).swapped = s.swapped := rfl
@[simp] theorem State.lag_updPart : (s.updPart n f).lag = s.lag := rfl
@[simp] theorem State.cbUse_updPart : (s.updPart n f).cbUse = s.cbUse := rfl
@[simp] theorem State.shadows_updPart : (s.updPart n f).shadows = s.shadows := rfl
@[simp] theorem State.hubs_updPart : (s.updPart n f).hubs = s.hubs := rfl
@[simp] theorem State.atsInv_updPart : (s.updPart n f).atsInv = s.atsInv := rfl
@[simp] theorem State.xfers_updPart : (s.updPart n f).xfers = s.xfers := rfl
@[simp] theorem State.hostWrites_updPart : (s.updPart n f).hostWrites = s.hostWrites := rfl
@[simp] theorem State.hostSeen_updPart : (s.updPart n f).hostSeen = s.hostSeen := rfl
@[simp] theorem State.older_updPart : (s.updPart n f).older = s.older := rfl
@[simp] theorem State.pri_updPart : (s.updPart n f).pri = s.pri := rfl
@[simp] theorem State.priOff_updPart : (s.updPart n f).priOff = s.priOff := rfl
@[simp] theorem State.queues_updPart : (s.updPart n f).queues = s.queues := rfl
@[simp] theorem State.cbops_updPart : (s.updPart n f).cbops = s.cbops := rfl
@[simp] theorem State.dev_updPart : (s.updPart n f).dev = s.dev := rfl
@[simp] theorem State.kbudget_updPart : (s.updPart n f).kbudget = s.kbudget := rfl
@[simp] theorem State.kilns_updPart : (s.updPart n f).kilns = s.kilns := rfl
@[simp] theorem State.routes_updPart : (s.updPart n f).routes = s.routes := rfl
@[simp] theorem State.ctxs_updPart : (s.updPart n f).ctxs = s.ctxs := rfl
@[simp] theorem State.cmdqs_updPart : (s.updPart n f).cmdqs = s.cmdqs := rfl
@[simp] theorem State.lfHeld_updPart : (s.updPart n f).lfHeld = s.lfHeld := rfl
@[simp] theorem State.tiles_updPart : (s.updPart n f).tiles = s.tiles := rfl
@[simp] theorem State.latches_updPart : (s.updPart n f).latches = s.latches := rfl
@[simp] theorem State.rast_updPart : (s.updPart n f).rast = s.rast := rfl
@[simp] theorem State.seals_updPart : (s.updPart n f).seals = s.seals := rfl
@[simp] theorem State.scans_updPart : (s.updPart n f).scans = s.scans := rfl
@[simp] theorem State.bins_updPart : (s.updPart n f).bins = s.bins := rfl
@[simp] theorem State.rays_updPart : (s.updPart n f).rays = s.rays := rfl
@[simp] theorem State.passes_updPart : (s.updPart n f).passes = s.passes := rfl
@[simp] theorem State.pins_updPart : (s.updPart n f).pins = s.pins := rfl
@[simp] theorem State.pinWait_updPart : (s.updPart n f).pinWait = s.pinWait := rfl
@[simp] theorem State.cores_updPart : (s.updPart n f).cores = s.cores := rfl
@[simp] theorem State.slices_updPart : (s.updPart n f).slices = s.slices := rfl
@[simp] theorem State.retiredCores_updPart : (s.updPart n f).retiredCores = s.retiredCores := rfl
@[simp] theorem State.retiredSlices_updPart : (s.updPart n f).retiredSlices = s.retiredSlices := rfl
@[simp] theorem State.links_updPart : (s.updPart n f).links = s.links := rfl
@[simp] theorem State.windows_updPart : (s.updPart n f).windows = s.windows := rfl
@[simp] theorem State.streams_updPart : (s.updPart n f).streams = s.streams := rfl
@[simp] theorem State.cxl_updPart : (s.updPart n f).cxl = s.cxl := rfl
@[simp] theorem State.regions_updPart : (s.updPart n f).regions = s.regions := rfl
@[simp] theorem State.repair_updPart : (s.updPart n f).repair = s.repair := rfl
@[simp] theorem State.soft_updPart : (s.updPart n f).soft = s.soft := rfl
@[simp] theorem State.flash_updPart : (s.updPart n f).flash = s.flash := rfl
@[simp] theorem State.flashOk_updPart : (s.updPart n f).flashOk = s.flashOk := rfl
@[simp] theorem State.flashNew_updPart : (s.updPart n f).flashNew = s.flashNew := rfl
@[simp] theorem State.hostOut_updPart : (s.updPart n f).hostOut = s.hostOut := rfl
@[simp] theorem State.fabricOut_updPart : (s.updPart n f).fabricOut = s.fabricOut := rfl
@[simp] theorem State.issue_updPart : (s.updPart n f).issue = s.issue := rfl
@[simp] theorem State.latch_updPart : (s.updPart n f).latch = s.latch := rfl
@[simp] theorem State.agenda_updPart : (s.updPart n f).agenda = s.agenda := rfl
@[simp] theorem State.round_updPart : (s.updPart n f).round = s.round := rfl
@[simp] theorem State.journal_updPart : (s.updPart n f).journal = s.journal := rfl
@[simp] theorem State.fresh_updPart : (s.updPart n f).fresh = s.fresh := rfl
@[simp] theorem State.nextId_updPart : (s.updPart n f).nextId = s.nextId := rfl
@[simp] theorem State.parts_updPart : (s.updPart n f).parts = s.parts.set n (f (s.part n)) := rfl

end

/-! ### poke -/

section
variable (s : State) (k : Nat) (b : Byte)

@[simp] theorem State.cycle_poke : (s.poke k b).cycle = s.cycle := rfl
@[simp] theorem State.mem_poke : (s.poke k b).mem = s.mem := rfl
@[simp] theorem State.poison_poke : (s.poke k b).poison = s.poison := rfl
@[simp] theorem State.zbBlocks_poke : (s.poke k b).zbBlocks = s.zbBlocks := rfl
@[simp] theorem State.l1_poke : (s.poke k b).l1 = s.l1 := rfl
@[simp] theorem State.icache_poke : (s.poke k b).icache = s.icache := rfl
@[simp] theorem State.l2old_poke : (s.poke k b).l2old = s.l2old := rfl
@[simp] theorem State.l2first_poke : (s.poke k b).l2first = s.l2first := rfl
@[simp] theorem State.tlb_poke : (s.poke k b).tlb = s.tlb := rfl
@[simp] theorem State.atc_poke : (s.poke k b).atc = s.atc := rfl
@[simp] theorem State.flights_poke : (s.poke k b).flights = s.flights := rfl
@[simp] theorem State.gangs_poke : (s.poke k b).gangs = s.gangs := rfl
@[simp] theorem State.wgs_poke : (s.poke k b).wgs = s.wgs := rfl
@[simp] theorem State.grids_poke : (s.poke k b).grids = s.grids := rfl
@[simp] theorem State.entries_poke : (s.poke k b).entries = s.entries := rfl
@[simp] theorem State.dps_poke : (s.poke k b).dps = s.dps := rfl
@[simp] theorem State.dcs_poke : (s.poke k b).dcs = s.dcs := rfl
@[simp] theorem State.pending_poke : (s.poke k b).pending = s.pending := rfl
@[simp] theorem State.graphs_poke : (s.poke k b).graphs = s.graphs := rfl
@[simp] theorem State.mcs_poke : (s.poke k b).mcs = s.mcs := rfl
@[simp] theorem State.gens_poke : (s.poke k b).gens = s.gens := rfl
@[simp] theorem State.images_poke : (s.poke k b).images = s.images := rfl
@[simp] theorem State.swapped_poke : (s.poke k b).swapped = s.swapped := rfl
@[simp] theorem State.lag_poke : (s.poke k b).lag = s.lag := rfl
@[simp] theorem State.cbUse_poke : (s.poke k b).cbUse = s.cbUse := rfl
@[simp] theorem State.shadows_poke : (s.poke k b).shadows = s.shadows := rfl
@[simp] theorem State.hubs_poke : (s.poke k b).hubs = s.hubs := rfl
@[simp] theorem State.atsInv_poke : (s.poke k b).atsInv = s.atsInv := rfl
@[simp] theorem State.xfers_poke : (s.poke k b).xfers = s.xfers := rfl
@[simp] theorem State.hostWrites_poke : (s.poke k b).hostWrites = s.hostWrites := rfl
@[simp] theorem State.hostSeen_poke : (s.poke k b).hostSeen = s.hostSeen := rfl
@[simp] theorem State.older_poke : (s.poke k b).older = s.older := rfl
@[simp] theorem State.pri_poke : (s.poke k b).pri = s.pri := rfl
@[simp] theorem State.priOff_poke : (s.poke k b).priOff = s.priOff := rfl
@[simp] theorem State.queues_poke : (s.poke k b).queues = s.queues := rfl
@[simp] theorem State.cbops_poke : (s.poke k b).cbops = s.cbops := rfl
@[simp] theorem State.parts_poke : (s.poke k b).parts = s.parts := rfl
@[simp] theorem State.dev_poke : (s.poke k b).dev = s.dev := rfl
@[simp] theorem State.kbudget_poke : (s.poke k b).kbudget = s.kbudget := rfl
@[simp] theorem State.kilns_poke : (s.poke k b).kilns = s.kilns := rfl
@[simp] theorem State.routes_poke : (s.poke k b).routes = s.routes := rfl
@[simp] theorem State.ctxs_poke : (s.poke k b).ctxs = s.ctxs := rfl
@[simp] theorem State.cmdqs_poke : (s.poke k b).cmdqs = s.cmdqs := rfl
@[simp] theorem State.lfHeld_poke : (s.poke k b).lfHeld = s.lfHeld := rfl
@[simp] theorem State.tiles_poke : (s.poke k b).tiles = s.tiles := rfl
@[simp] theorem State.latches_poke : (s.poke k b).latches = s.latches := rfl
@[simp] theorem State.rast_poke : (s.poke k b).rast = s.rast := rfl
@[simp] theorem State.seals_poke : (s.poke k b).seals = s.seals := rfl
@[simp] theorem State.scans_poke : (s.poke k b).scans = s.scans := rfl
@[simp] theorem State.bins_poke : (s.poke k b).bins = s.bins := rfl
@[simp] theorem State.rays_poke : (s.poke k b).rays = s.rays := rfl
@[simp] theorem State.passes_poke : (s.poke k b).passes = s.passes := rfl
@[simp] theorem State.pins_poke : (s.poke k b).pins = s.pins := rfl
@[simp] theorem State.pinWait_poke : (s.poke k b).pinWait = s.pinWait := rfl
@[simp] theorem State.cores_poke : (s.poke k b).cores = s.cores := rfl
@[simp] theorem State.slices_poke : (s.poke k b).slices = s.slices := rfl
@[simp] theorem State.retiredCores_poke : (s.poke k b).retiredCores = s.retiredCores := rfl
@[simp] theorem State.retiredSlices_poke : (s.poke k b).retiredSlices = s.retiredSlices := rfl
@[simp] theorem State.links_poke : (s.poke k b).links = s.links := rfl
@[simp] theorem State.windows_poke : (s.poke k b).windows = s.windows := rfl
@[simp] theorem State.streams_poke : (s.poke k b).streams = s.streams := rfl
@[simp] theorem State.cxl_poke : (s.poke k b).cxl = s.cxl := rfl
@[simp] theorem State.regions_poke : (s.poke k b).regions = s.regions := rfl
@[simp] theorem State.repair_poke : (s.poke k b).repair = s.repair := rfl
@[simp] theorem State.soft_poke : (s.poke k b).soft = s.soft := rfl
@[simp] theorem State.flash_poke : (s.poke k b).flash = s.flash := rfl
@[simp] theorem State.flashOk_poke : (s.poke k b).flashOk = s.flashOk := rfl
@[simp] theorem State.flashNew_poke : (s.poke k b).flashNew = s.flashNew := rfl
@[simp] theorem State.hostOut_poke : (s.poke k b).hostOut = s.hostOut := rfl
@[simp] theorem State.fabricOut_poke : (s.poke k b).fabricOut = s.fabricOut := rfl
@[simp] theorem State.issue_poke : (s.poke k b).issue = s.issue := rfl
@[simp] theorem State.latch_poke : (s.poke k b).latch = s.latch := rfl
@[simp] theorem State.agenda_poke : (s.poke k b).agenda = s.agenda := rfl
@[simp] theorem State.round_poke : (s.poke k b).round = s.round := rfl
@[simp] theorem State.fresh_poke : (s.poke k b).fresh = s.fresh := rfl
@[simp] theorem State.nextId_poke : (s.poke k b).nextId = s.nextId := rfl
@[simp] theorem State.journal_poke : (s.poke k b).journal = .byte k b :: s.journal := rfl

end

/-! ### Bytes written by an event -/

/-- Writing bytes changes the event's journal alone. -/
theorem State.pokeBytes_eq (s : State) (k : Nat) (l : List Byte) :
    s.pokeBytes k l = { s with journal := (s.pokeBytes k l).journal } := by
  induction l generalizing s k with
  | nil => rfl
  | cons b t ih =>
    show (s.poke k b).pokeBytes (k + 1) t = _
    rw [ih]
    rfl

/-- The same of a number. -/
theorem State.pokeN_eq (s : State) (k n x : Nat) : s.pokeN k n x = { s with journal := (s.pokeN k n x).journal } :=
  s.pokeBytes_eq k _

end Sys2Proof.Machine
end

