-- ==== Sys2Proof/Laws/Tab.lean ====
section
/-!
SUPPORT. Laws of sparse tables: what a read gives after each operation, and that each keeps the canonical form.
-/
namespace Sys2Proof.Machine

theorem Tab.find?_put_same {α : Type} (t : Tab α) (k : Nat) (v : α) : (t.put k v).find? k = some v := by
  induction t with
  | nil => simp [Tab.put, Tab.find?]
  | cons e t ih =>
    obtain ⟨j, w⟩ := e
    simp only [Tab.put]
    split
    · simp [Tab.find?]
    · split
      · simp [Tab.find?]
      · simp [Tab.find?, *]

theorem Tab.find?_put_ne {α : Type} (t : Tab α) {k j : Nat} (v : α) (h : j ≠ k) :
    (t.put k v).find? j = t.find? j := by
  induction t with
  | nil => simp [Tab.put, Tab.find?, Ne.symm h]
  | cons e t ih =>
    obtain ⟨i, w⟩ := e
    simp only [Tab.put]
    split
    · next hi => subst hi; simp [Tab.find?, Ne.symm h]
    · split
      · simp [Tab.find?, Ne.symm h]
      · simp [Tab.find?, ih]

theorem Tab.find?_put {α : Type} (t : Tab α) (k j : Nat) (v : α) :
    (t.put k v).find? j = if j = k then some v else t.find? j := by
  split
  · next h => subst h; exact t.find?_put_same j v
  · next h => exact t.find?_put_ne v h

theorem Tab.find?_filter {α : Type} (t : Tab α) (p : Nat → Bool) (j : Nat) :
    Tab.find? (t.filter fun e => p e.1) j = if p j then t.find? j else none := by
  induction t with
  | nil => simp [Tab.find?]
  | cons e t ih =>
    obtain ⟨i, w⟩ := e
    simp only [List.filter_cons]
    by_cases hp : p i
    · simp only [hp, if_true, Tab.find?, ih]
      by_cases hi : i = j
      · subst hi; simp [hp]
      · simp [hi]
    · rw [if_neg hp, ih]
      by_cases hi : i = j
      · subst hi; simp [hp]
      · simp [Tab.find?, hi]

theorem Tab.find?_del {α : Type} (t : Tab α) (k j : Nat) :
    (t.del k).find? j = if j = k then none else t.find? j := by
  rw [Tab.del, Tab.find?_filter t (fun i => i != k)]
  by_cases h : j = k <;> simp [h]

theorem Tab.find?_upd {α : Type} (f : α → α) (t : Tab α) (k j : Nat) :
    (Tab.upd f t k).find? j = if j = k then (t.find? j).map f else t.find? j := by
  induction t with
  | nil => simp [Tab.upd, Tab.find?]
  | cons e t ih =>
    obtain ⟨i, w⟩ := e
    simp only [Tab.upd]
    by_cases hk : i = k
    · subst hk
      by_cases hj : i = j
      · subst hj; simp [Tab.find?]
      · simp [Tab.find?, hj, Ne.symm hj]
    · by_cases hj : i = j
      · subst hj; simp [Tab.find?, hk]
      · simp [Tab.find?, hk, hj, ih]

theorem Tab.find?_map {α β : Type} (f : Nat → α → β) (t : Tab α) (j : Nat) :
    Tab.find? (t.map fun e => (e.1, f e.1 e.2)) j = (t.find? j).map (f j) := by
  induction t with
  | nil => simp [Tab.find?]
  | cons e t ih =>
    obtain ⟨i, w⟩ := e
    by_cases hi : i = j
    · subst hi; simp [Tab.find?]
    · simp [Tab.find?, hi, ih]

theorem Tab.get_set {α : Type} [DecidableEq α] (d : α) (t : Tab α) (k j : Nat) (v : α) :
    Tab.get d (t.set d k v) j = if j = k then v else Tab.get d t j := by
  simp only [Tab.get, Tab.set]
  by_cases hv : v = d
  · simp only [hv, if_true, Tab.find?_del]
    split <;> simp
  · simp only [hv, if_false, Tab.find?_put]
    split <;> simp

@[simp] theorem Tab.get_set_same {α : Type} [DecidableEq α] (d : α) (t : Tab α) (k : Nat) (v : α) :
    Tab.get d (t.set d k v) k = v := by simp [Tab.get_set]

theorem Tab.get_clear {α : Type} (d : α) (t : Tab α) (lo n j : Nat) :
    Tab.get d (t.clear lo n) j = if lo ≤ j ∧ j < lo + n then d else Tab.get d t j := by
  simp only [Tab.get, Tab.clear]
  rw [Tab.find?_filter t (fun i => !(decide (lo ≤ i) && decide (i < lo + n)))]
  by_cases h : lo ≤ j ∧ j < lo + n
  · simp [h]
  · rw [if_neg h, if_pos]
    simp only [Bool.not_eq_true', Bool.and_eq_false_iff, decide_eq_false_iff_not]
    omega

/-! ### The canonical form -/

theorem Tab.wfFrom_mono {α : Type} [DecidableEq α] (d : α) (t : Tab α) {lo lo' : Nat} (h : lo' ≤ lo) :
    Tab.wfFrom d lo t = true → Tab.wfFrom d lo' t = true := by
  cases t with
  | nil => simp [Tab.wfFrom]
  | cons e t =>
    obtain ⟨i, w⟩ := e
    simp only [Tab.wfFrom, Bool.and_eq_true, decide_eq_true_eq]
    rintro ⟨⟨h1, h2⟩, h3⟩
    exact ⟨⟨by omega, h2⟩, h3⟩

theorem Tab.wfFrom_put {α : Type} [DecidableEq α] (d : α) (t : Tab α) (k : Nat) (v : α) (hv : v ≠ d) :
    ∀ lo, lo ≤ k → Tab.wfFrom d lo t = true → Tab.wfFrom d lo (t.put k v) = true := by
  induction t with
  | nil => intro lo hk _; simp [Tab.put, Tab.wfFrom, hk, hv]
  | cons e t ih =>
    obtain ⟨i, w⟩ := e
    intro lo hk h
    simp only [Tab.wfFrom, Bool.and_eq_true, decide_eq_true_eq] at h
    simp only [Tab.put]
    split
    · next hi => subst hi; simp [Tab.wfFrom, hv, hk, h.2]
    · split
      · next hlt => simp [Tab.wfFrom, hv, hk, h.1.2, h.2]; omega
      · next hne hlt =>
        simp only [Tab.wfFrom, Bool.and_eq_true, decide_eq_true_eq]
        exact ⟨h.1, ih (i + 1) (by omega) h.2⟩

theorem Tab.wfFrom_filter {α : Type} [DecidableEq α] (d : α) (p : Nat × α → Bool) (t : Tab α) :
    ∀ lo, Tab.wfFrom d lo t = true → Tab.wfFrom d lo (t.filter p) = true := by
  induction t with
  | nil => intro lo _; simp [Tab.wfFrom]
  | cons e t ih =>
    obtain ⟨i, w⟩ := e
    intro lo h
    simp only [Tab.wfFrom, Bool.and_eq_true, decide_eq_true_eq] at h
    simp only [List.filter_cons]
    split
    · simp only [Tab.wfFrom, Bool.and_eq_true, decide_eq_true_eq]
      exact ⟨h.1, ih _ h.2⟩
    · exact Tab.wfFrom_mono d _ (by omega) (ih _ h.2)

theorem Tab.wf_set {α : Type} [DecidableEq α] (d : α) (t : Tab α) (k : Nat) (v : α) (h : Tab.wf d t = true) :
    Tab.wf d (t.set d k v) = true := by
  unfold Tab.wf Tab.set at *
  split
  · exact Tab.wfFrom_filter d _ t 0 h
  · next hv => exact Tab.wfFrom_put d t k v hv 0 (Nat.zero_le _) h

theorem Tab.wf_clear {α : Type} [DecidableEq α] (d : α) (t : Tab α) (lo n : Nat) (h : Tab.wf d t = true) :
    Tab.wf d (t.clear lo n) = true := Tab.wfFrom_filter d _ t 0 h

end Sys2Proof.Machine
end

