-- ==== Sys2Proof/Laws/Write.lean ====
section
/-!
SUPPORT. What writing results does (11 R311): the registers of the agent that it changes, and that nothing else changes.
-/
namespace Sys2Proof.Machine

/-! ### One gang changed -/

@[simp] theorem State.gang?_updGang (s : State) (gid j : Nat) (f : Gang → Gang) :
    (s.updGang gid f).gang? j = if j = gid then (s.gang? j).map f else s.gang? j := by
  simp only [State.gang?, State.updGang, Tab.find?_upd]

@[simp] theorem State.gang?_updFrag (s : State) (gid fid j : Nat) (f : Frag → Frag) :
    (s.updFrag gid fid f).gang? j =
      if j = gid then (s.gang? j).map fun g => { g with frags := g.frags.upd f fid } else s.gang? j := by
  simp only [State.updFrag, State.gang?_updGang]

@[simp] theorem State.gang?_updCtx (s : State) (n j : Nat) (f : Ctx → Ctx) : (s.updCtx n f).gang? j = s.gang? j := rfl

@[simp] theorem State.ctx_updGang (s : State) (gid n : Nat) (f : Gang → Gang) : (s.updGang gid f).ctx n = s.ctx n := rfl

@[simp] theorem State.ctx_updFrag (s : State) (gid fid n : Nat) (f : Frag → Frag) :
    (s.updFrag gid fid f).ctx n = s.ctx n := rfl

@[simp] theorem State.ctx_updCtx (s : State) (n j : Nat) (f : Ctx → Ctx) :
    (s.updCtx n f).ctx j = if j = n then f (s.ctx n) else s.ctx j := by
  simp only [State.ctx, State.updCtx]; exact Tab.get_set _ _ _ _ _

@[simp] theorem State.gang?_markClash (s : State) (ag : Agent) (r : RegId) (m : LaneMask) (j : Nat) :
    (s.markClash ag r m).gang? j = s.gang? j := by
  unfold State.markClash; dsimp only; split <;> rfl

@[simp] theorem State.ctx_markClash (s : State) (ag : Agent) (r : RegId) (m : LaneMask) (j : Nat) :
    (s.markClash ag r m).ctx j = s.ctx j := by
  unfold State.markClash; dsimp only; split <;> rfl

/-! ### What a write does to its gang or context -/

/-- A register write as it changes the registers of a gang. -/
def Gang.put (g : Gang) : Wr → Gang
  | .v n vals => vals.foldl (fun g e => g.wrV n e.1 e.2) g
  | .s n x => { g with s := Tab.set 0 g.s n x }
  | .h n x => { g with h := Tab.set 0 g.h n x }
  | .q n xs => g.setWords n (g.qwords n ++ xs)
  | .p n m x => g.wrP n m x
  | .k n b => { g with k := setKBit g.k n b }
  | .lc _ _ => g

/-- A register write as it changes the registers of a context. -/
def Ctx.put (c : Ctx) : Wr → Ctx
  | .s n x => { c with s := Tab.set 0 c.s n x }
  | .k n b => { c with k := setKBit c.k n b }
  | _ => c

/-- A write of a register, not of a loop counter. -/
def Wr.plain : Wr → Bool
  | .lc _ _ => false
  | _ => true

theorem Gang.wrVs_eq (g : Gang) (n : Nat) (vals : Tab W32) :
    vals.foldl (fun g e => g.wrV n e.1 e.2) g =
      { g with v := vals.foldl (fun v e => Tab.set 0 v (vKey n e.1) e.2) g.v,
               vbad := vals.foldl (fun v e => NSet.era v (vKey n e.1)) g.vbad } := by
  induction vals generalizing g with
  | nil => rfl
  | cons e t ih => rw [List.foldl_cons, ih]; rfl

theorem Gang.put_frags (g : Gang) (w : Wr) : (g.put w).frags = g.frags := by
  cases w with
  | v n vals => simp only [Gang.put, Gang.wrVs_eq]
  | p n m x => simp only [Gang.put, Gang.wrP]; split <;> rfl
  | _ => rfl

theorem Frag.bare_upd (f : Frag → Frag) (hf : ∀ x, (f x).bare = x.bare) (t : Tab Frag) (i : Nat) :
    (Tab.upd f t i).map (fun e => (e.1, e.2.bare)) = t.map (fun e => (e.1, e.2.bare)) := by
  induction t with
  | nil => rfl
  | cons e t ih =>
    obtain ⟨j, x⟩ := e
    simp only [Tab.upd]
    split
    · simp [hf]
    · simp [ih]

/-- Everything of a state but gangs, contexts and operations in flight. -/
def State.rest (s : State) : State := { s with gangs := [], ctxs := [], flights := [] }

@[simp] theorem State.rest_markClash (s : State) (ag : Agent) (r : RegId) (m : LaneMask) :
    (s.markClash ag r m).rest = s.rest := by
  unfold State.markClash; dsimp only; split <;> rfl

theorem State.flights_markClash (s : State) (ag : Agent) (r : RegId) (m : LaneMask) (i : Nat) :
    ((s.markClash ag r m).flights.find? i).map Flight.bare = (s.flights.find? i).map Flight.bare := by
  unfold State.markClash
  dsimp only
  split
  · rfl
  · dsimp only
    rw [Tab.find?_map (fun j (x : Flight) => if ((s.flightsOf ag).map (·.id)).contains j && x.dest.regs.contains r then
          { x with clash := (r, m) :: x.clash } else x)]
    cases s.flights.find? i with
    | none => rfl
    | some x => simp only [Option.map_some]; split <;> rfl

theorem writeAll_eq (s : State) (is : Issue) (lat : Nat) (ws : List Wr) :
    writeAll s is lat ws = ws.foldl (wrStep is lat) s := rfl

/-- The rest of a state does not change when a gang, a fragment or a context does. -/
@[simp] theorem State.rest_updGang (s : State) (gid : Nat) (f : Gang → Gang) : (s.updGang gid f).rest = s.rest := rfl
@[simp] theorem State.rest_updFrag (s : State) (gid fid : Nat) (f : Frag → Frag) : (s.updFrag gid fid f).rest = s.rest := rfl
@[simp] theorem State.rest_updCtx (s : State) (n : Nat) (f : Ctx → Ctx) : (s.updCtx n f).rest = s.rest := rfl

theorem wrOwn_kept (is : Issue) (lat : Nat) (t : State) (w : Wr) :
    (wrOwn is lat t w).rest = t.rest ∧
      (∀ i, ((wrOwn is lat t w).flights.find? i).map Flight.bare = (t.flights.find? i).map Flight.bare) ∧
      OthersKept is.ag t (wrOwn is lat t w) := by
  have hA : (t.applyWr is.ag w).rest = t.rest ∧ (t.applyWr is.ag w).flights = t.flights ∧
      OthersKept is.ag t (t.applyWr is.ag w) := by
    cases hag : is.ag with
    | gang gid fid =>
      cases w <;>
        simp [State.applyWr, State.wrS, State.wrK, State.wrLc, OthersKept, ofGang, eq_comm] <;>
        (intro j hj hj'; exact absurd hj' hj)
    | ctx n =>
      cases w <;>
        simp [State.applyWr, State.wrS, State.wrK, State.wrLc, OthersKept, ofGang, eq_comm] <;>
        (intro j hj hj'; exact absurd hj' hj)
  unfold wrOwn
  dsimp only
  cases w.old t is.ag with
  | none => exact ⟨hA.1, fun i => by rw [hA.2.1], hA.2.2⟩
  | some ro =>
    obtain ⟨r, old⟩ := ro
    dsimp only
    split
    · refine ⟨by simp [hA.1], fun i => by rw [State.flights_markClash, hA.2.1], ?_⟩
      exact ⟨fun g hg => by simp [hA.2.2.1 g hg], fun n hn => by simp [hA.2.2.2 n hn]⟩
    · refine ⟨?_, fun i => ?_, ?_⟩
      · rw [State.rest_markClash]
        cases hag : is.ag <;> simp [State.updHaz] <;> rw [← hag] <;> exact hA.1
      · rw [State.flights_markClash]
        cases hag : is.ag <;> simp [State.updHaz] <;> rw [← hag] <;> rw [hA.2.1]
      · constructor
        · intro g hg
          rw [State.gang?_markClash, ← hA.2.2.1 g hg]
          cases hag : is.ag with
          | gang gid fid =>
            rw [hag] at hg
            simp only [ofGang] at hg
            simp [State.updHaz, Ne.symm hg]
          | ctx n => rfl
        · intro n hn
          rw [State.ctx_markClash, ← hA.2.2.2 n hn]
          cases hag : is.ag with
          | gang gid fid => rfl
          | ctx m =>
            rw [hag] at hn
            have : n ≠ m := fun h => hn (by rw [h])
            simp [State.updHaz, this]

/-- Latencies taken over from siblings change nothing but records of latencies of the agent's gang. -/
theorem takeHaz_kept (s : State) (ag : Agent) (r : RegId) (n : Nat) :
    (s.takeHaz ag r n).rest = s.rest ∧ (s.takeHaz ag r n).flights = s.flights ∧ OthersKept ag s (s.takeHaz ag r n) ∧
      (∀ j, ((s.takeHaz ag r n).gang? j).map Gang.bare = (s.gang? j).map Gang.bare) ∧ ∀ j, (s.takeHaz ag r n).ctx j = s.ctx j := by
  unfold State.takeHaz
  dsimp only
  split
  · rename_i gid fid _ _ _
    refine ⟨rfl, rfl, ⟨fun g hg => ?_, fun _ _ => rfl⟩, fun j => ?_, fun _ => rfl⟩
    · simp only [ofGang] at hg
      simp [Ne.symm hg]
    · rw [State.gang?_updGang]
      split
      · cases s.gang? j with
        | none => rfl
        | some g =>
          simp only [Option.map_some, Gang.bare, List.map_map]
          congr 2
      · rfl
  · exact ⟨rfl, rfl, ⟨fun _ _ => rfl, fun _ _ => rfl⟩, fun _ => rfl, fun _ => rfl⟩

/-- The writes of results leave the rest of the machine, the other agents and the operations in flight. -/
theorem wrStep_kept (is : Issue) (lat : Nat) (t : State) (w : Wr) :
    (wrStep is lat t w).rest = t.rest ∧
      (∀ i, ((wrStep is lat t w).flights.find? i).map Flight.bare = (t.flights.find? i).map Flight.bare) ∧
      OthersKept is.ag t (wrStep is lat t w) := by
  obtain ⟨h1, h2, h3⟩ := wrOwn_kept is lat t w
  unfold wrStep
  split
  · exact ⟨h1, h2, h3⟩
  · rename_i r _ _
    obtain ⟨k1, k2, k3, -, -⟩ := takeHaz_kept (wrOwn is lat t w) is.ag r (is.lastPass + lat)
    exact ⟨k1.trans h1, fun i => by rw [k2]; exact h2 i,
      fun g hg => (k3.1 g hg).trans (h3.1 g hg), fun n hn => (k3.2 n hn).trans (h3.2 n hn)⟩

theorem writeAll_kept (s : State) (is : Issue) (lat : Nat) (ws : List Wr) :
    (writeAll s is lat ws).rest = s.rest ∧
      (∀ i, ((writeAll s is lat ws).flights.find? i).map Flight.bare = (s.flights.find? i).map Flight.bare) ∧
      OthersKept is.ag s (writeAll s is lat ws) := by
  rw [writeAll_eq]
  induction ws generalizing s with
  | nil => exact ⟨rfl, fun _ => rfl, fun _ _ => rfl, fun _ _ => rfl⟩
  | cons w ws ih =>
    rw [List.foldl_cons]
    obtain ⟨h1, h2, h3⟩ := ih (wrStep is lat s w)
    obtain ⟨k1, k2, k3⟩ := wrStep_kept is lat s w
    exact ⟨h1.trans k1, fun i => (h2 i).trans (k2 i),
      fun g hg => (h3.1 g hg).trans (k3.1 g hg), fun n hn => (h3.2 n hn).trans (k3.2 n hn)⟩

theorem Gang.put_bare (g : Gang) (w : Wr) : (g.put w).bare = g.bare.put w := by
  cases w with
  | v n vals => simp only [Gang.put, Gang.wrVs_eq]; rfl
  | p n m x => simp only [Gang.put, Gang.wrP]; split <;> rfl
  | _ => rfl

theorem wrOwn_gang (is : Issue) (lat : Nat) (t : State) (w : Wr) (gid fid : Nat) (hag : is.ag = .gang gid fid)
    (hw : w.plain = true) (g : Gang) (hg : t.gang? gid = some g) :
    ∃ g', (wrOwn is lat t w).gang? gid = some g' ∧ g'.bare = (g.put w).bare := by
  have hA : (t.applyWr is.ag w).gang? gid = some (g.put w) := by
    rw [hag]
    cases w <;> simp_all [State.applyWr, State.wrS, State.wrK, Gang.put, Wr.plain]
  unfold wrOwn
  dsimp only
  cases w.old t is.ag with
  | none => exact ⟨_, hA, rfl⟩
  | some ro =>
    obtain ⟨r, old⟩ := ro
    dsimp only
    split
    · exact ⟨_, by rw [State.gang?_markClash]; exact hA, rfl⟩
    · rw [State.gang?_markClash, hag]
      simp only [State.updHaz, State.gang?_updFrag, if_true]
      rw [← hag, hA]
      refine ⟨_, rfl, ?_⟩
      simp only [Gang.bare]
      rw [Frag.bare_upd]
      intro x; rfl

/-- A write of a register changes its gang as `Gang.put` says, apart from the records of latencies. -/
theorem wrStep_gang (is : Issue) (lat : Nat) (t : State) (w : Wr) (gid fid : Nat) (hag : is.ag = .gang gid fid)
    (hw : w.plain = true) (g : Gang) (hg : t.gang? gid = some g) :
    ∃ g', (wrStep is lat t w).gang? gid = some g' ∧ g'.bare = (g.put w).bare := by
  obtain ⟨g1, h1, b1⟩ := wrOwn_gang is lat t w gid fid hag hw g hg
  unfold wrStep
  split
  · exact ⟨g1, h1, b1⟩
  · rename_i r _ _
    have h := (takeHaz_kept (wrOwn is lat t w) is.ag r (is.lastPass + lat)).2.2.2.1 gid
    rw [h1] at h
    cases hx : ((wrOwn is lat t w).takeHaz is.ag r (is.lastPass + lat)).gang? gid with
    | none => rw [hx] at h; simp at h
    | some x => rw [hx] at h; exact ⟨x, rfl, (by simpa using h : x.bare = g1.bare).trans b1⟩

theorem writeAll_gang (is : Issue) (lat : Nat) (ws : List Wr) (s : State) (gid fid : Nat) (hag : is.ag = .gang gid fid)
    (hw : ∀ w ∈ ws, w.plain = true) (g : Gang) (hg : s.gang? gid = some g) :
    ∃ g', (writeAll s is lat ws).gang? gid = some g' ∧ g'.bare = (ws.foldl Gang.put g).bare := by
  rw [writeAll_eq]
  induction ws generalizing s g with
  | nil => exact ⟨g, hg, rfl⟩
  | cons w ws ih =>
    obtain ⟨g1, h1, b1⟩ := wrStep_gang is lat s w gid fid hag (hw w (by simp)) g hg
    obtain ⟨g2, h2, b2⟩ := ih (wrStep is lat s w) (fun x hx => hw x (by simp [hx])) g1 h1
    refine ⟨g2, h2, b2.trans ?_⟩
    clear h1 h2 b2 g2 hg ih
    rw [List.foldl_cons]
    generalize g.put w = y at b1
    clear hw
    induction ws generalizing g1 y with
    | nil => exact b1
    | cons x xs ih' =>
      simp only [List.foldl_cons]
      exact ih' _ _ (by rw [Gang.put_bare, Gang.put_bare, b1])

theorem wrOwn_ctx (is : Issue) (lat : Nat) (t : State) (w : Wr) (n : Nat) (hag : is.ag = .ctx n) (hw : w.plain = true) :
    ((wrOwn is lat t w).ctx n).bare = ((t.ctx n).put w).bare := by
  have hA : (t.applyWr is.ag w).ctx n = (t.ctx n).put w := by
    rw [hag]
    cases w <;> simp_all [State.applyWr, State.wrS, State.wrK, Ctx.put, Wr.plain]
  unfold wrOwn
  dsimp only
  cases w.old t is.ag with
  | none => rw [hA]
  | some ro =>
    obtain ⟨r, old⟩ := ro
    dsimp only
    split
    · rw [State.ctx_markClash, hA]
    · rw [State.ctx_markClash, hag]
      simp only [State.updHaz, State.ctx_updCtx, if_true]
      rw [← hag, hA]
      rfl

/-- A write of a register changes its context as `Ctx.put` says, apart from the records of latencies. -/
theorem wrStep_ctx (is : Issue) (lat : Nat) (t : State) (w : Wr) (n : Nat) (hag : is.ag = .ctx n) (hw : w.plain = true) :
    ((wrStep is lat t w).ctx n).bare = ((t.ctx n).put w).bare := by
  unfold wrStep
  split
  · exact wrOwn_ctx is lat t w n hag hw
  · rw [(takeHaz_kept _ _ _ _).2.2.2.2]
    exact wrOwn_ctx is lat t w n hag hw

theorem Ctx.put_bare (c : Ctx) (w : Wr) : (c.put w).bare = c.bare.put w := by cases w <;> rfl

theorem writeAll_ctx (is : Issue) (lat : Nat) (ws : List Wr) (s : State) (n : Nat) (hag : is.ag = .ctx n)
    (hw : ∀ w ∈ ws, w.plain = true) :
    ((writeAll s is lat ws).ctx n).bare = (ws.foldl Ctx.put (s.ctx n)).bare := by
  rw [writeAll_eq]
  suffices h : ∀ (c : Ctx), (s.ctx n).bare = c.bare →
      ((ws.foldl (wrStep is lat) s).ctx n).bare = (ws.foldl Ctx.put c).bare from h _ rfl
  induction ws generalizing s with
  | nil => intro c h; exact h
  | cons w ws ih =>
    intro c h
    simp only [List.foldl_cons]
    refine ih _ (fun x hx => hw x (by simp [hx])) _ ?_
    rw [wrStep_ctx is lat s w n hag (hw w (by simp)), Ctx.put_bare, Ctx.put_bare, h]

/-! ### Registers after the writes of a result -/

theorem lanesOf_lt {w : Nat} {m : LaneMask} {l : Nat} (h : l ∈ lanesOf w m) : l < 1024 := by
  simp only [lanesOf, List.mem_filter] at h
  exact Decidable.byContradiction fun hc => by
    have : m.getLsbD l = false := BitVec.getLsbD_of_ge m l (by omega)
    simp [this] at h

theorem lanesOf_nodup (w : Nat) (m : LaneMask) : (lanesOf w m).Nodup := List.nodup_range.filter _

theorem effLanes_lt {s is sh o l} (h : l ∈ effLanes s is sh o) : l < 1024 := by
  unfold effLanes at h
  dsimp only at h
  split at h
  · split at h <;> simp_all
  · unfold State.lanesAg at h
    split at h
    · exact lanesOf_lt h
    · split at h <;> simp_all

theorem effLanes_nodup (s is sh o) : (effLanes s is sh o).Nodup := by
  unfold effLanes
  dsimp only
  split
  · split <;> simp
  · unfold State.lanesAg
    split
    · exact lanesOf_nodup _ _
    · split <;> simp

/-- V after writing lanes -/
theorem rdV_wrVs (g : Gang) (k : Nat) (vals : Tab W32) (hl : ∀ e ∈ vals, e.1 < 1024) (hn : (vals.map (·.1)).Nodup) (r l : Nat)
    (h : l < 1024) :
    (vals.foldl (fun g e => g.wrV k e.1 e.2) g).rdV r l =
      if r = k then (vals.find? l).getD (g.rdV r l) else g.rdV r l := by
  induction vals generalizing g with
  | nil => simp [Tab.find?]
  | cons e t ih =>
    obtain ⟨j, x⟩ := e
    have hj : j < 1024 := hl (j, x) (by simp)
    rw [List.foldl_cons, ih (g.wrV k j x) (fun e he => hl e (by simp [he])) (by simp at hn; exact hn.2)]
    have hw : (g.wrV k j x).rdV r l = if r = k ∧ l = j then x else g.rdV r l := by
      simp only [Gang.rdV, Gang.wrV]
      rw [Tab.get_set]
      have : vKey r l = vKey k j ↔ r = k ∧ l = j := by unfold vKey; omega
      simp [this]
    rw [hw]
    by_cases hr : r = k
    · subst hr
      simp only [if_true, true_and, Tab.find?]
      by_cases hjl : j = l
      · subst hjl
        have : Tab.find? t j = none := by
          have hnot : j ∉ t.map (·.1) := by simp at hn ⊢; exact hn.1
          clear ih hn hl hw
          induction t with
          | nil => rfl
          | cons e t ih2 =>
            obtain ⟨i, y⟩ := e
            simp at hnot
            simp only [Tab.find?]
            rw [if_neg (by omega)]
            exact ih2 (by simp; exact hnot.2)
        simp [this]
      · simp [hjl, Ne.symm hjl]
    · simp [hr]

theorem put_v_rest (g : Gang) (ws : List Wr) (hws : ∀ w ∈ ws, ∃ k vals, w = .v k vals) :
    (ws.foldl Gang.put g) = { g with v := (ws.foldl Gang.put g).v, vbad := (ws.foldl Gang.put g).vbad } := by
  induction ws generalizing g with
  | nil => rfl
  | cons w ws ih =>
    obtain ⟨k, vals, rfl⟩ := hws w (by simp)
    rw [List.foldl_cons, ih _ (fun x hx => hws x (by simp [hx]))]
    simp only [Gang.put, Gang.wrVs_eq]

theorem find?_map_nodup (lanes : List Nat) (f : Nat → W32) (l : Nat) :
    Tab.find? (lanes.map fun j => (j, f j)) l = if l ∈ lanes then some (f l) else none := by
  induction lanes with
  | nil => rfl
  | cons j t ih =>
    simp only [List.map_cons, Tab.find?, ih]
    by_cases h : j = l
    · subst h; simp
    · simp [h, Ne.symm h]

/-- The V registers after a result of `n` words in some lanes. -/
theorem rdV_put (g : Gang) (k n : Nat) (lanes : List Nat) (val : Nat → Nat) (hl : ∀ l ∈ lanes, l < 1024)
    (hn : lanes.Nodup) (r l : Nat) (h : l < 1024) :
    (((List.range n).map fun i => Wr.v (k + i) ((lanes.map fun j => (j, val j)).map fun e => (e.1, wordOf e.2 i))).foldl
      Gang.put g).rdV r l =
      if k ≤ r ∧ r < k + n ∧ l ∈ lanes then wordOf (val l) (r - k) else g.rdV r l := by
  induction n with
  | zero => simp; intros; omega
  | succ n ih =>
    rw [List.range_succ, List.map_append, List.foldl_append]
    simp only [List.map_cons, List.map_nil, List.foldl_cons, List.foldl_nil, Gang.put, List.map_map]
    rw [rdV_wrVs _ _ _ (by simpa using hl) (by simpa [Function.comp_def] using hn) _ _ h]
    have e : (fun e : Nat × Nat => (e.1, wordOf e.2 n)) ∘ (fun j => (j, val j)) = fun j => (j, (fun j => wordOf (val j) n) j) := rfl
    rw [e, find?_map_nodup]
    simp only [List.map_map] at ih
    rw [ih]
    by_cases hr : r = k + n
    · subst hr
      by_cases hm : l ∈ lanes <;> simp [hm]
    · simp only [hr, if_false]
      by_cases hc : k ≤ r ∧ r < k + n ∧ l ∈ lanes
      · rw [if_pos hc, if_pos ⟨hc.1, by omega, hc.2.2⟩]
      · rw [if_neg hc, if_neg (by rintro ⟨a, b, c⟩; exact hc ⟨a, by omega, c⟩)]

theorem put_s (g : Gang) (k n : Nat) (x : Nat → W32) :
    ((List.range n).map fun i => Wr.s (k + i) (x i)).foldl Gang.put g =
      { g with s := (List.range n).foldl (fun t i => Tab.set 0 t (k + i) (x i)) g.s } := by
  induction n with
  | zero => rfl
  | succ n ih => rw [List.range_succ, List.map_append, List.foldl_append, List.foldl_append, ih]; rfl

theorem put_s_ctx (g : Ctx) (k n : Nat) (x : Nat → W32) :
    ((List.range n).map fun i => Wr.s (k + i) (x i)).foldl Ctx.put g =
      { g with s := (List.range n).foldl (fun t i => Tab.set 0 t (k + i) (x i)) g.s } := by
  induction n with
  | zero => rfl
  | succ n ih => rw [List.range_succ, List.map_append, List.foldl_append, List.foldl_append, ih]; rfl

theorem get_sets (t : Tab W32) (k n : Nat) (x : Nat → W32) (r : Nat) :
    Tab.get 0 ((List.range n).foldl (fun t i => Tab.set 0 t (k + i) (x i)) t) r =
      if k ≤ r ∧ r < k + n then x (r - k) else Tab.get 0 t r := by
  induction n with
  | zero => rw [if_neg (by omega)]; rfl
  | succ n ih =>
    rw [List.range_succ, List.foldl_append]
    simp only [List.foldl_cons, List.foldl_nil]
    rw [Tab.get_set, ih]
    by_cases hr : r = k + n
    · subst hr; simp
    · rw [if_neg hr]
      by_cases hc : k ≤ r ∧ r < k + n
      · rw [if_pos hc, if_pos ⟨hc.1, by omega⟩]
      · rw [if_neg hc, if_neg (by rintro ⟨a, b⟩; exact hc ⟨a, by omega⟩)]

theorem deviceKept_of (s t : State) (h : t.rest = s.rest) : DeviceKept s t := by
  unfold DeviceKept
  unfold State.rest at h
  cases s; cases t
  simp_all

@[simp] theorem rest_orFlags (s : State) (ag fl) : (s.orFlags ag fl).rest = s.rest := by
  unfold State.orFlags; split <;> rfl

theorem withPops_facts (s : State) (ag : Agent) (k : Nat) (qs : List Nat) :
    (s.withPops ag k qs).2.rest = s.rest ∧ (s.withPops ag k qs).2.flights = s.flights ∧
    OthersKept ag s (s.withPops ag k qs).2 := by
  unfold State.withPops
  cases ag with
  | ctx n => exact ⟨rfl, rfl, fun _ _ => rfl, fun _ _ => rfl⟩
  | gang gid fid =>
    dsimp only
    split
    · refine ⟨rfl, rfl, fun j hj => ?_, fun _ _ => rfl⟩
      simp only [ofGang] at hj
      simp [Ne.symm hj]
    · exact ⟨rfl, rfl, fun _ _ => rfl, fun _ _ => rfl⟩

end Sys2Proof.Machine
end

