-- ==== Sys2Proof/Laws/Issue.lean ====
section
/-!
SUPPORT. What the frame of an operation's meaning does: a bundle that passes its checks runs its own effect, a memory bundle whose
accesses all pass issues one operation, and issuing an operation leaves every register as it was.
-/
namespace Sys2Proof.Machine

/-- A bundle that passes all that stands before its effect runs that effect. -/
theorem issueOp_of_issues {i : Instr} {o : Opw} {s : State} {is : Issue} {bad : Issue → Bool} {rd : Issue → List RegId}
    {more : Issue → Nat} (H : Issues i o s is bad rd more) (body : Issue → State) :
    issueOp i o s bad rd more body = runOp s (body is) := by
  have h1 : stageTrap i s is (decodeCauses i o is s (bad is) (rd is) (more is)) (scrOut i o s is) = none := by
    rw [H.checks, H.bounds]; simp [stageTrap]
  have h2 := H.queues
  have h3 := H.noPush
  unfold shapeOf at h2 h3
  unfold issueOp
  rw [H.issuing]
  dsimp only
  rw [h1, H.target]
  cases hag : is.ag <;> rw [hag] at h2 h3 <;> dsimp only at h2 h3 ⊢ <;> rw [h2, h3, H.clean] <;> rfl

/-- The same for an operation that acts once per fragment. -/
theorem onceOp_of_issues {i : Instr} {o : Opw} {s : State} {is : Issue} (H : Issues i o s is noBad noRd noMore)
    (f : State → Issue → State) : onceOp i o s f = runOp s (if anyGuard s is o then f s is else s) :=
  issueOp_of_issues H _

/-- A bundle's part that ends between events with no write of its own keeps memory. -/
theorem runOp_memKept (s t : State) (h : s.journal = []) : ∃ u, runOp s t = .next u ∧ MemKept s u ∧ u.gangs = t.gangs ∧
    u.ctxs = t.ctxs ∧ u.flights = t.flights ∧ u.nextId = t.nextId :=
  ⟨_, rfl, fun k => by unfold State.peek; rw [h], rfl, rfl, rfl, rfl⟩

/-- A state whose journal is empty is kept as it is. -/
theorem runOp_self (s : State) (h : s.journal = []) : runOp s s = .next s := by
  unfold runOp; cases s; simp_all

/-- The accesses that all pass are handed on. -/
theorem memAccess_pass {s : State} {is : Issue} {path : Nat} {m : LaneMask} {chk : PageCheck} {reqs : List AReq}
    {l : List (AReq × TrOk)} (h : AllPass s is path m chk reqs l) (mk : State → List (AReq × TrOk) → State)
    (pop : State → State) : memAccess s is path m chk reqs mk pop = mk (pop (afterChecks s is l)) l := by
  unfold AllPass at h
  unfold memAccess
  dsimp only
  rw [h]
  rfl

/-! ### Operations issued -/

/-- The gangs and contexts after the program order of an agent is replaced: nothing but that record changes. -/
theorem setOrder_bare (s : State) (ag : Agent) (po : List Nat) (con : List Con) : RegsKept s (s.setOrder ag po con) := by
  cases ag with
  | gang gid fid =>
    refine ⟨fun j => ?_, fun n => rfl⟩
    simp only [State.setOrder, State.gang?_updFrag]
    split
    · next h =>
      subst h
      cases s.gang? j with
      | none => rfl
      | some g =>
        simp only [Option.map_some, Option.some.injEq, Gang.bare]
        congr 1
        exact Frag.bare_upd (fun f => { f with po := po, con := con }) (fun _ => rfl) _ _
    · rfl
  | ctx n =>
    refine ⟨fun j => rfl, fun m => ?_⟩
    simp only [State.setOrder, State.ctx_updCtx]
    split
    · next h => subst h; rfl
    · rfl

/-- Issuing an operation leaves every register of every agent as it was. -/
theorem issueFlight_regs (s : State) (f : Flight) : RegsKept s (s.issueFlight f) := by
  have h := setOrder_bare ({ s with flights := s.flights.put f.id (s.inOrder f), nextId := s.nextId + 1 })
    f.ag (f.id :: (s.livePo f.ag).1)
    (if f.acq then Con.every f.id :: (s.livePo f.ag).2 else (s.livePo f.ag).2)
  exact ⟨fun j => h.1 j, fun n => h.2 n⟩

@[simp] theorem setOrder_flights (s : State) (ag : Agent) (po : List Nat) (con : List Con) :
    (s.setOrder ag po con).flights = s.flights := by cases ag <;> rfl

@[simp] theorem setOrder_nextId (s : State) (ag : Agent) (po : List Nat) (con : List Con) :
    (s.setOrder ag po con).nextId = s.nextId := by cases ag <;> rfl

/-- Issuing an operation adds it to those in flight. -/
theorem issueFlight_adds (s : State) (f : Flight) : AddsFlight s (s.issueFlight f) f := by
  refine ⟨?_, ?_, fun i hi => ?_⟩
  · simp [State.issueFlight, Tab.find?_put_same]
  · simp [State.issueFlight]
  · simp [State.issueFlight, Tab.find?_put_ne _ _ hi]

/-- Registers are kept from one state to the next. -/
theorem RegsKept.trans {s t u : State} (h : RegsKept s t) (k : RegsKept t u) : RegsKept s u :=
  ⟨fun j => (k.1 j).trans (h.1 j), fun n => (k.2 n).trans (h.2 n)⟩

theorem RegsKept.rfl' (s : State) : RegsKept s s := ⟨fun _ => rfl, fun _ => rfl⟩

/-- A leaf put into the TLBs changes the TLBs alone. -/
theorem tlbAdd_only (s : State) (unit pasid : Nat) (t : TrOk) : ∃ l, s.tlbAdd unit pasid t = { s with tlb := l } := by
  have put : ∀ (u : State) (k : Nat), ∃ l, u.tlbPut k pasid t = { u with tlb := l } := fun u k => by
    unfold State.tlbPut
    dsimp only
    split
    · exact ⟨u.tlb, rfl⟩
    · exact ⟨_, rfl⟩
  have all : ∀ (ks : List Nat) (u : State), ∃ l, ks.foldl (fun (u : State) k => u.tlbPut k pasid t) u = { u with tlb := l } := fun ks => by
    induction ks with
    | nil => exact fun u => ⟨u.tlb, rfl⟩
    | cons k ks ih =>
      intro u
      obtain ⟨l, hl⟩ := put u k
      obtain ⟨m, hm⟩ := ih (u.tlbPut k pasid t)
      exact ⟨m, by rw [List.foldl_cons, hm, hl]⟩
  unfold State.tlbAdd
  split
  · exact ⟨s.tlb, rfl⟩
  · exact all _ s

/-- A use of a leaf that is noted changes no register. -/
theorem noteUse_regs (s : State) (ag : Agent) (t : TrOk) : RegsKept s (s.noteUse ag t) := by
  obtain ⟨l, h⟩ := tlbAdd_only s (s.unitOf ag) (s.pasidOf ag) t
  unfold State.noteUse
  dsimp only
  rw [h]
  split <;> exact ⟨fun _ => rfl, fun _ => rfl⟩

/-- What stands after a bundle's checks has the registers of the state before. -/
theorem afterChecks_regs (s : State) (is : Issue) (l : List (AReq × TrOk)) : RegsKept s (afterChecks s is l) := by
  have h : RegsKept s (s.noteAll is.ag l) := by
    unfold State.noteAll
    generalize (l.map fun e => ({ e.2 with key := 0 } : TrOk)).eraseDups = r
    induction r generalizing s with
    | nil => exact RegsKept.rfl' s
    | cons a r ih => exact (noteUse_regs s is.ag a).trans (ih _)
  refine h.trans ?_
  unfold afterChecks State.dropHold
  split <;> exact ⟨fun _ => rfl, fun _ => rfl⟩

/-- A bundle whose effect issues one operation, of registers no other than `u`'s. -/
theorem flies_of {i : Instr} {s u v : State} {f : Flight} (hq : s.journal = []) (hr : RegsKept u v)
    (hx : exec i s = runOp s (v.issueFlight f)) : Flies i s u v f := by
  refine ⟨_, hx, ?_, ?_, fun k => by unfold State.peek; rw [hq]⟩
  · exact issueFlight_adds v f
  · exact hr.trans (issueFlight_regs v f)

end Sys2Proof.Machine
end

