-- ==== Sys2Proof/Laws/Memory.lean ====
section
/-!
SUPPORT. Laws of memory: every operation over it keeps the canonical form, and what a byte reads as afterwards.
-/
namespace Sys2Proof.Machine

/-- The write of a journal to a byte, if it touches it. -/
theorem applyJW_get (m : List Host.Cell) (w : JW) (k : Nat) :
    Tab.get 0 (applyJW m w) k = (journalAt [w] k).getD (Tab.get 0 m k) := by
  cases w with
  | byte j b =>
    simp only [applyJW, journalAt, Tab.get_set]
    by_cases h : j = k
    · subst h; simp
    · simp [h, Ne.symm h]
  | zeros lo n =>
    simp only [applyJW, journalAt, Tab.get_clear]
    split <;> simp
  | back j b =>
    simp only [applyJW, journalAt, Tab.get_set]
    by_cases h : j = k
    · subst h; simp
    · simp [h, Ne.symm h]
  | lose lo n =>
    simp only [applyJW, journalAt, Tab.get_clear]
    split <;> simp
  | block b => simp [applyJW, journalAt]

/-- A journal applied: a byte reads as its newest write, or as before. -/
theorem applyJournal_get (m : List Host.Cell) (j : List JW) (k : Nat) :
    Tab.get 0 (applyJournal m j) k = (journalAt j k).getD (Tab.get 0 m k) := by
  induction j with
  | nil => simp [applyJournal, journalAt]
  | cons w t ih =>
    rw [applyJournal, applyJW_get, ih]
    cases w <;> simp only [journalAt] <;> (try split) <;> simp

theorem Memory.wf_applyJW (m : List Host.Cell) (w : JW) (h : Memory.wf m = true) : Memory.wf (applyJW m w) = true := by
  cases w with
  | byte k b => exact Tab.wf_set 0 m k b h
  | zeros lo n => exact Tab.wf_clear 0 m lo n h
  | back k b => exact Tab.wf_set 0 m k b h
  | lose lo n => exact Tab.wf_clear 0 m lo n h
  | block b => exact h

theorem Memory.wf_applyJournal (m : List Host.Cell) (j : List JW) (h : Memory.wf m = true) :
    Memory.wf (applyJournal m j) = true := by
  induction j with
  | nil => exact h
  | cons w t ih => exact Memory.wf_applyJW _ w ih

theorem Memory.wf_storeBytes (m : List Host.Cell) (k : Nat) (l : List Byte) (h : Memory.wf m = true) :
    Memory.wf (storeBytes m k l) = true := by
  induction l generalizing m k with
  | nil => exact h
  | cons b t ih => exact ih _ _ (Tab.wf_set 0 m k b h)

theorem Memory.wf_foldl {α : Type} (f : List Host.Cell → α → List Host.Cell)
    (hf : ∀ m a, Memory.wf m = true → Memory.wf (f m a) = true) (l : List α) (m : List Host.Cell)
    (h : Memory.wf m = true) : Memory.wf (l.foldl f m) = true := by
  induction l generalizing m with
  | nil => exact h
  | cons a t ih => exact ih _ (hf m a h)

theorem Memory.wf_seatMem (m : List Host.Cell) (w : Nat) (h : Memory.wf m = true) : Memory.wf (seatMem m w) = true := by
  unfold seatMem
  refine Memory.wf_storeBytes _ _ _ (Memory.wf_storeBytes _ _ _ (Memory.wf_foldl _ ?_ _ _ (Memory.wf_storeBytes _ _ _ h)))
  intro m i hm
  exact Memory.wf_storeBytes _ _ _ hm

/-- What the state reads after a write in the event: the byte written there, elsewhere as before. -/
@[simp] theorem State.peek_poke (s : State) (k j : Nat) (b : Byte) :
    (s.poke k b).peek j = if k = j then b else s.peek j := by
  simp only [State.peek, State.poke, journalAt]
  split <;> simp

/-- The outcome of an event has the bytes that the event saw last. -/
theorem runEv_byte (s t : State) (k : Nat) (h : t.mem = s.mem) :
    ∃ u, runEv s t = .next u ∧ u.journal = [] ∧ Tab.get 0 u.mem k = t.peek k :=
  ⟨_, rfl, rfl, by rw [State.peek, h]; exact applyJournal_get _ _ _⟩

/-- The outcome of a bundle's part leaves every byte of memory as it was. -/
theorem runOp_byte (s t : State) : ∃ u, runOp s t = .next u ∧ u.journal = [] ∧ u.mem = s.mem := ⟨_, rfl, rfl, rfl⟩

end Sys2Proof.Machine
end

