-- ==== Sys2Proof/Tests/Slice0.lean ====
section
/-!
SUPPORT. The author's own tests: ill-formed terms refused, words written out from the spec's encodings decoded, single steps on small
states, and witnesses for the statements' hypotheses. Expected values are worked out by hand from the rules that each test names.
-/
set_option Elab.async false
namespace Sys2Proof.Tests
open Sys2Proof Sys2Proof.Machine

/-! ### Ill-formed terms are refused -/

/-- An operation word with every field zero. -/
def op0 : Opw := { sub := 0, gneg := false, gpred := 0, dst := 0, a := 0, b := 0, c := 0, aux := 0, imm := 0 }
/-- A control word with every field zero: SEQ. -/
def ctl0 : Ctl := { nsel := 0, ntgt := 0, npred := 0, nneg := false, rg := false, stall := 0, yld := false, rsv := 0 }

theorem test_wf_nop : WellFormed (.nop op0) = true := by decide +kernel
/-- SWAPO.IN has SUB 1 (15 R460): the fields select another row. -/
theorem test_ill_row : rowOk (.swapoIn op0) = false ∧ WellFormed (.swapoIn op0) = false := by decide +kernel
/-- IADD has no SUB 4 (13 Table 13.2). -/
theorem test_ill_sub : fieldsOk (.iadd { op0 with sub := 4 }) = false ∧ WellFormed (.iadd { op0 with sub := 4 }) = false := by
  decide +kernel
/-- A constant in DST raises ILLOP (11 R305). -/
theorem test_ill_constant_destination : WellFormed (.iadd { op0 with dst := 0x200 }) = false := by decide +kernel
/-- A V source with an S destination raises ILLOP (11 R309). -/
theorem test_ill_mixed_form : WellFormed (.iadd { op0 with dst := 0x105 }) = false := by decide +kernel
/-- JMP has NSEL 1 (11 Table 11.2). -/
theorem test_ill_form : formOk (.jmp ctl0) = false ∧ WellFormed (.jmp ctl0) = false := by decide +kernel
/-- BRU names K0 to K3 (11 Table 11.2). -/
theorem test_ill_control : ctlOk (.bru { ctl0 with nsel := 2, npred := 4 }) = false ∧
    WellFormed (.bru { ctl0 with nsel := 2, npred := 4 }) = false := by decide +kernel
/-- A cluster beyond the 32 of 01 R14. -/
theorem test_ill_part : partsOk (.kilnGrant 32) = false ∧ WellFormed (.kilnGrant 32) = false := by decide +kernel

/-! ### Words written out from the spec's encodings (11 Tables 11.1, 11.3) -/

/-- SWR SR_FPCTL, S9: OPC 0x02, SRCA the scalar, IMM32 the number (15 R454). -/
theorem test_decode_swr : decode 0x00000000020000042400000000000012 =
    some (.swr { sub := 0, gneg := false, gpred := 0, dst := 0x0, a := 0x109, b := 0x0, c := 0x0, aux := 0x0, imm := 0x12 },
      { nsel := 0, ntgt := 0x0, npred := 0, nneg := false, rg := false, stall := 0, yld := false, rsv := 0 }) := by decide +kernel

/-- WAITC C4, 3 with LOOP LC1 back by two bundles. -/
theorem test_decode_waitc : decode 0x6FFFE200090000001303000000000000 =
    some (.waitc { sub := 0, gneg := false, gpred := 0, dst := 0x0, a := 0x4, b := 0x303, c := 0x0, aux := 0x0, imm := 0x0 },
      { nsel := 6, ntgt := 0xfffe, npred := 1, nneg := false, rg := false, stall := 0, yld := false, rsv := 0 }) := by decide +kernel

/-- P3-guarded IMAD.WS32 V8:V9, V1, S2, V4:V5 with saturation off: SUB 4 (13 Table 13.2). -/
theorem test_decode_imad : decode 0x000000001410C0800502010000000000 =
    some (.imad { sub := 4, gneg := false, gpred := 3, dst := 0x8, a := 0x1, b := 0x102, c := 0x4, aux := 0x0, imm := 0x0 },
      { nsel := 0, ntgt := 0x0, npred := 0, nneg := false, rg := false, stall := 0, yld := false, rsv := 0 }) := by decide +kernel

/-- SHL V3, IMM32, 4 (inline constant index 4). -/
theorem test_decode_shl : decode 0x000000002500003803040000DEADBEEF =
    some (.shl { sub := 0, gneg := false, gpred := 0, dst := 0x3, a := 0x200, b := 0x304, c := 0x0, aux := 0x0, imm := 0xdeadbeef },
      { nsel := 0, ntgt := 0x0, npred := 0, nneg := false, rg := false, stall := 0, yld := false, rsv := 0 }) := by decide +kernel

/-- !P1-guarded FMAC.RZ.SAT V9, V1, V2, V9: AUX[37:36] the mode, AUX[35] SAT (11 R308). -/
theorem test_decode_fmac : decode 0x00000000320240900402025800000000 =
    some (.fmac { sub := 0, gneg := true, gpred := 1, dst := 0x9, a := 0x1, b := 0x2, c := 0x9, aux := 0x18, imm := 0x0 },
      { nsel := 0, ntgt := 0x0, npred := 0, nneg := false, rg := false, stall := 0, yld := false, rsv := 0 }) := by decide +kernel

/-- DADD V2:V3, V4:V5, 1.0. -/
theorem test_decode_dadd : decode 0x00000000480000201307000000000000 =
    some (.dadd { sub := 0, gneg := false, gpred := 0, dst := 0x2, a := 0x4, b := 0x307, c := 0x0, aux := 0x0, imm := 0x0 },
      { nsel := 0, ntgt := 0x0, npred := 0, nneg := false, rg := false, stall := 0, yld := false, rsv := 0 }) := by decide +kernel

/-- SHFL.FLIP.B64 V6:V7, V2:V3, V9, 8: SUB[1:0] 3, SUB[2] 1 (15 R451). -/
theorem test_decode_shfl : decode 0x00000000531C00600809C14000000000 =
    some (.shfl { sub := 7, gneg := false, gpred := 0, dst := 0x6, a := 0x2, b := 0x9, c := 0x305, aux := 0x0, imm := 0x0 },
      { nsel := 0, ntgt := 0x0, npred := 0, nneg := false, rg := false, stall := 0, yld := false, rsv := 0 }) := by decide +kernel

/-- PLOP P2, P1, K3, P0 with truth table 0x96 (14 R424). -/
theorem test_decode_plop : decode 0x0000000050000020040B000000000096 =
    some (.plop { sub := 0, gneg := false, gpred := 0, dst := 0x2, a := 0x1, b := 0xb, c := 0x0, aux := 0x0, imm := 0x96 },
      { nsel := 0, ntgt := 0x0, npred := 0, nneg := false, rg := false, stall := 0, yld := false, rsv := 0 }) := by decide +kernel

/-- LD.B64 V2:V3, [V4:V5 + S6 - 16] acquire at cluster scope: AUX[37:35] 2, AUX[34:33] 1 (11 R308, R316). -/
theorem test_decode_ld : decode 0x00000000601400201106001200FFFFF0 =
    some (.ld { sub := 5, gneg := false, gpred := 0, dst := 0x2, a := 0x4, b := 0x106, c := 0x0, aux := 0x12, imm := 0xfffff0 },
      { nsel := 0, ntgt := 0x0, npred := 0, nneg := false, rg := false, stall := 0, yld := false, rsv := 0 }) := by decide +kernel

/-- ST.B32 through buffer record 5: SUB[5] and IMM32[31:24] (11 R316). -/
theorem test_decode_st : decode 0x0000000061900000130001C005000040 =
    some (.st { sub := 36, gneg := false, gpred := 0, dst := 0x0, a := 0x4, b := 0x300, c := 0x7, aux := 0x0, imm := 0x5000040 },
      { nsel := 0, ntgt := 0x0, npred := 0, nneg := false, rg := false, stall := 0, yld := false, rsv := 0 }) := by decide +kernel

/-- CCTL.L2WB: SUB selects the row (12 R346). -/
theorem test_decode_cctl : decode 0x000000006B0800001300000000000000 =
    some (.cctlL2wb { sub := 2, gneg := false, gpred := 0, dst := 0x0, a := 0x4, b := 0x300, c := 0x0, aux := 0x0, imm := 0x0 },
      { nsel := 0, ntgt := 0x0, npred := 0, nneg := false, rg := false, stall := 0, yld := false, rsv := 0 }) := by decide +kernel

/-- RTRACE Q3, V16, S4:S5 (14 R438). -/
theorem test_decode_rtrace : decode 0x00000000790018304104000000000000 =
    some (.rtrace { sub := 0, gneg := false, gpred := 0, dst := 0x183, a := 0x10, b := 0x104, c := 0x0, aux := 0x0, imm := 0x0 },
      { nsel := 0, ntgt := 0x0, npred := 0, nneg := false, rg := false, stall := 0, yld := false, rsv := 0 }) := by decide +kernel

/-- CBARR [S4:S5 + 32], 1, S9 (12 R342). -/
theorem test_decode_cbarr : decode 0x00000000820000041301425000000020 =
    some (.cbarr { sub := 0, gneg := false, gpred := 0, dst := 0x0, a := 0x104, b := 0x301, c := 0x109, aux := 0x10, imm := 0x20 },
      { nsel := 0, ntgt := 0x0, npred := 0, nneg := false, rg := false, stall := 0, yld := false, rsv := 0 }) := by decide +kernel

/-- MLDW from a pair (14 R402). -/
theorem test_decode_mldw : decode 0x00000000900000042000000000000000 =
    some (.mldw { sub := 0, gneg := false, gpred := 0, dst := 0x0, a := 0x108, b := 0x0, c := 0x0, aux := 0x0, imm := 0x0 },
      { nsel := 0, ntgt := 0x0, npred := 0, nneg := false, rg := false, stall := 0, yld := false, rsv := 0 }) := by decide +kernel

/-- TMOV on a Lauter engine, descriptor base S12 (15 R462). -/
theorem test_decode_tmov : decode 0x00000000A00000043000000000000000 =
    some (.tmov { sub := 0, gneg := false, gpred := 0, dst := 0x0, a := 0x10c, b := 0x0, c := 0x0, aux := 0x0, imm := 0x0 },
      { nsel := 0, ntgt := 0x0, npred := 0, nneg := false, rg := false, stall := 0, yld := false, rsv := 0 }) := by decide +kernel

/-- GRES K1 (13 R375). -/
theorem test_decode_gres : decode 0x00000000B50000140903C04000000000 =
    some (.gres { sub := 0, gneg := false, gpred := 0, dst := 0x1, a := 0x102, b := 0x103, c := 0x301, aux := 0x0, imm := 0x0 },
      { nsel := 0, ntgt := 0x0, npred := 0, nneg := false, rg := false, stall := 0, yld := false, rsv := 0 }) := by decide +kernel

/-- NOP | JIND S6, stall 2, yield: NSEL 7, NTGT[5:0] the pair (11 Table 11.2). -/
theorem test_decode_nop_jind : decode 0x70006014000000000000000000000000 =
    some (.nop { sub := 0, gneg := false, gpred := 0, dst := 0x0, a := 0x0, b := 0x0, c := 0x0, aux := 0x0, imm := 0x0 },
      { nsel := 7, ntgt := 0x6, npred := 0, nneg := false, rg := false, stall := 2, yld := true, rsv := 0 }) := by decide +kernel

/-- OPC 0x1D is not assigned (11 R317): the decoder refuses the word. -/
theorem test_decode_unassigned : decode 0x000000001D0000000000000000000000 = none := by decide +kernel

/-- The sequencing forms are told apart by NSEL (11 Table 11.2), and the table's words of a form alone are those with a NOP. -/
theorem test_decode_forms :
    decodeTableWord 128 0x1FFFF000000000000000000000000000 = some (.jmp { ctl0 with nsel := 1, ntgt := 0xFFFF }) ∧
    decodeTableWord 128 0x30005500000000000000000000000000 = some (.brl { ctl0 with nsel := 3, ntgt := 5, npred := 2, nneg := true }) ∧
    decodeTableWord 128 0x50000000000000000000000000000000 = some (.retF { ctl0 with nsel := 5 }) ∧
    decodeTableWord 128 0x80000080000000000000000000000000 = some (.exitF { ctl0 with nsel := 8, rg := true }) := by decide +kernel

/-! ### Single steps

The bundle runs as the first one after reset, in a gang of 32 lanes (log entry 1); every register is at the value it has there. -/

/-- The state after that step. -/
def ran (w : Nat) : Option State :=
  match step (State.reset.withFetchWord 128 w) with
  | .next s => some s
  | _ => none
/-- The gang that ran it. -/
def gangAfter (w : Nat) : Option Gang := (ran w).bind fun s => s.gang? 2
/-- A lane of a V register afterwards. -/
def vAfter (w n l : Nat) : Option Nat := (gangAfter w).map fun g => (g.rdV n l).toNat
/-- An S register afterwards. -/
def sAfter (w n : Nat) : Option Nat := (gangAfter w).map fun g => (Tab.get 0 g.s n).toNat
/-- The program counter afterwards; the bundle stood at 256. -/
def pcAfter (w : Nat) : Option Nat := (gangAfter w).bind fun g => (g.frags.find? 3).map (·.pc)
/-- The causes recorded. -/
def causeAfter (w : Nat) : Option Nat := (gangAfter w).map fun g => g.cause.toNat
/-- The operations in flight afterwards, with the numbers of their accesses. -/
def flightsAfter (w : Nat) : Option (List Nat) := (ran w).map fun s => s.flights.map fun e => e.2.accs.length

/-- 0xFFFFFFFF + 1 = 0 modulo 2^32 (13 R380). -/
theorem test_iadd_wraps : vAfter 0x000000001000005803010000FFFFFFFF 5 7 = some 0 := by decide +kernel

/-- 2^31 - 1 + 1 held to 2^31 - 1 (13 R380, AUX[35]). -/
theorem test_iadd_saturates : vAfter 0x0000000010000058030100087FFFFFFF 5 7 = some 0x7FFFFFFF := by decide +kernel

/-- 4 - 8: SRCA minus SRCB. -/
theorem test_isub_order : vAfter 0x000000001100005C1305000000000000 5 7 = some 0xFFFFFFFC := by decide +kernel

/-- The high word of (-1) * 2 is -1 in S32. -/
theorem test_imulh_signed : vAfter 0x000000001300005C0B03000000000000 5 7 = some 0xFFFFFFFF := by decide +kernel

/-- The high word of 0xFFFFFFFF * 2 is 1 in Z32. -/
theorem test_imulh_unsigned : vAfter 0x000000001304005C0B03000000000000 5 7 = some 1 := by decide +kernel

/-- min(-1, 1) in S32. -/
theorem test_imin_signed : vAfter 0x000000001500005C0B01000000000000 5 7 = some 0xFFFFFFFF := by decide +kernel

/-- max(0xFFFFFFFF, 1) in Z32. -/
theorem test_imax_unsigned : vAfter 0x000000001604005C0702000000000000 5 7 = some 0xFFFFFFFF := by decide +kernel

/-- |-2^31| without SAT is -2^31 (13 R380). -/
theorem test_iabs_least : vAfter 0x00000000170000580000000080000000 5 7 = some 0x80000000 := by decide +kernel

/-- SHL by 32 gives 0 (15 R447). -/
theorem test_shl_width : vAfter 0x000000002500005C0600000000000020 5 7 = some 0 := by decide +kernel

/-- 1 << 31. -/
theorem test_shl_top : vAfter 0x000000002500005C070E000000000000 5 7 = some 0x80000000 := by decide +kernel

/-- SAR of -1 by 63 keeps the sign (15 R447). -/
theorem test_sar_sign : vAfter 0x000000002700005C0B0F000000000000 5 7 = some 0xFFFFFFFF := by decide +kernel

/-- CLZ of 0 is 32 (12 R348). -/
theorem test_clz_zero : vAfter 0x000000002C00005C0000000000000000 5 7 = some 32 := by decide +kernel

/-- 255 has eight ones. -/
theorem test_popc : vAfter 0x000000002B00005C3000000000000000 5 7 = some 8 := by decide +kernel

/-- BREV of 1. -/
theorem test_brev : vAfter 0x000000002D00005C0400000000000000 5 7 = some 0x80000000 := by decide +kernel

/-- LOGT with table 0xE8 (majority) of IMM-free sources 255, 31, 0 is 31 (13 R393). -/
theorem test_logt : vAfter 0x000000002400005C330EC000000000E8 5 7 = some 31 := by decide +kernel

/-- 1.0 + 2.0 = 3.0. -/
theorem test_fadd : vAfter 0x000000003000005C1F08000000000000 5 7 = some 0x40400000 := by decide +kernel

/-- 0 * infinity is the canonical NaN (04 R96). -/
theorem test_fmul_nan : vAfter 0x000000003100005C030A000000000000 5 7 = some 0x7FC00000 := by decide +kernel

/-- 0.5 * 2.0 + 1.0 = 2.0. -/
theorem test_fmac : vAfter 0x000000003200005C1B08C1C000000000 5 7 = some 0x40000000 := by decide +kernel

/-- 1.0 / 0 is infinity (13 R368). -/
theorem test_fdiv_zero : vAfter 0x000000004700005C1F00000000000000 5 7 = some 0x7F800000 := by decide +kernel

/-- The root of 4.0, given by IMM32. -/
theorem test_fsqrt : vAfter 0x00000000420000580000000040800000 5 7 = some 0x40000000 := by decide +kernel

/-- A guard of negated P0 makes the operation do nothing (11 R304). -/
theorem test_guard_off : vAfter 0x000000001002005C0701000000000000 5 7 = some 0 := by decide +kernel

/-- SR_LANE of lane 7 (11 Table 11.9). -/
theorem test_srd_lane : vAfter 0x00000000010000500000000000000000 5 7 = some 7 := by decide +kernel

/-- The sum of 1 over 32 active lanes (14 R436). -/
theorem test_redf_sum : vAfter 0x000000005400005C0400000000000000 5 7 = some 32 := by decide +kernel

/-- COUNT of P0 over 32 lanes (15 R472). -/
theorem test_vote_count : vAfter 0x00000000520C00500000000000000000 5 7 = some 32 := by decide +kernel

/-- SEL by P0 takes SRCA. -/
theorem test_sel : vAfter 0x000000001A00005C0703000000000000 5 7 = some 1 := by decide +kernel

/-- SR_GW, once for the fragment. -/
theorem test_srd_scalar : sAfter 0x00000000010010900000000000000003 9 = some 32 := by decide +kernel

/-- S8 = 8 + 4 by the scalar form (11 R309). -/
theorem test_iadd_scalar : sAfter 0x000000001000108C1704000000000000 8 = some 12 := by decide +kernel

/-- ICMP.LT.S32 P1, -1, 1 holds in every lane, ICMP.LT.Z32 in none (13 R381: SUB 8 t + c). -/
theorem test_icmp_signed : (gangAfter 0x000000001908001C0B01000000000000).map (fun g => g.rdP 1) = some (BitVec.ofNat 1024 (2 ^ 32 - 1)) ∧
    (gangAfter 0x000000001928001C0B01000000000000).map (fun g => g.rdP 1) = some 0 := by decide +kernel

/-- A write to P0 is discarded (02 R48). -/
theorem test_p0_discards : (gangAfter 0x000000001908000C0701000000000000).map (fun g => g.rdP 0) = some (BitVec.ofNat 1024 (2 ^ 1024 - 1)) := by decide +kernel

/-- MOV LC0, 5 | LOOP LC0 by +3 leaves 4 and branches (14 R414). -/
theorem test_mov_loop : (gangAfter 0x600030001B0800080000000000000005).bind (fun g => (g.frags.find? 3).map fun f => (f.lc[0]!.toNat, f.pc)) = some (4, 304) := by decide +kernel

/-- A NOP goes on at the next bundle. -/
theorem test_seq : pcAfter 0 = some 272 := by decide +kernel

/-- JMP back by one bundle (11 R301). -/
theorem test_jmp : pcAfter 0x1FFFF000000000000000000000000000 = some 240 := by decide +kernel

/-- BRU K0 falls through while K0 is false, BRU !K0 branches (12 R340). -/
theorem test_bru : pcAfter 0x20004000000000000000000000000000 = some 272 ∧ pcAfter 0x20004100000000000000000000000000 = some 320 := by decide +kernel

/-- CALL pushes the next bundle and goes to its target (12 R341). -/
theorem test_call : (gangAfter 0x40004000000000000000000000000000).bind (fun g => (g.frags.find? 3).map fun f => (f.frames.map (·.ret), f.pc)) = some ([272], 320) := by decide +kernel

/-- RET at call depth 0 raises ILLOP at decode (14 R437). -/
theorem test_ret_depth_zero : causeAfter 0x50000000000000000000000000000000 = some 1 := by decide +kernel

/-- JIND through S2:S3, both 0, goes to address 0. -/
theorem test_jind : pcAfter 0x70002000000000000000000000000000 = some 0 := by decide +kernel

/-- EXIT of every lane leaves no fragment (02 R41). -/
theorem test_exit : (gangAfter 0x80000000000000000000000000000000).any (fun g => !g.frags.isEmpty) = false := by decide +kernel

/-- An unassigned OPC raises ILLOP, SR_EPC is the bundle (09 R250, R251). -/
theorem test_illop : (gangAfter 0x000000001D0000000000000000000000).map (fun g => (g.cause.toNat, g.epc.toNat)) = some (1, 256) := by decide +kernel

/-- TRAP raises SWTRAP, bit 17 (15 R468, 09 Table 9.1). -/
theorem test_trap : causeAfter 0x00000000030000000000000000000000 = some (2 ^ 17) := by decide +kernel

/-- PTMAP in user mode raises PRIV, bit 1 (11 R318). -/
theorem test_privileged : (causeAfter 0x00000000B00000940904418000000000).map (fun c => c.testBit 1) = some true := by decide +kernel

/-- LD.B32 of 32 lanes is one operation with 32 accesses (05 R136). -/
theorem test_ld_flies : flightsAfter 0x00000000601000800B00000000000000 = some [32] := by decide +kernel

/-- An address that is no multiple of 4 raises MISALIGN, bit 7 (13 R389). -/
theorem test_ld_misaligned : causeAfter 0x00000000601000800B00000000000002 = some 128 := by decide +kernel

/-- STS to scratchpad. -/
theorem test_sts_flies : flightsAfter 0x00000000631000000B0001C000000000 = some [32] := by decide +kernel

/-- An offset at the declared 196,608 bytes raises SCRBOUND, bit 4 (09 R269). -/
theorem test_lds_bound : causeAfter 0x00000000621000800B00000000030000 = some 16 := by decide +kernel

/-- The word that withFetchWord places is the one that the next step decodes. -/
theorem test_ptp_fetch : (State.reset.withFetchWord 128 0x000000001000005C0701000000000000).peekN (0x300000 + 256) 16 = 0x000000001000005C0701000000000000 := by decide +kernel

/-! ### Witnesses

For each statement with hypotheses, a state and operands that meet them: a bundle as it begins to issue, the first after reset, in a machine
changed by `e` where it needs more than the placed kernel has. -/

/-- The bundle of bits `w` as it begins to issue. -/
def begun (e : State → State) (w : Nat) : Option (Instr × State × Issue) :=
  let s := e (State.reset.withFetchWord 128 w)
  match s.latch.map s.turn.startIssue with
  | some (.op i _ t) => t.issue.map fun is => (i, t, is)
  | some (.seq ctl t) => t.issue.map fun is => (seqInstr ctl, t, is)
  | _ => none

/-- The conditions of `Issues`, decided. -/
def issuesOk (i : Instr) (o : Opw) (s : State) (is : Issue) (bad : Issue → Bool) (rd : Issue → List RegId) (more : Issue → Nat) : Bool :=
  decide (s.issue = some is) && decide (s.journal = []) && decide (decodeCauses i o is s (bad is) (rd is) (more is) = 0) &&
    decide (scrOut i o s is = 0) && (jindTrap is).isNone && queuesReady s is (shapeOf is i) o &&
    ((shapeOf is i).dst.queueOf o.dst).isNone && !readsBad i o s is (rd is) &&
    match is.ag with | .gang gid fid => (s.frag? gid fid).isSome | .ctx _ => true

theorem issues_of_ok {i : Instr} {o : Opw} {s : State} {is : Issue} {bad : Issue → Bool} {rd : Issue → List RegId} {more : Issue → Nat}
    (h : issuesOk i o s is bad rd more = true) : Issues i o s is bad rd more := by
  simp only [issuesOk, Bool.and_eq_true, decide_eq_true_eq, Option.isNone_iff_eq_none, Bool.not_eq_true'] at h
  obtain ⟨⟨⟨⟨⟨⟨⟨⟨h1, h2⟩, h3⟩, h4⟩, h5⟩, h6⟩, h7⟩, h8⟩, h9⟩ := h
  exact ⟨h1, h2, h3, h4, h5, h6, h7, h8, fun gid fid hag => by rw [hag] at h9; exact h9⟩

/-- Does the bundle begin, as the operation that `mk` makes, in a state that meets `p`? -/
def found (e : State → State) (w : Nat) (mk : Opw → Instr) (p : Opw → State → Issue → Bool) : Bool :=
  match begun e w with
  | none => false
  | some (i, s, is) => match opParts i with
    | some (_, o) => decide (i = mk o) && p o s is
    | none => false

theorem of_found {e : State → State} {w : Nat} {mk : Opw → Instr} {p : Opw → State → Issue → Bool} (h : found e w mk p = true) :
    ∃ o s is, p o s is = true := by
  unfold found at h
  split at h
  · cases h
  · split at h
    · exact ⟨_, _, _, ((Bool.and_eq_true _ _).mp h).2⟩
    · cases h

/-- A bundle whose `Issues` and further conditions are met. -/
theorem issues_found {mk : Opw → Instr} {bad : Opw → State → Issue → Bool} {rd : Opw → State → Issue → List RegId}
    {more : Opw → State → Issue → Nat} {p : Opw → State → Issue → Prop} [∀ o s is, Decidable (p o s is)] (e : State → State) (w : Nat)
    (h : found e w mk (fun o s is => issuesOk (mk o) o s is (bad o s) (rd o s) (more o s) && decide (p o s is)) = true) :
    ∃ o s is, Issues (mk o) o s is (bad o s) (rd o s) (more o s) ∧ p o s is := by
  obtain ⟨o, s, is, hp⟩ := of_found h
  rw [Bool.and_eq_true, decide_eq_true_eq] at hp
  exact ⟨o, s, is, issues_of_ok hp.1, hp.2⟩

/-- The same for a bundle whose accesses pass their checks too. -/
theorem passing_found {mk : Opw → Instr} {bad : Opw → State → Issue → Bool} {p : Opw → State → Issue → Prop}
    [∀ o s is, Decidable (p o s is)] {path : Nat} {smask : Opw → State → Issue → LaneMask} {chk : PageCheck}
    {reqs : Opw → State → Issue → List AReq} (e : State → State) (w : Nat)
    (h : found e w mk (fun o s is => issuesOk (mk o) o s is (bad o s) noRd noMore && decide (p o s is) &&
      (s.runChunks is.ag path (smask o s is) chk (chunkOf ((reqs o s is).filter fun r =>
        smask o s is ≠ 0 ∨ !((s.skipOf is.ag).getLsbD r.lane)))).2.isNone) = true) :
    ∃ o s is l, Issues (mk o) o s is (bad o s) noRd noMore ∧ p o s is ∧ AllPass s is path (smask o s is) chk (reqs o s is) l := by
  obtain ⟨o, s, is, hp⟩ := of_found h
  rw [Bool.and_eq_true, Bool.and_eq_true, decide_eq_true_eq, Option.isNone_iff_eq_none] at hp
  exact ⟨o, s, is, _, issues_of_ok hp.1.1, hp.1.2, Prod.ext rfl hp.2⟩

/-- The placed gang changed. -/
def withGang (f : Gang → Gang) (s : State) : State := s.updGang 2 f
/-- Its S registers from `n` on hold the words of `x`. -/
def withS (n x : Nat) : State → State := withGang fun g => { g with s := (g.s.put n (BitVec.ofNat 32 x)) }
/-- A handler of the mode runs in its fragment. -/
def inHandler (m : Mode) (cause : Nat) : State → State := withGang fun g =>
  { g with cause := BitVec.ofNat 64 cause, trap := some { fid := 3, entered := true },
           slot := some { fid := 3, mode := m, fmt := 0, lc := Vector.replicate 4 0, frames := [], k := 0 } }
/-- Bytes on its code page, where virtual addresses below 4,096 stand. -/
def withBytes (off n x : Nat) (s : State) : State := { s with mem := storeBytes s.mem (seatCode + off) (toBytes n x) }

/-- The placed kernel's header changed. -/
def withKh (f : KHdr → KHdr) (s : State) : State := s.updGrid 0 fun r => { r with kh := f r.kh }
/-- The placed gang runs in node 0 of a graph of two nodes with `n` slots of 64 bytes. -/
def withGraph (n : Nat) (cask : Tab CaskSt) (s : State) : State :=
  let nd : GNode := { khdr := 0, recBytes := 64, batch := 32, prio := 0, timeout := 0, reserve := 0, open_ := [], lastAppend := 0 }
  { s.updGrid 0 (fun r => { r with kind := .node 9 0 }) with
    graphs := [(9, { addr := 0, grid := 0, part := 0, pasid := 0, lr := seatLaunch, slotLog2 := 6, slots := n, pool := 0, nodes := [nd, nd],
                     cask := cask, blocked := [], rootDone := false })] }
/-- Its active plane holds a block of format 0. -/
def withPlane (g : Gang) : Gang := { g with active := { g.active with held := true, fmt := 0 } }

/-- IntegerResults: IADD V5, 1, -1 without an enabled trap. -/
theorem witness_integer : ∃ o s is, Issues (.iadd o) o s is noBad noRd noMore ∧
    trapsOf (s.fpctlOf is.ag) 0 = 0 :=
  issues_found id 0x000000001000005C0702000000000000 (by decide +kernel)

/-- IntegerResults: IMAD of the wide form. -/
theorem witness_integer_pair : ∃ o s is, Issues (.imad o) o s is noBad noRd noMore ∧
    trapsOf (s.fpctlOf is.ag) 0 = 0 ∧ o.sub = 4 :=
  issues_found id 0x00000000141000800402010000000000 (by decide +kernel)

/-- LeaRule: the form of SUB 2. -/
theorem witness_lea : ∃ o s is, Issues (.lea o) o s is noBad noRd noMore ∧
    o.sub = 2 ∧ trapsOf (s.fpctlOf is.ag) 0 = 0 :=
  issues_found id 0x00000000180800800801C0C000000000 (by decide +kernel)

/-- BitwiseRule. -/
theorem witness_bitwise : ∃ o s is, Issues (.notB o) o s is noBad noRd noMore ∧
    trapsOf (s.fpctlOf is.ag) 0 = 0 :=
  issues_found id 0x00000000230000500400000000000000 (by decide +kernel)

/-- ShiftAndFieldResults. -/
theorem witness_shift : ∃ o s is, Issues (.bfi o) o s is noBad noRd noMore ∧
    trapsOf (s.fpctlOf is.ag) 0 = 0 :=
  issues_found id 0x000000002A0000500402C14000000000 (by decide +kernel)

/-- BrevRule. -/
theorem witness_brev : ∃ o s is, Issues (.brev o) o s is noBad noRd noMore ∧
    trapsOf (s.fpctlOf is.ag) 0 = 0 :=
  issues_found id 0x000000002D0400600800000000000000 (by decide +kernel)

/-- ClzRule. -/
theorem witness_clz : ∃ o s is, Issues (.clz o) o s is noBad noRd noMore ∧
    trapsOf (s.fpctlOf is.ag) 0 = 0 :=
  issues_found id 0x000000002C0400600800000000000000 (by decide +kernel)

/-- PopcRule. -/
theorem witness_popc : ∃ o s is, Issues (.popc o) o s is noBad noRd noMore ∧
    trapsOf (s.fpctlOf is.ag) 0 = 0 :=
  issues_found id 0x000000002B0400600800000000000000 (by decide +kernel)

/-- IcmpRule: a K destination from scalar sources. -/
theorem witness_icmp : ∃ o s is, Issues (.icmp o) o s is noBad noRd noMore ∧
    trapsOf (s.fpctlOf is.ag) 0 = 0 :=
  issues_found id 0x00000000190800940301000000000000 (by decide +kernel)

/-- The statements on queue destinations: a queue bound to a port that takes words. -/
theorem witness_push : found (withGang fun g => { g with q := g.q.set 1 { bind := 1, words := [] } }) 0x00000000100018140302000000000000
    .iadd (fun o s is => issuesOk (.iadd o) { o with dst := 0x100 } s is noBad noRd noMore &&
      decide ((shapeOf is (.iadd o)).dst.queueOf o.dst = some 1 ∧ decodeCauses (.iadd o) o is s false [] 0 = 0 ∧
        queuesReady s is (shapeOf is (.iadd o)) o = true ∧ (s.gang? 2).any (fun g => g.port 1 == 1))) = true := by decide +kernel


/-- IdivResults: a divisor of 4 in every lane. -/
theorem witness_idiv : ∃ o s is, Issues (.idiv o) o s is noBad noRd noMore ∧
    (∀ l ∈ effLanes s is (shape false (.idiv o)) o, srcB (.idiv o) o s is (takePops s is (shape false (.idiv o)) o) l ≠ 0) ∧ trapsOf (s.fpctlOf is.ag) 0 = 0 :=
  issues_found id 0x000000001C00005C1F04000000000000 (by decide +kernel)

/-- IdivZero: a divisor of 0. -/
theorem witness_idiv_zero : ∃ o s is, Issues (.idiv o) o s is noBad noRd noMore ∧
    ((effLanes s is (shape false (.idiv o)) o).filter fun l => srcB (.idiv o) o s is (takePops s is (shape false (.idiv o)) o) l = 0) ≠ [] :=
  issues_found id 0x000000001C00005C1F00000000000000 (by decide +kernel)

/-- MovToLoopCounter. -/
theorem witness_mov_to_counter : ∃ o s is, Issues (.mov o) o s is noBad noRd noMore ∧
    o.sub = 2 ∧ anyGuard s is o = true :=
  issues_found id 0x000000001B08001C0C00000000000000 (by decide +kernel)

/-- MovFromLoopCounter. -/
theorem witness_mov_from_counter : ∃ o s is, Issues (.mov o) o s is noBad noRd noMore ∧
    o.sub = 3 ∧ s.hazOf is.ag = [] :=
  issues_found id 0x000000001B0C00500400000000000000 (by decide +kernel)

/-- SelRule. -/
theorem witness_sel : ∃ o s is, Issues (.sel o) o s is noBad noRd noMore ∧
    is.ag = .gang 2 3 :=
  issues_found id 0x000000001A00005C0702004000000000 (by decide +kernel)

/-- FloatResults: 1.0 + 2.0 sets no flag. -/
theorem witness_float : ∃ o s is, Issues (.fadd o) o s is noBad noRd noMore ∧
    trapsOf (s.fpctlOf is.ag) 0 = 0 :=
  issues_found id 0x000000003000005C1F08000000000000 (by decide +kernel)

/-- SpecialFunctionResults. -/
theorem witness_special_function : ∃ o s is, Issues (.frcp o) o s is noBad noRd noMore ∧
    trapsOf (s.fpctlOf is.ag) 0 = 0 :=
  issues_found id 0x000000004000005C1C00000000000000 (by decide +kernel)

/-- FloatCompareResults. -/
theorem witness_float_compare : ∃ o s is, Issues (.fcmp o) o s is noBad noRd noMore ∧
    trapsOf (s.fpctlOf is.ag) 0 = 0 :=
  issues_found id 0x000000003500001C1F08000000000000 (by decide +kernel)

/-- FlagTraps: 1.0 / 0 with every trap enabled. -/
theorem witness_flag_trap : ∃ o s is, Issues (.fdiv o) o s is noBad noRd noMore ∧
    (let pp := (takePops s is (shape false (.fdiv o)) o)
    let r := fun l => fp32.finish (rndOf o) ((fp32.decode (srcA (.fdiv o) o s is pp l)).div (fp32.decode (srcB (.fdiv o) o s is pp l)))
    trapsOf (s.fpctlOf is.ag) ((effLanes s is (shape false (.fdiv o)) o).foldl (fun a l => a ||| (r l).2) 0) ≠ 0 ∧ (s.gang? 2).any (fun g => g.slot.isNone && g.trap.isNone)) :=
  issues_found (withGang fun g => { g with fpctl := 31 }) 0x000000004700005C1F00000000000000 (by decide +kernel)

/-- FlagTraps: REDF of a signalling NaN, and FDIV's quotient to a queue. -/
theorem witness_flag_trap_more :
    found (fun s => withGang (fun g => { g with fpctl := 31 }) (withS 4 0x7F800001 s)) 0x00000000540810541000000000000000 .redf (fun o s is =>
      issuesOk (.redf o) o s is noBad (fun _ => []) (fun _ => 0) && anyGuard s is o &&
      decide (trapsOf (s.fpctlOf is.ag) (redAll (o.sub.toNat / 8) (o.sub.toNat % 8) (rndOf o) ((activeLanes s is).map fun l =>
        srcVal s is o (shape false (.redf o)).a o.a (redWiden (o.sub.toNat % 8)) 1 (takePops s is (shape false (.redf o)) o).1.1 l)).2 ≠ 0)) = true := by
  decide +kernel

/-- PredicateResults: PLOP. -/
theorem witness_plop : ∃ o s is, Issues (.plop o) o s is noBad noRd noMore ∧
    is.ag = .gang 2 3 :=
  issues_found id 0x0000000050000020040200C000000096 (by decide +kernel)

/-- PredicateResults: PMOV to a predicate. -/
theorem witness_pmov_to : ∃ o s is, Issues (.pmov o) o s is noBad noRd noMore ∧
    o.sub = 0 :=
  issues_found id 0x00000000510000200400000000000000 (by decide +kernel)

/-- PredicateResults: PMOV of a mask of predicates. -/
theorem witness_pmov_pack : ∃ o s is, Issues (.pmov o) o s is noBad (fun _ => if o.sub = 2 then ((List.range 8).filter fun n => o.imm.getLsbD n).map fun n => if o.imm.getLsbD 8 then RegId.k n else .p n else []) noMore ∧
    o.sub = 2 :=
  issues_found id 0x00000000510800500000000000000006 (by decide +kernel)

/-- UnpackResults: to P registers. -/
theorem witness_pmov_unpack : ∃ o s is, Issues (.pmov o) o s is noBad (fun _ => []) noMore ∧
    o.sub = 3 ∧ o.imm.getLsbD 8 = false :=
  issues_found id 0x00000000510C00001400000000000006 (by decide +kernel)

/-- UnpackResults: to K registers. -/
theorem witness_pmov_unpack_k : ∃ o s is, Issues (.pmov o) o s is noBad (fun _ => []) noMore ∧
    o.sub = 3 ∧ o.imm.getLsbD 8 = true ∧ anyGuard s is o = true :=
  issues_found id 0x00000000510C00041400000000000106 (by decide +kernel)

/-- VoteResults: BALLOT. -/
theorem witness_vote : ∃ o s is, Issues (.vote o) o s is noBad noRd noMore ∧
    o.sub = 2 :=
  issues_found id 0x00000000520800500700000000000000 (by decide +kernel)

/-- ShuffleResults: segments of 8. -/
theorem witness_shfl : ∃ o s is, Issues (.shfl o) o s is (fun is => !segOk (uniVal s is o (shape false (.shfl o)).c o.c 3)) noRd noMore ∧
    is.ag = .gang 2 3 :=
  issues_found id 0x00000000530800500402C14000000000 (by decide +kernel)

/-- ReductionResults: an integer sum. -/
theorem witness_redf : ∃ o s is, Issues (.redf o) o s is noBad noRd noMore ∧
    anyGuard s is o = true ∧ trapsOf (s.fpctlOf is.ag) 0 = 0 :=
  issues_found id 0x00000000540000500400000000000000 (by decide +kernel)

/-- ReductionResults: SCANF. -/
theorem witness_scanf : ∃ o s is, Issues (.scanf o) o s is noBad noRd noMore ∧
    anyGuard s is o = true :=
  issues_found id 0x00000000550000500400000000000000 (by decide +kernel)

/-- ReductionResults: MATCH. -/
theorem witness_match : ∃ o s is, Issues (.matchV o) o s is noBad noRd noMore ∧
    o.sub.toNat / 2 = 1 :=
  issues_found id 0x00000000560800500400000000000000 (by decide +kernel)

/-- NopRule. -/
theorem witness_nop : ∃ o s is, Issues (.nop o) o s is noBad noRd noMore ∧
    is.ag = .gang 2 3 :=
  issues_found id 0x00000000000000000000000000000000 (by decide +kernel)

/-- SrdResults: SR_LANE. -/
theorem witness_srd : ∃ o s is, Issues (.srd o) o s is noBad noRd noMore ∧
    srInfo (o.imm.toNat % 65536) = some (1, true, 0, 3) ∧ is.ag = .gang 2 3 :=
  issues_found id 0x00000000010000500000000000000000 (by decide +kernel)

/-- SwrResults: an FMT of 0. -/
theorem witness_swr_fmt : ∃ o s is, Issues (.swr o) o s is noBad noRd noMore ∧
    anyGuard s is o = true ∧ o.imm.toNat % 65536 = 0x010 ∧ fmtOk (srcA (.swr o) o s is (takePops s is (shape false (.swr o)) o) 0) = true ∧ (s.gang? 2).isSome = true :=
  issues_found id 0x00000000020000040000000000000010 (by decide +kernel)

/-- SwrResults: an FMT that no field allows. -/
theorem witness_swr_bad_fmt : ∃ o s is, Issues (.swr o) o s is noBad noRd noMore ∧
    anyGuard s is o = true ∧ o.imm.toNat % 65536 = 0x010 ∧ fmtOk (srcA (.swr o) o s is (takePops s is (shape false (.swr o)) o) 0) = false :=
  issues_found (withS 9 0xFFFFFFFF) 0x00000000020000042400000000000010 (by decide +kernel)

/-- RegisterMovesComplete: a guard that holds nowhere. -/
theorem witness_swr_false : ∃ o s is, Issues (.swr o) o s is noBad noRd noMore ∧
    anyGuard s is o = false :=
  issues_found id 0x00000000020200040000000000000012 (by decide +kernel)

/-- TrapAfterOps. -/
theorem witness_trap : ∃ o s is, Issues (.trap o) o s is noBad noRd noMore ∧
    anyGuard s is o = true :=
  issues_found id 0x00000000030000000000000000000000 (by decide +kernel)

/-- TrapAfterOps: BKPT. -/
theorem witness_bkpt : ∃ o s is, Issues (.bkpt o) o s is noBad noRd noMore ∧
    anyGuard s is o = true :=
  issues_found id 0x000000000F0000000000000000000000 (by decide +kernel)

/-- CclrResult: in a user handler. -/
theorem witness_cclr : ∃ o s is, Issues (.cclr o) o s is noBad noRd noMore ∧
    anyGuard s is o = true ∧ (s.gang? 2).any (fun g => g.mode == .userHandler) :=
  issues_found (inHandler .userHandler (2 ^ 17)) 0x00000000050000040000000000000000 (by decide +kernel)

/-- HretResumes: no cause but HALTSIB stands. -/
theorem witness_hret : ∃ o s is, Issues (.hret o) o s is noBad noRd noMore ∧
    (∃ g ∈ (s.gang? 2).toList, g.slot.isSome = true ∧ g.trap.isSome = true ∧ (s.wgs.find? g.wid).isSome = true ∧
      g.cause.toNat &&& (2 ^ 64 - 1 - cHALTSIB) = 0 ∧ s.gangs.length = 1) :=
  issues_found (inHandler .supHandler cHALTSIB) 0x00000000040000000000000000000000 (by decide +kernel)

/-- HretReenters: SWTRAP still stands. -/
theorem witness_hret_again : ∃ o s is, Issues (.hret o) o s is noBad noRd noMore ∧
    (∃ g ∈ (s.gang? 2).toList, g.slot.isSome = true ∧ g.cause.toNat &&& (2 ^ 64 - 1 - cHALTSIB) ≠ 0) :=
  issues_found (inHandler .supHandler (2 ^ 17)) 0x00000000040000000000000000000000 (by decide +kernel)

/-- DecodeCausesTrap: IADD with a constant destination, and PTMAP in user mode, in a gang without a trap. -/
theorem witness_decode_causes :
    found id 0x00000000100020000402000000000000 .iadd (fun o s is => (shape false (.iadd o)).illop o && decide (s.issue = some is ∧ s.journal = []) &&
      (s.gang? 2).any fun g => g.slot.isNone && g.trap.isNone && (g.frags.find? 3).isSome && (s.wgs.find? g.wid).isSome) = true ∧
    found id 0x00000000B000100C0000000000000000 .ptmap (fun o s _ => decide ((shape false (.ptmap o)).mode = 2) && (s.gang? 2).any fun g => g.mode != .supHandler)
      = true := by decide +kernel


/-- DoubleFault: a gang in its handler. -/
theorem witness_double_fault : ∃ (s : State) (g : Gang) (f : Frag) (w : Wg) (sl : Slot), s.gang? 2 = some g ∧ g.frags.find? 3 = some f ∧
    g.slot = some sl ∧ s.wgs.find? g.wid = some w :=
  ⟨inHandler .supHandler 1 (State.reset.withFetchWord 128 0), _, _, _, _, rfl, rfl, rfl, rfl⟩


/-- ModeChecks: a gang in user mode, and a MOV of an H register in a user handler. -/
theorem witness_modes :
    found id 0 .nop (fun _ s is => decide (is.ag = .gang 2 3) && (s.gang? 2).any fun g => g.mode == .user) = true ∧
    found (inHandler .userHandler 1) 0x000000001B0010070800000000000000 .mov (fun o s _ => decide (o.sub = 0 ∧ opnd o.a = .h 2) &&
      (s.gang? 2).any fun g => g.mode != .supHandler) = true := by decide +kernel


/-- BAR on barrier 1. -/
theorem witness_bar : ∃ o s is, Issues (.bar o) o s is noBad noRd (barDecode (.bar o) o s) ∧
    (∃ g ∈ (s.gang? 2).toList, ∃ w ∈ (s.wgs.find? g.wid).toList, uniVal s is o (shape false (.bar o)).a o.a 1 % 256 < (s.khOf g).barriers ∧ uniVal s is o (shape false (.bar o)).a o.a 1 % 256 < w.bars.length) ∧ anyGuard s is o = true ∧ uniVal s is o (shape false (.bar o)).b o.b 2 ≤ 32768 :=
  issues_found id 0x000000000600000C0700000000000000 (by decide +kernel)

/-- BARA on barrier 1. -/
theorem witness_bara : ∃ o s is, Issues (.bara o) o s is noBad noRd (barDecode (.bara o) o s) ∧
    (∃ g ∈ (s.gang? 2).toList, ∃ w ∈ (s.wgs.find? g.wid).toList, uniVal s is o (shape false (.bara o)).a o.a 1 % 256 < (s.khOf g).barriers ∧ uniVal s is o (shape false (.bara o)).a o.a 1 % 256 < w.bars.length) ∧ anyGuard s is o = true ∧ uniVal s is o (shape false (.bara o)).b o.b 2 ≤ 32768 :=
  issues_found id 0x000000000700000C0705000000000000 (by decide +kernel)

/-- BARW on barrier 1. -/
theorem witness_barw : ∃ o s is, Issues (.barw o) o s is noBad noRd (barDecode (.barw o) o s) ∧
    (∃ g ∈ (s.gang? 2).toList, ∃ w ∈ (s.wgs.find? g.wid).toList, uniVal s is o (shape false (.barw o)).a o.a 1 % 256 < (s.khOf g).barriers ∧ uniVal s is o (shape false (.barw o)).a o.a 1 % 256 < w.bars.length) ∧ anyGuard s is o = true ∧ (s.gang? 2).any (fun g => (g.lastArr.find? 1).isSome) :=
  issues_found (withGang fun g => { g with lastArr := [(1, 0)] }) 0x000000000800000C0400000000000000 (by decide +kernel)

/-- WaitcResult and SyncCompletes: no operation is counted. -/
theorem witness_waitc : ∃ o s is, Issues (.waitc o) o s is noBad noRd noMore ∧
    anyGuard s is o = true ∧ s.counter is.ag (o.a.toNat % 8) ≤ uniVal s is o (shape false (.waitc o)).b o.b 2 :=
  issues_found id 0x00000000090000000300000000000000 (by decide +kernel)

/-- SleepResult: of 0 cycles. -/
theorem witness_sleep : ∃ o s is, Issues (.sleep o) o s is noBad noRd noMore ∧
    anyGuard s is o = true ∧ uniVal s is o (shape false (.sleep o)).a o.a 1 = 0 :=
  issues_found id 0x000000000E00000C0000000000000000 (by decide +kernel)

/-- SleepResult: of 4 cycles. -/
theorem witness_sleep_on : ∃ o s is, Issues (.sleep o) o s is noBad noRd noMore ∧
    anyGuard s is o = true ∧ uniVal s is o (shape false (.sleep o)).a o.a 1 ≠ 0 ∧ (s.frag? 2 3).isSome = true :=
  issues_found id 0x000000000E00000C1000000000000000 (by decide +kernel)

/-- FenceResult: an acquire at cluster scope. -/
theorem witness_fence : ∃ o s is, Issues (.fence o) o s is noBad noRd noMore ∧
    anyGuard s is o = true ∧ is.ag = .gang 2 3 ∧ scopeOfAux o = 2 :=
  issues_found id 0x000000000A0000000000001200000000 (by decide +kernel)

/-- FencexResult: from NMO to LSU. -/
theorem witness_fencex : ∃ o s is, Issues (.fencex o) o s is noBad noRd noMore ∧
    anyGuard s is o = true ∧ is.ag = .gang 2 3 :=
  issues_found id 0x000000000B0000000000001200000140 (by decide +kernel)

/-- MonResult: the line at address 256. -/
theorem witness_mon : ∃ o s is l, Issues (.mon o) o s is noBad noRd noMore ∧
    (anyGuard s is o = true ∧ s.counterFull is.ag 6 = false) ∧
    AllPass s is 6 (guardMask s is o) noTier3 ([{ lane := 0, va := genAddr o (srcVal s is o (shape false (.mon o)).a o.a .raw 1 [] 0) (uniVal s is o (shape false (.mon o)).b o.b 2), size := max (match o.sub.toNat with | 0 => 4 | 1 => 8 | _ => 0) 1, align := max (match o.sub.toNat with | 0 => 4 | 1 => 8 | _ => 0) 1, acc := .read }]) l :=
  passing_found id 0x000000000C0010940300000000000100 (by decide +kernel)

/-- MwaitResult: no monitor is armed. -/
theorem witness_mwait : ∃ o s is, Issues (.mwait o) o s is noBad noRd noMore ∧
    anyGuard s is o = true ∧ (s.gang? 2).any (fun g => !g.mon.armed) :=
  issues_found id 0x000000000D00009C0000000000000000 (by decide +kernel)

/-- MwaitResult: an armed monitor. -/
theorem witness_mwait_on : ∃ o s is, Issues (.mwait o) o s is noBad noRd noMore ∧
    anyGuard s is o = true ∧ (s.gang? 2).any (fun g => g.mon.armed && !g.mon.fired) :=
  issues_found (withGang fun g => { g with mon := { line := 0, va := 0, armed := true, fired := false } }) 0x000000000D00009C0000000000000000 (by decide +kernel)

/-- FalseGuard: the guard !P0. -/
theorem witness_false_guard : ∃ o s is, Issues (.waitc o) o s is noBad noRd noMore ∧
    anyGuard s is o = false :=
  issues_found id 0x00000000090200000300000000000000 (by decide +kernel)

/-- LdResult: the generic form. -/
theorem witness_ld : ∃ o s is l, Issues (.ld o) o s is (brBad o s) noRd noMore ∧
    (s.counterFull is.ag 0 = false ∧ o.sub.getLsbD 5 = false ∧ opnd o.dst = .v 8 ∧ sizeBytes (o.sub.toNat % 32) = 4) ∧
    AllPass s is 0 0 (regAccess 4) (laneReqs (.ld o) o s is (takePops s is (shape false (.ld o)) o) (s.lanesAg is.ag (guardMask s is o)) (sizeBytes (o.sub.toNat % 32)) .read) l :=
  passing_found id 0x00000000601000840300000000000200 (by decide +kernel)

/-- StResult: the generic form. -/
theorem witness_st : ∃ o s is l, Issues (.st o) o s is (brBad o s) noRd noMore ∧
    (s.counterFull is.ag 0 = false ∧ o.sub.getLsbD 5 = false ∧ sizeBytes (o.sub.toNat % 32) = 4) ∧
    AllPass s is 0 0 (regAccess 4) (laneReqs (.st o) o s is (takePops s is (shape false (.st o)) o) (s.lanesAg is.ag (actLanes s is o)) (sizeBytes (o.sub.toNat % 32)) .write) l :=
  passing_found id 0x00000000611000040300020000000200 (by decide +kernel)

/-- LdkResult. -/
theorem witness_ldk : ∃ o s is l, Issues (.ldk o) o s is noBad noRd noMore ∧
    (anyGuard s is o = true ∧ s.counterFull is.ag 0 = false ∧ opnd o.dst = .s 8 ∧ sizeBytes (o.sub.toNat % 32) = 8) ∧
    AllPass s is 0 (guardMask s is o) (regAccess 8) ([{ lane := 0, va := genAddr o (srcVal s is o (shape false (.ldk o)).a o.a .raw 1 [] 0) (uniVal s is o (shape false (.ldk o)).b o.b 2), size := sizeBytes (o.sub.toNat % 32), align := sizeBytes (o.sub.toNat % 32), acc := .read }]) l :=
  passing_found id 0x00000000641410840300000000000200 (by decide +kernel)

/-- StkResult. -/
theorem witness_stk : ∃ o s is l, Issues (.stk o) o s is noBad noRd noMore ∧
    (anyGuard s is o = true ∧ s.counterFull is.ag 0 = false ∧ sizeBytes (o.sub.toNat % 32) = 8) ∧
    AllPass s is 0 (guardMask s is o) (regAccess 8) ([{ lane := 0, va := genAddr o (srcVal s is o (shape false (.stk o)).a o.a .raw 1 [] 0) (uniVal s is o (shape false (.stk o)).b o.b 2), size := sizeBytes (o.sub.toNat % 32), align := sizeBytes (o.sub.toNat % 32), acc := .write }]) l :=
  passing_found id 0x00000000651400040300420000000200 (by decide +kernel)

/-- LdsResult: the last word of the scratchpad. -/
theorem witness_lds : ∃ o s is, Issues (.lds o) o s is noBad noRd noMore ∧
    s.counterFull is.ag 0 = false ∧ s.scrOf is.ag = some (1, 196608) ∧
      ∀ k ∈ s.lanesAg is.ag (guardMask s is o), 0 ≤ exactSum o (srcA (.lds o) o s is (takePops s is (shape false (.lds o)) o) k) (srcB (.lds o) o s is (takePops s is (shape false (.lds o)) o) k) ∧
        exactSum o (srcA (.lds o) o s is (takePops s is (shape false (.lds o)) o) k) (srcB (.lds o) o s is (takePops s is (shape false (.lds o)) o) k) + 4 ≤ 196608 ∧
        exactSum o (srcA (.lds o) o s is (takePops s is (shape false (.lds o)) o) k) (srcB (.lds o) o s is (takePops s is (shape false (.lds o)) o) k) % 4 = 0 :=
  issues_found id 0x000000006210008C030000000002FFFC (by decide +kernel)

/-- StsResult. -/
theorem witness_sts : ∃ o s is, Issues (.sts o) o s is noBad noRd noMore ∧
    s.counterFull is.ag 0 = false ∧ s.scrOf is.ag = some (1, 196608) ∧
      ∀ k ∈ s.lanesAg is.ag (actLanes s is o), 0 ≤ exactSum o (srcA (.sts o) o s is (takePops s is (shape false (.sts o)) o) k) (srcB (.sts o) o s is (takePops s is (shape false (.sts o)) o) k) ∧
        exactSum o (srcA (.sts o) o s is (takePops s is (shape false (.sts o)) o) k) (srcB (.sts o) o s is (takePops s is (shape false (.sts o)) o) k) + 4 ≤ 196608 ∧
        exactSum o (srcA (.sts o) o s is (takePops s is (shape false (.sts o)) o) k) (srcB (.sts o) o s is (takePops s is (shape false (.sts o)) o) k) % 4 = 0 :=
  issues_found id 0x000000006310000C0300020000000000 (by decide +kernel)

/-- AtomsResult. -/
theorem witness_atoms : ∃ o s is, Issues (.atoms o) o s is noBad noRd noMore ∧
    homeOpOf (o.sub.toNat % 32) = some (.add 32, 32, 1) ∧ s.counterFull is.ag 0 = false ∧ s.scrOf is.ag = some (1, 196608) ∧
      ∀ k ∈ s.lanesAg is.ag (actLanes s is o), 0 ≤ exactSum o (srcA (.atoms o) o s is (takePops s is (shape false (.atoms o)) o) k) (srcB (.atoms o) o s is (takePops s is (shape false (.atoms o)) o) k) ∧
        exactSum o (srcA (.atoms o) o s is (takePops s is (shape false (.atoms o)) o) k) (srcB (.atoms o) o s is (takePops s is (shape false (.atoms o)) o) k) + 4 ≤ 196608 ∧
        exactSum o (srcA (.atoms o) o s is (takePops s is (shape false (.atoms o)) o) k) (srcB (.atoms o) o s is (takePops s is (shape false (.atoms o)) o) k) % 4 = 0 :=
  issues_found id 0x000000006700008C0300024000000040 (by decide +kernel)

/-- ScrBound: the first offset past the scratchpad. -/
theorem witness_scr_bound : found id 0x000000006210008C030000000002FFFD .lds (fun o s is => decide (decodeCauses (.lds o) o is s false [] 0 = 0) &&
    queuesReady s is (shape false (.lds o)) o && (s.lanesAg is.ag is.mask).any fun k =>
      decide (exactSum o (srcA (.lds o) o s is (takePops s is (shape false (.lds o)) o) k)
        (srcB (.lds o) o s is (takePops s is (shape false (.lds o)) o) k) + 4 > 196608)) = true := by decide +kernel


/-- AtomResult. -/
theorem witness_atom : ∃ o s is l, Issues (.atom o) o s is (brBad o s) noRd noMore ∧
    (homeOpOf (o.sub.toNat % 32) = some (.add 32, 32, 1) ∧ o.sub.getLsbD 5 = false ∧ s.counterFull is.ag 0 = false) ∧
    AllPass s is 0 0 (homeCheck (.add 32)) (rmwReqs (.add 32) 32 (s.lanesAg is.ag (actLanes s is o)) fun k => wrapInt (exactSum o (srcA (.atom o) o s is (takePops s is (shape false (.atom o)) o) k) (srcB (.atom o) o s is (takePops s is (shape false (.atom o)) o) k)) 64) l :=
  passing_found id 0x00000000660000840300024000000200 (by decide +kernel)

/-- RedResult. -/
theorem witness_red : ∃ o s is l, Issues (.red o) o s is (brBad o s) noRd noMore ∧
    (homeOpOf (o.sub.toNat % 32) = some (.add 32, 32, 1) ∧ o.sub.getLsbD 5 = false ∧ s.counterFull is.ag 0 = false) ∧
    AllPass s is 0 0 (homeCheck (.add 32)) (rmwReqs (.add 32) 32 (s.lanesAg is.ag (actLanes s is o)) fun k => wrapInt (exactSum o (srcA (.red o) o s is (takePops s is (shape false (.red o)) o) k) (srcB (.red o) o s is (takePops s is (shape false (.red o)) o) k)) 64) l :=
  passing_found id 0x00000000680000040300024000000200 (by decide +kernel)

/-- NmopResult: the scalar form. -/
theorem witness_nmop : ∃ o s is l, Issues (.nmop o) o s is (brBad o s) noRd noMore ∧
    (homeOpOf (o.sub.toNat % 32) = some (.add 32, 32, 1) ∧ o.sub.getLsbD 5 = false ∧ nmopScalar o = true ∧ s.counterFull is.ag 6 = false ∧ guardMask s is o ≠ 0) ∧
    AllPass s is 6 (guardMask s is o) (homeCheck (.add 32)) (rmwReqs (.add 32) 32 ([0]) fun k => wrapInt (nmopSum o (srcA (.nmop o) o s is (takePops s is (shape false (.nmop o)) o) k) (srcB (.nmop o) o s is (takePops s is (shape false (.nmop o)) o) k)) 64) l :=
  passing_found id 0x00000000690010840300424000000200 (by decide +kernel)

/-- GatherIndex: an index byte of 255. -/
theorem witness_gather : ∃ o s is, Issues (.nmop o) o s is (brBad o s) noRd noMore ∧
    homeOpOf (o.sub.toNat % 32) = some (.gath8, 256, 2) ∧ s.counterFull is.ag (nmoPath is.ag) = false ∧ nmopScalar o = false ∧
      actLanes s is o ≠ 0 ∧
      ((s.lanesAg is.ag (actLanes s is o)).filter fun k => gathBad (srcC (.nmop o) o s is (takePops s is (shape false (.nmop o)) o) k)) ≠ [] :=
  issues_found (withGang fun g => { g with v := [(vKey 8 0, 0xFF)] }) 0x00000000696801040300020000000200 (by decide +kernel)

/-- PrefResult. -/
theorem witness_pref : ∃ o s is, Issues (.pref o) o s is (brBad o s) noRd noMore ∧
    is.ag = .gang 2 3 :=
  issues_found id 0x000000006A0000040300000000000200 (by decide +kernel)

/-- CctlCoreResult: IINV. -/
theorem witness_iinv : ∃ o s is, Issues (.cctlIinv o) o s is noBad noRd noMore ∧
    anyGuard s is o = true ∧ s.counterFull is.ag 0 = false :=
  issues_found id 0x000000006B0000000000001000000000 (by decide +kernel)

/-- CctlCoreResult: L1INV. -/
theorem witness_l1inv : ∃ o s is, Issues (.cctlL1inv o) o s is noBad noRd noMore ∧
    anyGuard s is o = true ∧ s.counterFull is.ag 0 = false :=
  issues_found id 0x000000006B0400000000000000000000 (by decide +kernel)

/-- L2Result: a range of 63 bytes. -/
theorem witness_l2wb : ∃ o s is l, Issues (.cctlL2wb o) o s is noBad noRd noMore ∧
    (s.counterFull is.ag 0 = false) ∧
    AllPass s is 0 0 noReg ((s.lanesAg is.ag (guardMask s is o)).flatMap fun k =>
      let pp := takePops s is (shape false (.cctlL2wb o)) o
      let va := genAddr o (srcA (.cctlL2wb o) o s is pp k) (srcB (.cctlL2wb o) o s is pp k)
      if srcC (.cctlL2wb o) o s is pp k = 0 then [] else l2Reqs k (va / 128 * 128) (alignUp (va + srcC (.cctlL2wb o) o s is pp k) 128)) l :=
  passing_found id 0x000000006B0800040300C3C000000200 (by decide +kernel)

/-- SampResult: an image of one texel and a sampler of zeros. -/
theorem witness_samp : ∃ o s is, Issues (.samp o) o s is noBad noRd noMore ∧
    s.counterFull is.ag 1 = false ∧ texWait s is = [] ∧ guardMask s is o ≠ 0 ∧
      (match s.agFetch is.ag 1 0 0x800 64 with
        | .ok x t => !(parseImage x).bad && (match t.agFetch is.ag 1 0 0x840 32 with | .ok y _ => !(parseSampler y).bad | _ => false)
        | _ => false) = true ∧ srcVal s is o (shape false (.samp o)).a o.a .raw 1 [] 0 = 0x800 ∧
      srcVal s is o (shape false (.samp o)).b o.b .raw 2 [] 0 = 0x840 ∧
      (s.gang? 2).any (fun g => !g.chk.getLsbD 0 && decide (o.c.toNat % 256 + 2 ≤ (s.khOf g).vregs)) = true :=
  issues_found (fun s => withBytes 0x800 64 0xA0C010001000100010000000000000000 (withS 4 0x800 (withS 6 0x840 s))) 0x00000000700000841106040000000000 (by decide +kernel)

/-- SampIllop: coordinates of SAMPL at an odd register. -/
theorem witness_samp_illop : ∃ o s is, Issues (.sampl o) o s is noBad noRd noMore ∧
    guardMask s is o ≠ 0 ∧
      (match s.agFetch is.ag 1 0 0x800 64 with
        | .ok x _ => !(parseImage x).bad && SampKind.regs .sampl (parseImage x) == 2 | _ => false) = true ∧ o.c.toNat % 256 % 2 ≠ 0 :=
  issues_found (fun s => withBytes 0x800 64 0xA0C010001000100010000000000000000 (withS 4 0x800 (withS 6 0x840 s))) 0x00000000720000841106044000000000 (by decide +kernel)

/-- ImldResult. -/
theorem witness_imld : ∃ o s is, Issues (.imld o) o s is noBad noRd noMore ∧
    s.counterFull is.ag 1 = false ∧ texWait s is = [] ∧ guardMask s is o ≠ 0 ∧
      (match s.agFetch is.ag 1 0 0x800 64 with
        | .ok x t => !(parseImage x).bad && imageRange s is (o.b.toNat % 256) (parseImage x).coords == 0 &&
            (t.runChunks is.ag 1 0 noReg (chunkOf (((s.lanesAg is.ag (guardMask s is o)).flatMap fun l =>
              imgReqs (parseImage x) l (o.imm.toNat % 16) (parseImage x).chans .read (imgPlace o s is (parseImage x) l)).filter fun r =>
                !((t.skipOf is.ag).getLsbD r.lane)))).2.isNone
        | _ => false) = true :=
  issues_found (fun s => withBytes 0x800 64 0xA0C010001000100010000000000000000 (withS 4 0x800 (withS 6 0x840 s))) 0x00000000740000841010000000000000 (by decide +kernel)

/-- ImstResult: the image is writable. -/
theorem witness_imst : ∃ o s is, Issues (.imst o) o s is noBad noRd noMore ∧
    s.counterFull is.ag 1 = false ∧ actLanes s is o ≠ 0 ∧
      (match s.agFetch is.ag 1 0 0x800 64 with
        | .ok x t => !(parseImage x).bad && imageRange s is (o.b.toNat % 256) (parseImage x).coords == 0 && (parseImage x).writable &&
            (t.runChunks is.ag 1 0 noReg (chunkOf (((s.lanesAg is.ag (actLanes s is o)).flatMap fun l =>
              imgReqs (parseImage x) l (o.imm.toNat % 16) (min (o.sub.toNat + 1) (parseImage x).chans) .write
                (imgPlace o s is (parseImage x) l)).filter fun r => !((t.skipOf is.ag).getLsbD r.lane)))).2.isNone
        | _ => false) = true :=
  issues_found (fun s => withBytes 0x800 64 0xA0C010001000100010000000000000000 (withS 4 0x800 (withS 6 0x840 s))) 0x00000000750000041010020000000000 (by decide +kernel)

/-- AttrResult: a pass of one tile, and one buffer record. -/
theorem witness_attr : ∃ o s is, Issues (.attr o) o s is (attrBad o s) (fun _ => [.v 0, .v 1, .v 2]) (attrPort o s) ∧
    guardMask s is o ≠ 0 ∧ s.counterFull is.ag 2 = false ∧ s.ordWait is.ag 2 true false = [] ∧
      opnd o.dst = .v 16 ∧
      (match s.agFetch is.ag 2 0 0x400 128 with
        | .ok x t => !(parsePass 0x400 (s.pasidOf is.ag) (s.partOf is.ag) (s.unitOf is.ag) x).bad &&
            (match attrRecs is (guardMask s is o) (o.imm.toNat % 256) 1 t with | .ok _ => true | _ => false)
        | _ => false) = true :=
  issues_found (fun s => (withKh (fun kh => { kh with bufcnt := 4, bufoff := 0xC00 })) (withBytes 0x400 128 0x100010000000000000000 (withGang (fun g => { g with vplo := 0x400 }) s))) 0x00000000760001000000000000000000 (by decide +kernel)

/-- PixlkResult. -/
theorem witness_pixlk : ∃ o s is, Issues (.pixlk o) o s is noBad noRd noMore ∧
    ((s.frag? 2 3).isSome = true ∧ guardMask s is o ≠ 0) ∧
    (s.checkAll is.ag 6 0 noReg (laneReqs (.pixlk o) o s is (takePops s is (shape false (.pixlk o)) o) (s.lanesAg is.ag (guardMask s is o)) 4 .rmw)
      matches .ok _) = true :=
  issues_found id 0x00000000770000040300024000000200 (by decide +kernel)

/-- PixulResult. -/
theorem witness_pixul : ∃ o s is l, Issues (.pixul o) o s is noBad noRd noMore ∧
    (s.counterFull is.ag 6 = false) ∧
    AllPass s is 6 0 (regAccess 4) (laneReqs (.pixul o) o s is (takePops s is (shape false (.pixul o)) o) (s.lanesAg is.ag (guardMask s is o)) 4 .write) l :=
  passing_found id 0x00000000780000040300024000000200 (by decide +kernel)

/-- RtraceResult: rays that need no pass. -/
theorem witness_rtrace : ∃ o s is, Issues (.rtrace o) o s is noBad noRd (rtracePort o s) ∧
    guardMask s is o ≠ 0 ∧ s.counterFull is.ag 3 = false ∧ uniVal s is o (shape false (.rtrace o)).b o.b 2 % 128 = 0 ∧ opnd o.dst = .v 32 ∧
      (s.gang? 2).any (fun g => decide (g.passAddr ≠ 0)) :=
  issues_found (withGang (fun g => { g with vplo := 0x400 })) 0x00000000790002004100000000000000 (by decide +kernel)

/-- RastResult: RASTQ. -/
theorem witness_rastq : ∃ o s is, Issues (.rastq o) o s is noBad noRd noMore ∧
    anyGuard s is o = true ∧ s.counterFull is.ag 6 = false ∧ (s.gang? 2).any (fun g => decide (g.passAddr ≠ 0)) ∧ (s.rastOf 0).length < 64 :=
  issues_found (fun s => withBytes 0x400 128 0x100010000000000000000 (withGang (fun g => { g with vplo := 0x400 }) s)) 0x000000007A00000C0000000000000000 (by decide +kernel)

/-- RastResult: RFLUSH. -/
theorem witness_rflush : ∃ o s is, Issues (.rflush o) o s is noBad noRd noMore ∧
    anyGuard s is o = true ∧ s.counterFull is.ag 6 = false ∧ (s.gang? 2).any (fun g => decide (g.passAddr ≠ 0)) ∧ (s.rastOf 0).length < 64 :=
  issues_found (fun s => withBytes 0x400 128 0x100010000000000000000 (withGang (fun g => { g with vplo := 0x400 }) s)) 0x000000007B0000000000000000000000 (by decide +kernel)

/-- VbwrResult: pixel (0, 0). -/
theorem witness_vbwr : ∃ o s is l, Issues (.vbwr o) o s is noBad noRd noMore ∧
    (guardMask s is o ≠ 0 ∧ s.counterFull is.ag 6 = false ∧ (s.gang? 2).any (fun g => decide (g.passAddr ≠ 0)) ∧
      (match s.devRead (s.unitOf is.ag) (s.pasidOf is.ag) (s.partOf is.ag) 0x400 128 with | .ok x _ => x == 1208944266358702884257792 | _ => false) = true) ∧
    AllPass s is 6 0 noReg ((s.lanesAg is.ag (actLanes s is o)).flatMap fun l =>
      let px := srcA (.vbwr o) o s is (takePops s is (shape false (.vbwr o)) o) l % 2 ^ 32
      vbwrReqs (parsePass 0x400 (s.pasidOf is.ag) (s.partOf is.ag) (s.unitOf is.ag) 1208944266358702884257792) (px % 65536) (px / 65536) l (Config.freeNat s.fresh 3 % 8)) l :=
  passing_found (fun s => withBytes 0x400 128 0x100010000000000000000 (withGang (fun g => { g with vplo := 0x400 }) s)) 0x000000007C00000C0300020000000000 (by decide +kernel)

/-- TlrelResult. -/
theorem witness_tlrel : ∃ o s is, Issues (.tlrel o) o s is noBad noRd noMore ∧
    s.counterFull is.ag 6 = false ∧ (s.gang? 2).any (fun g => decide (g.passAddr ≠ 0)) :=
  issues_found (fun s => withBytes 0x400 128 0x100010000000000000000 (withGang (fun g => { g with vplo := 0x400 }) s)) 0x000000007D0000000000000000000000 (by decide +kernel)

/-- LxsubResult: a packet at offset 0 of the scratchpad. -/
theorem witness_lxsub : ∃ o s is, Issues (.lxsub o) o s is noBad noRd noMore ∧
    anyGuard s is o = true ∧ s.counterFull is.ag 5 = false ∧ s.scrOf is.ag = some (1, 196608) ∧ scrOff (.lxsub o) o s is = 0 ∧
      s.scrWait is.ag 1 0 64 = [] ∧ lauterBad (s.scrRead 1 0 64) = false ∧ lauterOutside (s.scrRead 1 0 64) (2 ^ s.partOf is.ag) = false ∧
      (s.cmdq (s.engineFor (s.clusterOfAg is.ag) 0)).length < 64 ∧ s.lxsubWaits is.ag = none ∧ s.pathScr is.ag 0 1 0 64 = (s.scrRead 1 0 64, false) :=
  issues_found (fun s => s.updWg 1 fun w => { w with scr := [(0, 2), (62, 8)] }) 0x000000008000000C0300000000000000 (by decide +kernel)

/-- CbinitResult. -/
theorem witness_cbinit : ∃ o s is l, Issues (.cbinit o) o s is noBad noRd noMore ∧
    (anyGuard s is o = true ∧ s.counterFull is.ag 6 = false) ∧
    AllPass s is 6 (guardMask s is o) cbCheck ([{ lane := 0, va := cbAddr (.cbinit o) o s is, size := 32, align := 32, acc := .rmw }]) l :=
  passing_found id 0x00000000810000040301408000000200 (by decide +kernel)

/-- CbarrResult. -/
theorem witness_cbarr : ∃ o s is l, Issues (.cbarr o) o s is noBad noRd noMore ∧
    (anyGuard s is o = true ∧ s.counterFull is.ag 6 = false) ∧
    AllPass s is 6 (guardMask s is o) cbCheck ([{ lane := 0, va := cbAddr (.cbarr o) o s is, size := 32, align := 32, acc := .rmw }]) l :=
  passing_found id 0x00000000820000040301408000000200 (by decide +kernel)

/-- CbtestResult. -/
theorem witness_cbtest : ∃ o s is l, Issues (.cbtest o) o s is noBad noRd noMore ∧
    (anyGuard s is o = true ∧ s.counterFull is.ag 6 = false) ∧
    AllPass s is 6 (guardMask s is o) cbCheck ([{ lane := 0, va := cbAddr (.cbtest o) o s is, size := 32, align := 32, acc := .read }]) l :=
  passing_found id 0x00000000840000940300000000000200 (by decide +kernel)

/-- CbwaitResult. -/
theorem witness_cbwait : ∃ o s is l, Issues (.cbwait o) o s is noBad noRd noMore ∧
    (anyGuard s is o = true ∧ s.counterFull is.ag 6 = false ∧ (s.frag? 2 3).isSome = true) ∧
    AllPass s is 6 (guardMask s is o) cbCheck ([{ lane := 0, va := cbAddr (.cbwait o) o s is, size := 32, align := 32, acc := .read }]) l :=
  passing_found id 0x00000000830000040300000000000200 (by decide +kernel)

/-- DcsetResult: counter 1 of partition 0. -/
theorem witness_dcset : ∃ o s is, Issues (.dcset o) o s is noBad noRd noMore ∧
    anyGuard s is o = true ∧ s.counterFull is.ag 6 = false ∧ uniVal s is o (shape false (.dcset o)).a o.a 1 ≤ 4095 ∧ uniVal s is o (shape false (.dcset o)).a o.a 1 / 512 = s.partOf is.ag ∧ uniVal s is o (shape false (.dcset o)).b o.b 2 ≤ 8388607 ∧ srcVal s is o (shape false (.dcset o)).c o.c .raw 3 [] 0 % 64 = 0 :=
  issues_found id 0x000000008500009C0703400000000000 (by decide +kernel)

/-- DcsetResult: a counter of partition 1. -/
theorem witness_dcset_prot : ∃ o s is, Issues (.dcset o) o s is noBad noRd noMore ∧
    anyGuard s is o = true ∧ uniVal s is o (shape false (.dcset o)).a o.a 1 ≤ 4095 ∧ uniVal s is o (shape false (.dcset o)).a o.a 1 / 512 ≠ s.partOf is.ag ∧ uniVal s is o (shape false (.dcset o)).b o.b 2 ≤ 8388607 :=
  issues_found id 0x00000000850000980303400000000200 (by decide +kernel)

/-- DcdecResult. -/
theorem witness_dcdec : ∃ o s is, Issues (.dcdec o) o s is noBad noRd noMore ∧
    anyGuard s is o = true ∧ s.counterFull is.ag (nmoPath is.ag) = false ∧ uniVal s is o (shape false (.dcdec o)).a o.a 1 / 512 = s.partOf is.ag ∧ uniVal s is o (shape false (.dcdec o)).a o.a 1 ≤ 4095 ∧ 1 ≤ uniVal s is o (shape false (.dcdec o)).b o.b 2 ∧ uniVal s is o (shape false (.dcdec o)).b o.b 2 ≤ 8388607 :=
  issues_found id 0x000000008600000C0701000000000000 (by decide +kernel)

/-- DlaunchResult: a record at offset 0, and nothing pending. -/
theorem witness_dlaunch : ∃ o s is, Issues (.dlaunch o) o s is noBad noRd noMore ∧
    anyGuard s is o = true ∧ s.counterFull is.ag 0 = false ∧ s.scrOf is.ag = some (1, 196608) ∧ scrOff (.dlaunch o) o s is = 0 ∧ s.scrWait is.ag 1 0 128 = [] ∧ s.pending = [] ∧
      (s.pathScr is.ag 0 1 0 128).2 = false :=
  issues_found id 0x000000008700009C0300000000000000 (by decide +kernel)

/-- NrallocResult: 32 lanes of 64 free slots. -/
theorem witness_nralloc : ∃ o s is, Issues (.nralloc o) o s is (notGraph s) noRd noMore ∧
    guardMask s is o ≠ 0 ∧ s.counterFull is.ag 6 = false ∧ opnd o.dst = .v 8 ∧
      (∃ g ∈ (s.gang? 2).toList, s.graphOf g = some (9, some 0)) ∧ ∃ gr ∈ (s.graphs.find? 9).toList, s.nrallocNext gr = false ∧
        (gr.split (some 0) (s.lanesAg is.ag (guardMask s is o)).length).isSome = true ∧
        (s.lanesAg is.ag (guardMask s is o)).length ≤ gr.slots - gr.cask.length :=
  issues_found (withGraph 64 []) 0x00000000880000800000000000000000 (by decide +kernel)

/-- NrallocWaits: 16 slots for 32 lanes. -/
theorem witness_nralloc_waits : ∃ o s is, Issues (.nralloc o) o s is (notGraph s) noRd noMore ∧
    guardMask s is o ≠ 0 ∧ (s.frag? 2 3).isSome = true ∧
      ∃ gr ∈ (s.graphs.find? 9).toList, gr.split (some 0) (s.lanesAg is.ag (guardMask s is o)).length = none :=
  issues_found (withGraph 16 []) 0x00000000880000800000000000000000 (by decide +kernel)

/-- NrsendResult: lane i sends slot i, which its gang holds, to node 1. -/
theorem witness_nrsend : ∃ o s is, Issues (.nrsend o) o s is (notGraph s) noRd noMore ∧
    guardMask s is o ≠ 0 ∧ s.counterFull is.ag 6 = false ∧
      ∃ gr ∈ (s.graphs.find? 9).toList, slotsOf gr ((slotLanes (.nrsend o) o s is).map (·.2)) = some (List.range 32) ∧
        uniVal s is o (shape false (.nrsend o)).b o.b 2 < gr.nodes.length ∧ (∀ x ∈ List.range 32, gr.cask.find? x = some (.held 2 none)) :=
  issues_found (fun s => (withGang fun g => { g with v := (List.range 32).map fun l => (vKey 8 l, BitVec.ofNat 32 (64 * l)) }) (withGraph 64 ((List.range 32).map fun i => (i, .held 2 none)) s)) 0x00000000890000002301000000000000 (by decide +kernel)

/-- NrdoneResult. -/
theorem witness_nrdone : ∃ o s is, Issues (.nrdone o) o s is (notGraph s) noRd noMore ∧
    guardMask s is o ≠ 0 ∧ s.counterFull is.ag 6 = false ∧
      ∃ gr ∈ (s.graphs.find? 9).toList, slotsOf gr ((slotLanes (.nrdone o) o s is).map (·.2)) = some (List.range 32) ∧
        (∀ x ∈ List.range 32, gr.cask.find? x = some (.held 2 none)) :=
  issues_found (fun s => (withGang fun g => { g with v := (List.range 32).map fun l => (vKey 8 l, BitVec.ofNat 32 (64 * l)) }) (withGraph 64 ((List.range 32).map fun i => (i, .held 2 none)) s)) 0x000000008A0000002000000000000000 (by decide +kernel)

/-- QbindResult: Q3 to port 1. -/
theorem witness_qbind : ∃ o s is, Issues (.qbind o) o s is noBad noRd noMore ∧
    anyGuard s is o = true ∧ opnd o.dst = .q 3 ∧ bindOk (uniVal s is o (shape false (.qbind o)).a o.a 1) = true ∧ (s.gang? 2).any (fun g => g.port 3 == 0) :=
  issues_found id 0x000000008B00183C0400000000000000 (by decide +kernel)

/-- CohortResult: a cohort of the grid. -/
theorem witness_cobar : ∃ o s is, Issues (.cobar o) o s is noBad noRd noMore ∧
    anyGuard s is o = true ∧ s.counterFull is.ag 6 = false ∧ (s.frag? 2 3).isSome = true ∧ (s.grids.find? 0).any (fun r => r.inCohort 0 (uniVal s is o (shape false (.cobar o)).a o.a 1)) = true :=
  issues_found (fun s => s.updGrid 0 fun r => { r with cohortN := 1, members := [[0]] }) 0x000000008C00000C0000000000000000 (by decide +kernel)

/-- CohortResult: CORED to S8. -/
theorem witness_cored : ∃ o s is, Issues (.cored o) o s is noBad noRd noMore ∧
    anyGuard s is o = true ∧ s.counterFull is.ag 6 = false ∧ opnd o.dst = .s 8 ∧ (s.grids.find? 0).any (fun r => r.inCohort 0 (uniVal s is o (shape false (.cored o)).b o.b 2)) = true :=
  issues_found (fun s => s.updGrid 0 fun r => { r with cohortN := 1, members := [[0]] }) 0x000000008D0010840300000000000000 (by decide +kernel)

/-- MashLoads: a block in the scratchpad. -/
theorem witness_mldw : ∃ o s is, Issues (.mldw o) o s is noBad noRd (mashPort o 2 s) ∧
    anyGuard s is o = true ∧ (s.mshOps 2).length < 16 ∧ s.counterFull is.ag 4 = false ∧ mashKind o = 1 ∧ s.scrOf is.ag = some (1, 196608) :=
  issues_found id 0x00000000900400040300000000000000 (by decide +kernel)

/-- MashLoads: a codebook in the scratchpad. -/
theorem witness_mcbt : ∃ o s is, Issues (.mcbt o) o s is noBad noRd noMore ∧
    anyGuard s is o = true ∧ (s.mshOps 2).length < 16 ∧ s.counterFull is.ag 4 = false ∧ mashKind o = 1 :=
  issues_found id 0x00000000970400040300000000000000 (by decide +kernel)

/-- MashPlain: MSWAP. -/
theorem witness_mswap : ∃ o s is, Issues (.mswap o) o s is noBad noRd noMore ∧
    anyGuard s is o = true ∧ (s.mshOps 2).length < 16 ∧ s.counterFull is.ag 4 = false :=
  issues_found id 0x00000000910000000000000000000000 (by decide +kernel)

/-- MashPlain: MCLR of 8 rows. -/
theorem witness_mclr : ∃ o s is, Issues (.mclr o) o s is noBad noRd noMore ∧
    anyGuard s is o = true ∧ (s.mshOps 2).length < 16 ∧ s.counterFull is.ag 4 = false ∧ rowsOk (uniVal s is o (shape false (.mclr o)).c o.c 3) 32 (tileOf o.dst) = true :=
  issues_found id 0x00000000950000100000C14000000000 (by decide +kernel)

/-- MashRows: MCLR of no row. -/
theorem witness_mclr_rows : ∃ o s is, Issues (.mclr o) o s is noBad noRd noMore ∧
    anyGuard s is o = true ∧ (s.mshOps 2).length < 16 ∧ s.counterFull is.ag 4 = false ∧ rowsOk (uniVal s is o (shape false (.mclr o)).c o.c 3) 32 (tileOf o.dst) = false :=
  issues_found id 0x00000000950000100000C00000000000 (by decide +kernel)

/-- MashPlain: MTAG with counter 1. -/
theorem witness_mtag : ∃ o s is, Issues (.mtag o) o s is noBad noRd noMore ∧
    anyGuard s is o = true ∧ (s.mshOps 2).length < 16 ∧ s.counterFull is.ag 4 = false ∧ uniVal s is o (shape false (.mtag o)).a o.a 1 ≤ 4095 ∧ uniVal s is o (shape false (.mtag o)).a o.a 1 / 512 = s.partOf is.ag :=
  issues_found id 0x000000009600001C0400000000000000 (by decide +kernel)

/-- MashRowMoves: MRD to V registers. -/
theorem witness_mrd : ∃ o s is, Issues (.mrd o) o s is noBad noRd (mashPort o 3 s) ∧
    anyGuard s is o = true ∧ (s.mshOps 2).length < 16 ∧ s.counterFull is.ag 4 = false ∧ rowsOk (uniVal s is o (shape false (.mrd o)).c o.c 3) 32 (tileOf o.dst) = true ∧ mashKind o = 3 ∧ opnd o.a = .v 64 :=
  issues_found id 0x00000000940C00110000C0C000000000 (by decide +kernel)

/-- MashRowMoves: MWR from V registers. -/
theorem witness_mwr : ∃ o s is, Issues (.mwr o) o s is noBad noRd (mashPort o 1 s) ∧
    anyGuard s is o = true ∧ (s.mshOps 2).length < 16 ∧ s.counterFull is.ag 4 = false ∧ rowsOk (uniVal s is o (shape false (.mwr o)).c o.c 3) 32 (tileOf o.dst) = true ∧ mashKind o = 3 ∧ opnd o.a = .v 64 :=
  issues_found id 0x00000000980C00110000C0C000000000 (by decide +kernel)

/-- MashMisaligned: no lane selected, and an address of 8 more than a multiple of 16. -/
theorem witness_mash_misaligned :
    found (fun s => s.updFrag 2 3 (fun f => { f with mask := 0xFFFFFF00 }) |> withS 4 0x408) 0x00000000940000041300C04000000000 .mrd (fun o s is =>
      issuesOk (.mrd o) o s is noBad (fun _ => []) (mashPort o 3 s) && anyGuard s is o && decide (mashKind o = 0 ∧ rowLanes 32 is.mask 1 = [] ∧
        uniVal s is o (shape false (.mrd o)).c o.c 3 = 1 ∧ srcVal s is o (shape false (.mrd o)).a o.a .raw 1 [] 0 % 16 ≠ 0)) = true ∧
    found (fun s => s.updFrag 2 3 (fun f => { f with mask := 0xFFFFFF00 }) |> withS 4 0x408) 0x00000000980000041300C04000000000 .mwr (fun o s is =>
      issuesOk (.mwr o) o s is noBad (fun _ => []) (mashPort o 1 s) && anyGuard s is o && decide (mashKind o = 0 ∧ rowLanes 32 is.mask 1 = [] ∧
        uniVal s is o (shape false (.mwr o)).c o.c 3 = 1 ∧ srcVal s is o (shape false (.mwr o)).a o.a .raw 1 [] 0 % 16 ≠ 0)) = true := by
  decide +kernel

/-- MgrpResult: a table of one entry in the scratchpad. -/
theorem witness_mgrp : ∃ o s is, Issues (.mgrp o) o s is noBad noRd noMore ∧
    anyGuard s is o = true ∧ (s.mshOps 2).length < 16 ∧ s.counterFull is.ag 4 = false ∧ 1 ≤ uniVal s is o (shape false (.mgrp o)).c o.c 3 ∧ uniVal s is o (shape false (.mgrp o)).c o.c 3 ≤ 64 ∧ mgrpWait s is = [] ∧ mashKind o = 1 :=
  issues_found id 0x00000000930400040300C04000000000 (by decide +kernel)

/-- MmaResult: 2 rows against a plane of the format of FMT 0. -/
theorem witness_mma : ∃ o s is, Issues (.mma o) o s is (mmaPast o s) (mmaReads o s) (mashPort o 1 s) ∧
    anyGuard s is o = true ∧ (s.mshOps 2).length < 16 ∧ s.counterFull is.ag 4 = false ∧
      (let p := s.planesAt (withPlane (startGang seatGrid 1 0 0 0 0 0 3 0 (fun _ => 0) 0)) 2
       mmaBad (s.fmtOf is.ag) false p.1.1 p.1.2 (o.imm.toNat / 256 % 16) (uniVal s is o (shape false (.mma o)).c o.c 3) 32 (tileOf o.dst) = false) :=
  issues_found (withGang withPlane) 0x00000000920400140300C0C000000000 (by decide +kernel)

/-- TensorResult: from a Lauter context. -/
theorem witness_tmov : ∃ o s is, Issues (.tmov o) o s is noBad noRd noMore ∧
    is.ag = .ctx 0 ∧ anyGuard s is o = true ∧ s.counterFull is.ag 5 = false :=
  issues_found id 0x00000000A00010040904C00000000001 (by decide +kernel)

/-- PtmapResult: flags of 2. -/
theorem witness_ptmap : ∃ o s is, Issues (.ptmap o) o s is noBad noRd noMore ∧
    anyGuard s is o = true ∧ opnd o.dst = .s 8 ∧ uniVal s is o (shape false (.ptmap o)).a o.a 1 < 64 ∧ uniVal s is o (shape false (.ptmap o)).a o.a 1 % 2 = 0 :=
  issues_found (inHandler .supHandler (2 ^ 8)) 0x00000000B000108C0C00000000000000 (by decide +kernel)

/-- PtmapResult: flags of 1. -/
theorem witness_ptmap_illop : ∃ o s is, Issues (.ptmap o) o s is noBad noRd noMore ∧
    anyGuard s is o = true ∧ uniVal s is o (shape false (.ptmap o)).a o.a 1 % 2 = 1 :=
  issues_found (inHandler .supHandler (2 ^ 8)) 0x00000000B000108C0400000000000000 (by decide +kernel)

/-- PtinvResult: everything. -/
theorem witness_ptinv : ∃ o s is, Issues (.ptinv o) o s is noBad noRd noMore ∧
    anyGuard s is o = true ∧ o.sub.toNat = 3 ∧ (s.frag? 2 3).isSome = true :=
  issues_found (inHandler .supHandler (2 ^ 8)) 0x00000000B10C00000000000000000000 (by decide +kernel)

/-- PrireqResult: a page fault stands. -/
theorem witness_prireq : ∃ o s is, Issues (.prireq o) o s is noBad noRd noMore ∧
    anyGuard s is o = true ∧ s.priOff = false ∧ (s.gang? 2).any (fun g => g.cause.getLsbD 8 && g.slot.isSome) ∧ (s.pri.find? 0).isNone = true :=
  issues_found (inHandler .supHandler (2 ^ 8)) 0x00000000B20000000000000000000000 (by decide +kernel)

/-- SchedulerOps: GRES with outcome 1. -/
theorem witness_gres : ∃ o s is, Issues (.gres o) o s is noBad noRd noMore ∧
    anyGuard s is o = true ∧ uniVal s is o (shape false (.gres o)).c o.c 3 = 1 :=
  issues_found (inHandler .supHandler (2 ^ 8)) 0x00000000B500009C0700C04000000000 (by decide +kernel)

/-- SchedulerOps: SWAPO.OUT. -/
theorem witness_swapo : ∃ o s is, Issues (.swapoOut o) o s is noBad noRd noMore ∧
    anyGuard s is o = true :=
  issues_found (inHandler .supHandler (2 ^ 8)) 0x00000000B30000900000000000000000 (by decide +kernel)

/-! The forms of sequencing, the step and the events. -/

/-- The placed machine with bundle `w`, changed by `e`. -/
def placed (e : State → State) (w : Nat) : State := e (State.reset.withFetchWord 128 w)
/-- The placed fragment changed. -/
def withFrag (f : Frag → Frag) (s : State) : State := s.updFrag 2 3 f
/-- The placed fragment has the status, and no bundle is chosen. -/
def waiting (x : FStat) (s : State) : State := { withFrag (fun f => { f with stat := x }) s with latch := none }
/-- Does the bundle begin with its sequencing to be carried out, and meet `p`? -/
def sequences (e : State → State) (w : Nat) (p : Ctl → State → Issue → Gang → Frag → Bool) : Bool :=
  match begun e w with
  | none => false
  | some (_, s, is) => decide (s.issue = some is ∧ s.journal = [] ∧ is.after = 0 ∧ is.ag = .gang 2 3) &&
      match s.gang? 2, s.frag? 2 3 with | some g, some f => p is.ctl s is g f | _, _ => false
/-- The state after the bundle as the first step. -/
def after (e : State → State) (w : Nat) : State := match step (placed e w) with | .next s => s | _ => State.reset
/-- The state after an event. -/
def then_ (i : Instr) (s : State) : State := match exec i s with | .next t => t | _ => State.reset
/-- The newest operation in flight. -/
def newest (s : State) : Option Flight := s.flights.getLast?.map (·.2)
/-- An access of the newest operation that may act now (`MayAct`), with its operation and place as wanted. -/
def mayAct (s : State) (ok : HomeOp → Loc → Bool) : Bool :=
  (newest s).any fun f => decide (s.journal = [] ∧ s.flights.find? f.id = some f ∧ f.path ≤ 6 ∧ f.path ≠ 4) && !isTensor f.instr &&
    !f.ownEvent && s.mayApply f && (f.accs[0]?).any fun a => !a.done && !s.lineBusy f a && !s.tensorBefore f a && !s.unreachable a &&
      !s.accHeld f a && decide (f.together 0 = [(a, 0)]) && (match f.instr with | .cbtest _ => false | _ => true) && ok a.op a.loc

/-- A fragment as a launch starts it. -/
def frag0 : Frag :=
  (((startGang seatGrid 1 0 0 0 0 0 3 0 (fun _ => 0) 0).frags.find? 3).map fun f => { f with pc := 256 }).getD
    { pc := 0, mask := 0, fmt := 0, lc := Vector.replicate 4 0, frames := [], sdepth := 0, parent := none, stat := .ready, stopped := false,
      rgOk := false, pendSeq := false, pendTrap := false, pendBkpt := false, readyAt := 0, run := 0, lastIssue := 0, created := 0,
      blockedAt := 0, haz := [], po := [], con := [], skip := 0, jt := none }
/-- The placed gang split: fragment 5 with four lanes, fragment 6 with one, which waits at the same bundle. -/
def splitGang : State → State := withGang fun g =>
  { g with frags := [(5, { frag0 with mask := 15, parent := some 3, sdepth := 1 }),
                     (6, { frag0 with mask := 16, parent := some 3, sdepth := 1, stat := .rgWait })],
           recs := [(3, { fmt := 0, lc := Vector.replicate 4 0, frames := [], sdepth := 0, parent := none, childT := some 5, childF := some 6 })] }

/-- Queue 5, of 8 slots on the placed page, its indexes at addresses 0x200 and 0x208, with one published slot; nothing else runs. -/
def withQueue (slot : Nat) (s : State) : State :=
  { withBytes 0x208 8 1 (withBytes 0x800 64 slot s) with
    latch := none,
    queues := [(5, { base := 0x800, log2 := 3, qflags := 1, widxAddr := 0x208, ridxAddr := 0x200, errAddr := 0xC00, pasid := 0,
                     partMask := 1, errcount := 0, errtail := 0, errhead := 0, ridx := 0, enabling := none })] }
/-- Does a packet stand at the head of queue 5 and is it consumed, and do they meet `p`? -/
def takes (slot : Nat) (p : State → WorkQ → Packet → State → Bool) : Bool :=
  let s := placed (withQueue slot) 0
  (s.queues.find? 5).any fun w => s.journal.isEmpty && match s.nextPacket w with
    | .ok (some x) t => (match t.consume 5 w x with | .ok _ u => p s w x u | _ => false)
    | _ => false

/-- BruResult. -/
theorem witness_bru : sequences id 0x20004000000000000000000000000000 (fun c s is _ _ => (s.issue == some is) && c.npred == 0) = true := by decide +kernel

/-- LoopResult. -/
theorem witness_loop : sequences id 0x60004200000000000000000000000000 (fun c _ _ _ _ => decide (c.npred.toNat < 4)) = true := by decide +kernel

/-- CallResult: a frame to spare, and none. -/
theorem witness_call : sequences id 0x40004000000000000000000000000000 (fun _ s _ g f => decide (f.frames.length < s.callLimit g)) = true ∧
    sequences (withFrag fun f => { f with frames := List.replicate 32 { ret := 0, owner := 3 } }) 0x40004000000000000000000000000000
      (fun _ s _ g f => decide (s.callLimit g ≤ f.frames.length)) = true := by decide +kernel

/-- RetResult: a frame of its own. -/
theorem witness_ret : sequences (withFrag fun f => { f with frames := [{ ret := 512, owner := 3 }] }) 0x50000000000000000000000000000000
    (fun _ _ _ _ f => f.frames.length == 1 && f.parent.isNone) = true := by decide +kernel

/-- JindResult: a target in range, and one that is no multiple of 16. -/
theorem witness_jind : sequences id 0x70002000000000000000000000000000 (fun _ _ is _ _ => (jindTrap is).isNone) = true ∧
    sequences (withS 2 8) 0x70002000000000000000000000000000 (fun _ _ is _ _ => (jindTrap is).isSome) = true := by decide +kernel

/-- SequencingCauses: RET without a frame, and JIND to 8, to 2^57 and to 2^57 + 8, under NOP. -/
theorem witness_sequencing_causes :
    found id 0x50000000000000000000000000000000 .nop (fun _ s is => decide (is.ctl.nsel = 5) &&
      (s.gang? 2).any fun g => (g.frags.find? 3).any fun f => f.frames.isEmpty) = true ∧
    found (withS 2 8) 0x70002000000000000000000000000000 .nop (fun o s is => (jindTrap is).isSome &&
      decide (decodeCauses (.nop o) o is s false [] 0 = 0 ∧ scrOut (.nop o) o s is = 0)) = true ∧
    found (withS 3 (2 ^ 25)) 0x70002000000000000000000000000000 .nop (fun _ _ is =>
      decide (is.jt = 2 ^ 57) && (jindTrap is).any fun ti => ti.causes == 2 ^ 9) = true ∧
    found (fun s => withS 3 (2 ^ 25) (withS 2 8 s)) 0x70002000000000000000000000000000 .nop (fun _ _ is =>
      (jindTrap is).any fun ti => ti.causes == 2 ^ 9 + 2 ^ 7) = true := by decide +kernel

/-- BrlResult and SequencingCompletes: every lane, none, and four of 32 lanes with levels to spare. -/
theorem witness_brl : sequences id 0x30004000000000000000000000000000 (fun c s is g f => brlTaken c s is g &&& f.mask == f.mask) = true ∧
    sequences id 0x30004100000000000000000000000000 (fun c s is g f => brlTaken c s is g &&& f.mask == 0) = true ∧
    sequences (withGang fun g => { g with p := g.p.set 1 15 }) 0x30004200000000000000000000000000 (fun c s is g f => let t := brlTaken c s is g &&& f.mask
      t != f.mask && t != 0 && decide (f.sdepth + 1 ≤ (s.khOf g).splitd ∧ 3 < s.nextId ∧ is.mask = f.mask)) = true := by decide +kernel

/-- BrlResult: past the depth that the header declares. -/
theorem witness_brl_depth : sequences (fun s => (withGang fun g => { g with p := g.p.set 1 15 }) (withFrag (fun f => { f with sdepth := 64 }) s)) 0x30004200000000000000000000000000 (fun c s is g f =>
    let t := brlTaken c s is g &&& f.mask; t != f.mask && t != 0 && decide ((s.khOf g).splitd < f.sdepth + 1)) = true := by decide +kernel

/-- ExitResult: a fragment of a gang. -/
theorem witness_exit : sequences id 0x80000000000000000000000000000000 (fun _ _ _ g _ => (g.frags.find? 3).isSome) = true := by decide +kernel

/-- GangStep: the bundle that the chosen fragment fetches. -/
theorem witness_gang_step : (let s := placed id 0x000000001000005C0703000000000000
    s.latch = some (.gang 2 3) ∧ (match s.turn.frag? 2 3 with
      | some f => !f.pendTrap && !f.pendBkpt && !f.pendSeq && (match s.turn.fetch (.gang 2 3) f.pc with
        | .ok w t => (match decode w with
          | some (i, c) => c.rg == false && (match exec i (t.countIssue (t.newIssue (.gang 2 3) c (wideOp i) false)) with
            | .next u => u.issue.isSome | _ => false)
          | none => false)
        | _ => false)
      | none => false) = true) := by decide +kernel

/-- SeqOnlyStep: a fragment with only its sequencing left. -/
theorem witness_seq_only : (let s := placed (withFrag fun f => { f with pendSeq := true }) 0x10004000000000000000000000000000
    s.latch = some (.gang 2 3) ∧ (s.turn.frag? 2 3).any (fun f => f.pendSeq && !f.pendTrap && !f.pendBkpt) = true ∧
      (match s.turn.fetch (.gang 2 3) 256 with | .ok w _ => (ctlOf w).rg == false && decide ((ctlOf w).nsel.toNat < 9) | _ => false) = true) := by decide +kernel

/-- CtxStep: TFILL in a Lauter context. -/
theorem witness_ctx_step : (let s := placed id 0x00000000A30010000104420000000001
    s.latch = some (.ctx 0) ∧ (s.turn.ctx 0).seqOnly = false ∧ (match s.turn.fetch (.ctx 0) 256 with
      | .ok w t => (match decode w with
        | some (i, c) => (match exec i (t.countIssue (t.newIssue (.ctx 0) c false false)) with | .next u => u.issue.isSome | _ => false)
        | none => false)
      | _ => false) = true) := by decide +kernel

/-- EventStep: nothing is chosen at reset. -/
theorem witness_event_step : State.reset.latch = none := by decide +kernel

/-- FetchReads: the placed code page. -/
theorem witness_fetch : (let s := placed id 0
    (match s.trAg (.gang 2 3) 256 .exec with
      | .ok tr => decide (s.cxlDownIn tr.key 16 = false ∧ keyTier tr.key ≠ poisonTier ∧ zbHere tr.key tr.zb = false ∧ s.poisonIn tr.key 16 = false ∧
          tr.isReg = false) && (s.farGate (s.unitOf (.gang 2 3)) (s.pasidOf (.gang 2 3)) tr.key).isNone && s.icache.isEmpty
      | _ => false) = true) := by decide +kernel

/-- ResetInv and StepKeepsInv: a step from a state that meets the invariant answers a next state. -/
theorem witness_invariant : (let s := placed id 0x000000001000005C0703000000000000
    Memory.wf s.mem = true ∧ s.journal = [] ∧ (match step s with | .next t => t.journal == [] | _ => false) = true) := by decide +kernel

/-- BundlesStoreNothingAtIssue: ST issues. -/
theorem witness_at_issue : (match begun id 0x00000000611000040300020000000200 with
    | some (i, s, _) => (opParts i).isSome && s.journal.isEmpty && (match exec i s with | .next _ => true | _ => false)
    | none => false) = true := by decide +kernel

/-- HomeReads: LDK is on its way. -/
theorem witness_home_read : mayAct (after id 0x00000000641410840300000000000200) (fun op loc => (match op with | .rd 8 => true | _ => false) &&
    match loc with | .mem k _ z => !zbHere k z && !(after id 0x00000000641410840300000000000200).poisonIn k 8 && !(after id 0x00000000641410840300000000000200).cxlDownIn k 8 && keyTier k == 0 | _ => false) = true := by decide +kernel

/-- HomeWrites: STK is on its way. -/
theorem witness_home_write : mayAct (after id 0x00000000651400040300420000000200) (fun op loc => (match op with | .wr 8 _ _ => true | _ => false) &&
    match loc with | .mem k _ z => !zbHere k z && keyTier k == 0 | _ => false) = true := by decide +kernel

/-- HomeUpdates: RED is on its way. -/
theorem witness_home_update : mayAct (after id 0x00000000680000040300024000000200) (fun op _ => match op with | .rmw (.add 32) _ _ 4 => true | _ => false) = true := by decide +kernel

/-- HomePoison: LDK of a poisoned sector. -/
theorem witness_home_poison : (let s := { after id 0x00000000641410840300000000000200 with poison := [(seatCode + 512) / 32] }
    mayAct s (fun op loc => (match op with | .rd 8 => true | _ => false) &&
      match loc with | .mem k _ z => !zbHere k z && s.poisonIn k 8 | _ => false) = true) := by decide +kernel

/-- ScratchActs: LDS and STS are on their way. -/
theorem witness_scratch : mayAct (after id 0x000000006210008C0300000000000000) (fun op loc => (match op, loc with | .rd 4, .scr 1 _ => true | _, _ => false)) = true ∧
    mayAct (after id 0x000000006310000C0300020000000000) (fun op loc => (match op, loc with | .wr 4 _ _, .scr 1 _ => true | _, _ => false)) = true ∧
    ((after id 0x000000006210008C0300000000000000).wgs.find? 1).any (fun w => w.onChip) = true := by decide +kernel

/-- IinvActs. -/
theorem witness_iinv_acts : mayAct (after id 0x000000006B0000000000001000000000) (fun op _ => match op with | .iinv _ => true | _ => false) = true := by decide +kernel

/-- L1Reads: both words of LDK stand in the line held. -/
theorem witness_l1_read : (let s := { after id 0x00000000641410840300000000000200 with l1 := [{ core := 0, line := (seatCode + 512) / 128, data := List.replicate 128 7, behind := [] }] }
    mayAct s (fun op _ => match op with | .rd 8 => true | _ => false) = true ∧ (newest s).any (fun f => f.accs.all fun a => f.mayL1 a && (match a.loc with
      | .mem k _ _ => (List.range 8).all fun i => (s.l1Line (s.l1Core f.ag f.core (k + i)) (k + i)).isSome
      | _ => false)) = true) := by decide +kernel

/-- CompletionWrites: LDK once its access is applied; CompletionWaits: before. -/
theorem witness_completion : (let s := after id 0x00000000641410840300000000000200
    let k := ((newest s).map (·.id)).getD 0
    let t := then_ (.homeApply k 0 false) s
    (newest s).any (fun f => f.accs.any fun a => !a.done) = true ∧
    (newest t).any (fun f => decide (t.journal = [] ∧ f.id = k ∧ f.clash = []) && t.mayRetire f && gangOf f.ag == 2 &&
      !f.accs.any (fun a => a.poisoned)) = true ∧ (t.gang? 2).any (fun g => !g.frags.isEmpty) = true) := by decide +kernel

/-- CompletionPoison: a lane of LD that met poison. -/
theorem witness_completion_poison : (let s := after id 0x00000000601000840300000000000200
    let u := { s with flights := s.flights.map fun e => (e.1, { e.2 with accs := e.2.accs.map fun a => { a with done := true, poisoned := true } }) }
    (newest u).any (fun f => u.mayRetire f && !f.handler && f.clash.isEmpty && (match f.dest with | .v _ _ _ => true | _ => false) &&
      f.accs.any fun a => a.poisoned) = true) := by decide +kernel

/-- RegangCheckResult and RegangReleaseResult: the sibling has arrived. -/
theorem witness_regang : (let s := placed splitGang 0x00000080000000000000000000000000
    s.nextRg (.gang 2 5) = true ∧ s.journal = [] ∧ (s.gang? 2).any (fun g => !g.trapping 5 && !g.trapping 6 && g.slot.isNone) = true ∧
      (s.frag? 2 5).any (fun f => f.stat == .ready && !f.rgOk && f.frames.isEmpty && !f.stopped) = true ∧
      (s.gang? 2).any (fun g => !g.trapWaits 5) = true ∧
      (s.frag? 2 6).any (fun q => q.stat == .rgWait && q.pc == 256 && !q.pendSeq) = true) := by decide +kernel

/-- WaitersSettled: fragments in the order of their numbers. -/
theorem witness_waiters : ((placed splitGang 0).gang? 2).any (fun g => g.frags.keys == [5, 6]) = true := by decide +kernel

/-- IssueSelectResult: a fragment may issue. -/
theorem witness_issue_select : (let s : State := { placed id 0 with latch := none }
    s.dpFree 0 0 = true ∧ s.journal = [] ∧ (s.readyOn 0 0).length = 1) := by decide +kernel

/-- HaltReachResult: a halt on its way to a running gang. -/
theorem witness_halt : (let s := placed (fun s => s.updWg 1 fun w => { w with halted := true }) 0
    (s.gang? 2).any (fun g => g.halt == .running && (s.wgOf g).any (·.halted)) = true ∧ s.latches = []) := by decide +kernel

/-- AsyncCauseTakeResult: POISON stands. -/
theorem witness_async : (let s := placed (withGang fun g => { g with asyncs := [(3, cPOISON)] }) 0
    (s.gang? 2).any (fun g => g.asyncFor 3 != 0 && decide (g.asyncFor 3 < 2 ^ 40) && g.slot.isNone && g.trap.isNone &&
      (s.wgs.find? g.wid).any (·.acts) && (g.frags.find? 3).any fun f => f.skip == 0 && !f.pendSeq) = true) := by decide +kernel

/-- MonitorFireGang and MwaitTimeoutGang: a monitor that has fired, a wait whose deadline has passed. -/
theorem witness_monitor : (let s := placed (fun s => { (withGang (fun g => { g with mon := { line := 0, va := 0, armed := true, fired := true } })
      (waiting (.blocked (.mwait 5 1)) s)) with cycle := 9 }) 0
    s.gangOn 2 = true ∧ (s.gang? 2).any (fun g => g.mon.fired && decide (5 ≤ s.coreCycle g.core)) = true ∧
      (s.frag? 2 3).any (fun f => f.stat == .blocked (.mwait 5 1)) = true) := by decide +kernel

/-- MonitorFireCtx and MwaitTimeoutCtx. -/
theorem witness_monitor_ctx : (let s : State := { State.reset.updCtx 0 (fun c => { c with stat := .waiting 5 1 none, mon := { c.mon with fired := true } }) with cycle := 9 }
    (s.ctx 0).stat = .waiting 5 1 none ∧ (s.ctx 0).mon.fired = true ∧ 5 ≤ s.cycle) := by decide +kernel

/-- SleepExpireResult and QueueUnblockResult. -/
theorem witness_sleep_expire : ((placed (waiting (.blocked (.sleep 0))) 0).frag? 2 3).any (fun f => f.stat == .blocked (.sleep 0)) = true ∧
    (let s := placed (fun s => { waiting (.blocked .queue) s with cycle := 9 }) 0
     s.gangOn 2 = true ∧ (s.frag? 2 3).any (fun f => f.stat == .blocked .queue && decide (f.blockedAt < s.cycle)) = true) := by decide +kernel

/-- CbwaitReleaseResult: CBWAIT past phase 1 of a barrier of zeros. -/
theorem witness_cbwait_release : (let s := after id 0x00000000830000040301000000000200
    (newest s).any (fun x => decide (x.path = 6) && s.mayApply x && x.accs.length == 1 && x.accs.all fun a => !s.lineBusy x a && !s.unreachable a && !s.accHeld x a &&
      (match a.loc with | .mem k _ z => !zbHere k z && s.peekN k 4 != x.sw.getD 0 0 | _ => false)) = true ∧
    (s.frag? 2 3).any (fun f => match f.stat with | .blocked (.cbwait _) => true | _ => false) = true) := by decide +kernel

/-- PixlkReleaseResult: tickets of 0. -/
theorem witness_pixlk_release : (let s := after id 0x00000000770000040300024000000200
    (s.pixWait 2 3).any (fun f => s.mayApply f && f.accs.all fun a => !a.done && !s.lineBusy f a && !s.unreachable a && !s.accHeld f a && match a.loc with
      | .mem k _ z => !zbHere k z && s.peekN k 4 == (f.kept a.lane).getD 0 0 | _ => false) = true) := by decide +kernel

/-- CohortPhaseCompleteResult: every member has arrived. -/
theorem witness_cohort : (let s := after (fun s => s.updGrid 0 fun r => { r with cohortN := 1, members := [[0]] }) 0x000000008C00000C0000000000000000
    (s.grids.find? 0).any (fun r => r.mc.isNone && (r.cohorts.find? 0).any fun x => s.cohortFull 0 r 0 x) = true) := by decide +kernel

/-- NrallocGrantResult: slots enough once some are free again. -/
theorem witness_nralloc_grant : (let s0 := after (withGraph 16 []) 0x00000000880000800000000000000000
    let s : State := { s0 with graphs := s0.graphs.map fun e => (e.1, { e.2 with slots := 64 }) }
    (s.graphs.find? 9).any (fun gr => gr.blocked == [(2, 3)] && (gr.split (some 0) 32).isSome) = true ∧ (s.nrallocOf 2 3).isSome = true) := by decide +kernel

/-- PageRequestResponseResult: PRIREQ is answered. -/
theorem witness_page_response : (let s := after (inHandler .supHandler (2 ^ 8)) 0x00000000B20000000000000000000000
    s.pri.find? 0 = some (2, 1) ∧ (s.gang? 2).any (fun g => g.esc == 1) = true) := by decide +kernel

/-- AtsTranslationCompletionResult and AtsInvalidateResult. -/
theorem witness_ats : (let s : State := { State.reset with hostOut := [{ kind := 1, args := [0, 5] }] }
    s.journal = [] ∧ ({ kind := 1, args := [0, 5] } : OutMsg) ∈ s.hostOut) := by decide +kernel

/-- FabricHoldTimeoutResult: a token of a request held. -/
theorem witness_hold_expire : (let s := after id 0x00000000641410840300000000000200
    let u := { s with flights := s.flights.map fun e => (e.1, { e.2 with instr := .fabricHoldTimeout 0, sw := [0, 1, 0] }) }
    (newest u).any (fun f => f.instr == .fabricHoldTimeout 0 && f.sw.length == 3) = true) := by decide +kernel

/-- PacketNopResult: a NOP packet, and one of TYPE 9. -/
theorem witness_packet_nop : takes 0x005 (fun _ _ p _ => p.slot % 256 == 5 && !headerBad p.slot && pkt p.slot 8 56 == 0) = true ∧
    takes 0x009 (fun _ _ p u => decide (4 < p.slot % 256) && (match u.queueErr 5 p.index 1 (pkt p.slot 4 4) with | .ok _ _ => true | _ => false)) = true := by decide +kernel

/-- PacketDcopSetResult and PacketDcopDecrementResult: counter 1. -/
theorem witness_packet_dcop : takes 0x5000100010000000000000003 (fun _ w p u => pkt p.slot 8 1 == 1 && !dcopBad p.slot && w.partMask.testBit (pkt p.slot 10 2 / 512) &&
      !(u.dc (pkt p.slot 10 2)).armed && decide (0 < (u.dc 1).count + 5)) = true ∧
    takes 0x5000100020000000000000003 (fun _ w p u => pkt p.slot 8 1 == 2 && !dcopBad p.slot && w.partMask.testBit (pkt p.slot 10 2 / 512) && !(u.dc 1).armed) = true := by decide +kernel

/-- PacketCbopResult: initialise and arrive at the barrier at 0x400. -/
theorem witness_packet_cbop : takes 0x1000000000000040000000000000000010000000000000004 (fun _ _ p _ => pkt p.slot 8 1 == 1 && !cbopBad p.slot) = true ∧ takes 0x1000000000000040000000000000000020000000000000004 (fun s w p u => pkt p.slot 8 1 == 2 && !cbopBad p.slot &&
      match u.translate devUnit w.pasid (s.frontPart w) 0x400 .rmw false with | .ok tr => (!tr.isReg && !tr.hold && tr.tier == 0 &&
        (u.farGate devUnit w.pasid tr.key).isNone && !(u.portHeld tr.key u.cycle)) | _ => false) = true := by decide +kernel

/-- PacketLauterResult: a packet for cluster 0, and one that is bad. -/
theorem witness_packet_lauter : takes 0x80000000000000000000000000000000000000000000000000000000000000000000000000000000000000000000000000000000000000000000000000002 (fun s w p _ => !lauterBad p.slot && !lauterOutside p.slot w.partMask && w.partMask.testBit (partOfCluster (natBits p.slot 20 16)) &&
      !s.cmdFull (s.lauterTarget p.slot)) = true ∧ takes 0x202 (fun _ _ p _ => p.slot % 256 == 2 && lauterBad p.slot) = true := by decide +kernel

/-- PacketLaunchResult: a record of zeros is refused. -/
theorem witness_packet_launch : takes 0x001 (fun _ w p u => p.slot % 256 == 1 &&
    ((u.recordCode (.queue (w.qflags.getLsbD 1) (w.qflags.getLsbD 2) w.partMask) p.whole (parseRecord 0 p.whole)).any fun c => c != 0 &&
      match u.queueErr 5 p.index c (pkt p.slot 4 4) with | .ok _ _ => true | _ => false)) = true := by decide +kernel

/-- FrontEndIdle, FrontEndFault: no queue, a queue with nothing published, one whose index lies on no page. -/
theorem witness_front_end_idle : State.reset.queues.find? 5 = none ∧
    (let s := placed (fun s => withBytes 0x208 8 0 (withQueue 5 s)) 0
     (s.queues.find? 5).any (fun w => match s.nextPacket w with | .ok none _ => true | _ => false) = true ∧
     (s.queues.find? 5).any (fun w => match s.nextPacket { w with widxAddr := 0x10000 } with | .fault _ _ => true | _ => false) = true) := by decide +kernel

/-- DispatchPlaces: a launch of one workgroup waits. -/
theorem witness_dispatch : (let s : State := placed (fun s =>
      { s with latch := none, gangs := [], wgs := [], parts := s.parts.set 0 { s.parts.getD 0 PartBlk.reset with imgbase := 0x10000000, imgsize := 0x1000000 },
               grids := [(0, { seatGrid with next := 0, live := 0 })],
               entries := [{ id := 7, part := 0, grid := 0, wid := none, base := 0, eff := 0, rounds := 0, victim := none, room := [] }] }) 0
    let s1 : State := { s with entries := ageEntries 0 s.entries }
    s.swapped.has 0 = false ∧ (roundOrder 0 s1.entries).head?.any (fun e => e.wid.isNone && e.room.isEmpty && (s1.placeFor e none none).any (fun l => !l.isEmpty) &&
      (s1.needEntry e).any fun x => (s1.findImage 0 x.2.1.image).isSome && x.1.dead.isEmpty) = true) := by decide +kernel

/-- PreemptTakeEffectResult, WaitSwapOutResult and WakeConditionResult: a workgroup pre-empted, one resident. -/
theorem witness_preempt : ((placed (fun s => s.updWg 1 fun w => { w with stat := .preempting }) 0).wgs.find? 1).any (fun w => w.stat == .preempting && !w.halted) = true ∧
    (let s := placed (withFrag fun f => { f with stat := .blocked (.cohort 0 0) }) 0
     (s.wgs.find? 1).any (fun w => w.stat == .resident && s.allExited w == false) = true) := by decide +kernel

/-- GridCompletionResult: every workgroup is over; a dependence counter falls. -/
theorem witness_completion_action : (let s : State := placed (fun s => s.updGrid 0 fun r => { r with live := 0, lr := { r.lr with cflags := 1, dcId := 1 } }) 0
    (s.grids.find? 0).any (fun g => decide (g.next = g.count ∧ g.live = 0 ∧ g.killed = false ∧ g.kind = .launch) && g.lr.cflags.testBit 0 && !g.lr.cflags.testBit 1) = true ∧
      (s.dc 1).armed = false) := by decide +kernel

/-- DlaunchReleaseResult: 256 cycles after DLAUNCH. -/
theorem witness_dlaunch_release : (let t := after id 0x000000008700009C0300000000000000
    let s : State := { t with cycle := 1000 }
    (s.pending.find? (fun p => p.core == 0)).any (fun p => decide (p.issued + 256 ≤ s.cycle) && p.cons.all s.applied && !p.spilled) = true) := by decide +kernel

/-- BatchTimeoutResult: an open batch. -/
theorem witness_batch_timeout : (let s : State := (withGraph 64 [] (placed id 0))
    let gr := s.graphs.map fun e => (({ e.2 with nodes := e.2.nodes.map fun n => ({ n with open_ := [1] } : GNode) }) : Graph)
    gr.any (fun g => (g.nodes[0]?).any fun n => !n.open_.isEmpty && decide (n.lastAppend + n.timeout ≤ s.cycle) && n.khdr % 256 == 0) = true) := by decide +kernel

/-- KilnGrantResult and KilnPeriodExpireResult: a grant held for 256 cycles, a request that fits. -/
theorem witness_kiln : (let s : State := { State.reset with cycle := 256, kilns := [(0, ([{ who := 1, units := 4, since := 0, stalled := 0 }], [{ who := 5, units := 4, since := 9, stalled := 0 }]))] }
    s.kilnFits 0 = true ∧ kilnHeld (s.kilnOf 0).1 ≤ s.kbudget.getD 0 32 ∧ (s.kilnOf 0).1.any (fun r => r.who == 1 && decide (r.since + 256 ≤ s.cycle)) = true) := by decide +kernel

/-- JointStartResult and JointAbortResult: a latch without its operations, and one that is broken. -/
theorem witness_latch : (let l : Latch := { grid := 0, set := 1, evenWg := 0, tag := 0, rows := [], flights := [], broken := false, running := false }
    let s : State := { placed id 0 with latches := [(1, l), (2, { l with broken := true })] }
    (s.latches.find? 1).any (fun l => !s.latchBad l && (s.latchReady l).isNone) = true ∧ (s.latches.find? 2).any s.latchBad = true ∧ 2 < s.nextId) := by decide +kernel

/-- MtagRetireResult. -/
theorem witness_mtag_retire : (newest (after id 0x000000009600001C0400000000000000)).any (fun f => isMtag f.instr && !f.withdrawn && decide (((after id 0x000000009600001C0400000000000000).mshOps 2).all fun e => decide (f.id ≤ e.id))) = true := by decide +kernel

/-- LauterContextStartResult, LauterIssueResult: a packet waits, a context may issue. -/
theorem witness_lauter : (let s : State := { State.reset with cmdqs := [(0, [LPacket.empty])] }
    s.swapped.has 0 = false ∧ s.cmdq 0 = [LPacket.empty] ∧ s.freeCtx 0 = some 0) ∧
    (let s : State := { placed id 0x00000000A30010000104420000000001 with latch := none }
     s.engineReady 0 = [0] ∧ (s.ctx 0).asyncs = []) := by decide +kernel

/-- LauterCompletionResult, LauterResumeResult, LauterAbortResult, LauterFaultRecordWriteResult. -/
theorem witness_lauter_end : (let s : State := (State.reset.updCtx 0 fun c => { c with stat := .completing }).updCtx 1 fun c => { c with stat := .parked false none }
    (s.ctx 0).stat = .completing ∧ (s.ctx 0).asyncs = [] ∧ s.flights = [] ∧ (s.allEarlier (.ctx 0)).all s.applied = true ∧ (s.ctx 1).stat = .parked false none) ∧
    (let s : State := { State.reset with lfHeld := [{ part := 0, cause := 1, who := 0, pc := 0, addr := 0, elem := 0, pasid := 0 }] }
     0 < s.parts.length ∧ (s.lfHeld.find? (fun r => r.part == 0)).isSome = true ∧
       ¬ (2 ^ (s.part 0).lflog2.toNat ≤ ((s.part 0).lftail.toNat + 2 ^ 32 - (s.part 0).lfhead.toNat) % 2 ^ 32)) := by decide +kernel

/-- VisMergeRule: a fragment in front of an empty entry. -/
theorem witness_visibility : (let d := 0x3F000000; let e := 0x3F800000 * 2 ^ 64
    d < 2 ^ 32 ∧ d ≠ 0x80000000 ∧ (fp32.decode d).isNan = false ∧ ((fp32.decode d).cmp (fp32.decode (e / 2 ^ 64 % 2 ^ 32))).any (fun k => decide (k < 0)) = true) := by decide +kernel

/-- RasterRequestResult: RASTQ stands in the intake, without and with its grant, in a good pass. -/
theorem witness_raster : (let s := after (fun s => withBytes 0x400 128 0x100010000000000000000 (withGang (fun g => { g with vplo := 0x400 }) s)) 0x000000007A00000C0000000000000000
    s.rastHead 0 false ≠ none ∧ s.kilnHas 0 kilnRaster = false ∧ (s.kilnOf 0).2 = [] ∧
      (s.rastHead 0 false).any (fun r => match s.passAt (clusterUnit 0) r.pasid r.part r.pass with | .ok (some p) _ => decide (r.tile < p.count) | _ => false) = true) := by decide +kernel

/-- TileSealResult and ClassifyScanResult: a tile of a good pass to be sealed, one to be scanned. -/
theorem witness_scan : (let s0 := after (fun s => withBytes 0x400 128 0x100010000000000000000 (withGang (fun g => { g with vplo := 0x400 }) s)) 0x000000007A00000C0000000000000000
    let r : RastReq := ((s0.rastOf 0).head?).getD { id := 0, pass := 0, tile := 0, sealIt := true, flush := false, pasid := 0, part := 0, cur := 0, cons := [] }
    let s : State := { s0 with seals := Tab.set [] s0.seals 0 [r], scans := Tab.set [] s0.scans 0 [r] }
    s.sealsOf 0 = [r] ∧ s.scansOf 0 = [r] ∧ (match s.passAt (clusterUnit 0) r.pasid r.part r.pass with
      | .ok (some p) t => !s.mergesPending p r.tile && (match p.stat t r.tile with | .ok _ _ => true | _ => false) | _ => false) = true) := by decide +kernel

/-- RflushProcessResult: RFLUSH stands in the intake. -/
theorem witness_flush : (let s := after (fun s => withBytes 0x400 128 0x100010000000000000000 (withGang (fun g => { g with vplo := 0x400 }) s)) 0x000000007B0000000000000000000000
    s.rastHead 0 true ≠ none ∧ s.kilnHas 0 kilnRaster = false) := by decide +kernel

/-- RayDeliveryResult and RayDoneRule: an RTRACE whose rays are on their way. -/
theorem witness_ray : (let s := after (withGang fun g => { g with vplo := 0x400 }) 0x00000000790002004100000000000000
    s.rays.length = 32 ∧ (s.rays.all fun e => (s.flights.find? e.2.fl).any fun f => !f.withdrawn && f.after.all s.applied && !s.raysBefore f) = true) := by decide +kernel

/-- PassCloseResult, PassDoneResult and BinTimeoutResult: a closing pass, a ring with records. -/
theorem witness_pass_end : (let s : State := { placed (fun s => withBytes 0x400 128 0x100010000000000000000 (withGang (fun g => { g with vplo := 0x400 }) s)) 0 with passes := [{ addr := 0x400, pasid := 0, part := 0, closing := true }], cycle := 5000, bins := [{ cluster := 0, pass := 0x400, bin := 0, pasid := 0, part := 0, appended := 1, launched := 0, last := 0 }] }
    (s.passes[0]?).any (fun q => q.closing && (match s.passAt 256 q.pasid q.part q.addr with | .ok (some _) _ => true | _ => false)) = true ∧
      s.bins.any (fun x => decide (x.launched < x.appended ∧ x.last + 4096 ≤ s.cycle)) = true) := by decide +kernel

/-- DeviceEvents: at reset nothing is under way, no queue is enabled, and no unit is retired. -/
theorem witness_device : (let s := State.reset
    s.journal = [] ∧ s.dev.recovery = false ∧ (s.queue 3).on = false ∧ (s.queue 3).enabling = none ∧ s.parts.length = 8 ∧ s.kbudget.length = 32 ∧ s.routes.length = 64 ∧
      s.regMine none 24 = true ∧ (0 : W32).getLsbD 0 = false ∧ (1 : W32).getLsbD 0 = true ∧ s.retiredCores.has 3 = false ∧ s.retiredSlices.has 3 = false ∧
      s.pins = [] ∧ s.zbBlocks = [] ∧ s.poison = [] ∧ s.cbUse = [] ∧ 0 < s.cxl.length) := by decide +kernel

/-- RegionRetrainResult and RetrainForcedResult: a repair is scheduled, and its deferral is over. -/
theorem witness_regions : (let s : State := { State.reset with cycle := 128000, regions := State.reset.regions.put 4 { State.reset.region 4 with scheduled := true } }
    (s.region 4).scheduled = true ∧ (s.region 4).retraining = false ∧ (s.region 4).pause = none ∧ (s.region 4).since + 128000 ≤ s.cycle ∧
      s.portBusy 0 none = false ∧ (s.region 4).spares < 8) := by decide +kernel

/-- LinkRetrainResult and LinkFailResult: a link that retrains. -/
theorem witness_links : (let s : State := { State.reset with links := State.reset.links.set 2 1 }
    s.links[2]? = some 1) := by decide +kernel

/-- FabricRequestArriveResult: the next request in order. -/
theorem witness_fabric : (let r : FabReq := { src := 1, stream := 0, seq := 0, key := 0x1000, path := 0, op := .store [7] }
    let s : State := { State.reset with windows := [{ src := 1, stream := 0, next := 0, applied := [], heldReqs := [] }] }
    keyTier r.key < 2 ∧ s.cbUse = [] ∧ (s.windows.find? (fun w => w.src == r.src && w.stream == r.stream)).any (fun w => (w.applied.find? 0).isNone && w.heldReqs.isEmpty &&
      r.seq == w.next) = true ∧ s.poisonIn r.key 1 = false ∧ zbHere r.key (s.blockZb r.key) = false) := by decide +kernel

/-- RoundTrip: a well-formed operation and a well-formed form. -/
theorem witness_round_trip : WellFormed (.iadd { op0 with dst := 5, a := 1, b := 2 }) = true ∧ (opParts (.iadd op0)).isSome = true ∧ WellFormed (.jmp { ctl0 with nsel := 1, ntgt := 3 }) = true ∧
    (decode 0x000000001000005C0703000000000000).isSome = true := by decide +kernel

/-- TensorWalk: element 5 of a walk of 4 by 2. -/
theorem witness_tensor_walk : (let f : Flight := { (newFlight (placed id 0) { ag := .ctx 0, pc := 0, ctl := ctl0, mask := 1, jt := 0, seqOnly := false, after := 0, cyc := 0, passes := 1, haz := [] } (.nop op0) 5) with
      sw := [0, 0, 0, 0, 0, 4, 2, 1, 1, 1] }
    5 < f.tVolume) := by decide +kernel

/-- UnorderedCompares and MinMaxRule: a NaN and a number, and two NaNs. -/
theorem witness_nan : (fp32.decode 0x7FC00000).isNan = true ∧ (fp32.decode 0x3F800000).isNan = false ∧ (fp32.decode 0xFF800001).isNan = true := by decide +kernel

/-- MovCompletesPacket: the last word of a packet of zeros, and one whose cluster takes it. -/
theorem witness_mov_packet : found (withGang fun g => { g with q := g.q.set 1 { bind := 6, words := List.replicate 15 0 } }) 0x000000001B0018140000000000000000
    .mov (fun o s is => decide (s.issue = some is ∧ s.journal = [] ∧ decodeCauses (.mov o) o is s false [] 0 = 0 ∧ jindTrap is = none ∧ o.sub = 0 ∧
      (shape false (.mov o)).dst.queueOf o.dst = some 1 ∧ anyGuard s is o = true ∧ queuesReady s is (shape false (.mov o)) o = true ∧ is.ag = .gang 2 3) &&
      (s.frag? 2 3).isSome && (s.gang? 2).any fun g => g.port 1 == 6 && (g.qwords 1).length == 15) = true := by decide +kernel

/-- MovWaitsForQueue: a source queue without words. -/
theorem witness_mov_waits : found (withGang fun g => { g with q := g.q.set 1 { bind := 3, words := [] } }) 0x000000001B0000160400000000000000
    .mov (fun o s is => decide (s.issue = some is ∧ s.journal = [] ∧ decodeCauses (.mov o) o is s false [] 0 = 0 ∧ jindTrap is = none ∧
      queuesReady s is (shape false (.mov o)) o = false ∧ is.ag = .gang 2 3) && (s.frag? 2 3).isSome) = true := by decide +kernel

/-- HandlerChoice and HandlerEntry: a stopped gang whose trap has not been entered. -/
theorem witness_handler_entry : (let s := placed (withGang fun g => { g with trap := some { fid := 3, entered := false }, halt := .stopped,
                                                                             frags := g.frags.map fun e => (e.1, { e.2 with stopped := true }) }) 0
    s.journal = [] ∧ (s.gang? 2).any (fun g => decide (g.trap = some { fid := 3, entered := false } ∧ g.halt = .stopped) && g.frags.all (fun e => e.2.stopped) &&
      (s.wgOf g).any (·.acts) && (g.frags.find? 3).isSome) = true) := by decide +kernel

/-- AfterCause: a bundle that raised SWTRAP comes to its sequencing. -/
theorem witness_after_cause : ((begun id 0).any fun x =>
    let s : State := { x.2.1 with issue := some { x.2.2 with after := 2 ^ 17 } }
    decide (s.journal = [] ∧ x.2.2.ag = .gang 2 3) && (s.gang? 2).any fun g => g.slot.isNone && g.trap.isNone && (g.frags.find? 3).isSome && (s.wgs.find? g.wid).isSome) = true := by
  decide +kernel

/-- Every operation in flight as another instruction's. -/
def asInstr (i : Instr) (s : State) : State := { s with flights := s.flights.map fun e => (e.1, { e.2 with instr := i }) }
/-- MmaLatches: a joint multiply in flight, no latch of its gang. -/
theorem witness_mma_latches : (let s := asInstr (.mmaJ op0) (after (withGang withPlane) 0x00000000920400140300C0C000000000)
    s.latches = [] ∧ (newest s).any (fun f => decide (s.flights.find? f.id = some f) && gangOf f.ag == 2 && isMmaJ f.instr) = true) := by decide +kernel

/-- McStartResult, McReportResult, McTimeoutResult, McCopyResult, McAbortResult: generation 3 of this chip lacks a report, generation 4 of
another chip waits to start here. -/
theorem witness_mc : (let c := State.reset.chip
    let m : McLaunch := { origin := c, gen := 3, part := 0, lr := { seatLaunch with chipset := 2 ^ c + 2 ^ (c + 1) }, pasid := 0, q := none, reports := [],
                          since := 0, accepted := false, kh := seatKhdr, members := [], cohortN := 0, graph := none }
    let s : State := { State.reset with cycle := 100, mcs := [m, { m with origin := c + 1, gen := 4 }] }
    s.journal = [] ∧ s.mc? s.chip 3 = some m ∧ m.lr.chipset.testBit (c + 1) = true ∧ m.full = false ∧ (s.abortMc m 11 matches .ok _ _) = true ∧
      s.mc? (c + 1) 4 = some { m with origin := c + 1, gen := 4 } ∧ s.stale (c + 1) 9 = false ∧ s.mc? (c + 1) 9 = none) := by decide +kernel

/-- GraphDrainResult: a graph that has not started, and one that is over. -/
theorem witness_graph_drain : (let s := placed (withGraph 64 []) 0
    let t : State := { s.updGrid 0 (fun r => { r with kind := .launch }) with graphs := s.graphs.map fun e => (e.1, { e.2 with rootDone := true }) }
    s.journal = [] ∧ (s.graphs.find? 9).any (fun gr => !s.graphOver 9 gr) = true ∧ (t.graphs.find? 9).any (fun gr => t.graphOver 9 gr) = true) := by
  decide +kernel

/-- PinSpillTimeoutResult: no tile is to be spilled, and one whose wait is over. -/
theorem witness_pin_spill : (let p : Pin := { pass := 0x400, pasid := 0, part := 0, tile := 0, keys := [0] }
    let s : State := { State.reset with cycle := 5000, dev := { State.reset.dev with pinmax := 0 }, pinWait := [{ pin := p, since := 0, free := false }] }
    State.reset.pinWait = [] ∧ (s.pinWait.find? fun w => !w.free && decide (s.cycle ≥ w.since + 4096) && !(s.pinOver w.pin).isEmpty).isSome = true) := by
  decide +kernel

/-- PinSpillTimeoutResult: a pinned tile in SHADING, whose status word stands at 0x600 of the placed page. -/
theorem witness_pin_spilled : (let p : Pin := { pass := 0x400, pasid := 0, part := 0, tile := 0, keys := [0] }
    let s : State := { placed (fun s => withBytes 0x400 128 (0x600 * 2 ^ 256) (withBytes 0x600 8 3 s)) 0 with pins := [p] }
    s.spillFor (s.homeOf 0) 3 = some p ∧ (match s.devRead 256 0 0 0x400 128 with
      | .ok x t => (match t.devRead 256 0 0 (x / 2 ^ 256 % 2 ^ 64) 8 with
        | .ok y u => !y.testBit 5 && !u.faultHolds 0x400 0 0 && (u.devWrite 256 0 0 0x600 8 (y ||| 64) matches .ok _ _)
        | _ => false)
      | _ => false) = true) := by
  decide +kernel

/-- MigrationHoldExpireResult: a bundle held for the host's migration, 128,000 cycles on. -/
theorem witness_migration : (let s := asInstr (.migrationHoldExpire 1) (after id 0x00000000641410840300000000000200)
    (newest s).any (fun f => let t : State := { withFrag (fun x => { x with stat := .blocked (.hold f.id) }) s with cycle := f.born + 128000 }
      decide (t.journal = [] ∧ t.flights.find? f.id = some f ∧ f.ag = .gang 2 3 ∧ (t.frag? 2 3).map (·.stat) = some (.blocked (.hold f.id)) ∧ t.gangOn 2 = true ∧
        f.sw.getD 1 0 < 16) && (t.gang? 2).any fun g => g.slot.isNone && g.trap.isNone && (t.wgs.find? g.wid).isSome) = true) := by decide +kernel
/-- CbopFailureReportResult: a failure to report to a queue. -/
theorem witness_cbop_failure : (let s : State := { placed (withQueue 0) 0 with cbops := [(7, { q := 5, index := 0, tag := 0, pasid := 0, part := 0, addr := 0x400, op := .rd 8, scope := 4 })] }
    s.journal = [] ∧ (s.cbops.find? 7).any (fun (c : CbReq) => (({ s with cbops := s.cbops.del 7 } : State).queueErr c.q c.index 8 c.tag) matches .ok _ _) = true) := by decide +kernel

/-! What MSH operations, tensor movement and the supervisor's operations do as they apply. -/

/-- Does the newest operation meet `MashActs` in gang 2, and `p`? -/
def mashActs (s : State) (p : Flight → Gang → Bool) : Bool :=
  (newest s).any fun f => (s.gang? 2).any fun g =>
    decide (s.journal = [] ∧ s.flights.find? f.id = some f ∧ f.path = 4 ∧ f.withdrawn = false ∧ gangOf f.ag = 2 ∧
      (s.mshPending 2).head?.map (·.id) = some f.id) &&
    s.mayApply f && !g.active.stale && !g.shadow.stale && ((s.wgOf g).any fun w => w.stat == .resident) && f.pages.all (fun p => !s.farKey p.key) &&
    !s.pagesHeld f && p f g
/-- The newest operation changed; it holds its grant. -/
def withOp (h : Flight → Flight) (s : State) : State :=
  match newest s with
  | none => s
  | some f => { s with flights := s.flights.put f.id (h f), kilns := [(0, ([{ who := kilnOp f.id, units := 1, since := 0, stalled := 0 }], []))] }
/-- Queue 1 holds `n` words. -/
def withWords (n : Nat) : State → State := withGang fun g => { g with q := g.q.set 1 { bind := 2, words := List.replicate n 1 } }

/-- PlanesAct: MSWAP; MLDW of a block and MCBT from the scratchpad; MLDW of a queue with a row's words; MGRP. -/
theorem witness_planes_act :
    mashActs (after id 0x00000000910000000000000000000000) (fun f _ => f.instr matches .mswap _) = true ∧
    (let s := withOp id (after id 0x00000000900400040300000000000000)
     mashActs s (fun f _ => s.kilnHas 0 (kilnOp f.id) && f.sw.getD 0 0 == 1 && !(s.operandBytes f 1 (f.sw.getD 1 0) 0 (blockBytes (fmtB f.fmt) (fmtBsm f.fmt)) 0).2) = true) ∧
    (let s := withOp (fun f => { f with sw := [2, 1] }) (after (withWords 128) 0x00000000900400040300000000000000)
     mashActs s (fun f g => s.kilnHas 0 (kilnOp f.id) && decide (f.mldwWant ≠ 0 ∧ f.mldwWant ≤ (g.qwords 1).length)) = true) ∧
    (let s := after id 0x00000000970400040300000000000000
     mashActs s (fun f _ => (f.instr matches .mcbt _) && !(s.operandBytes f 1 (f.sw.getD 1 0) 0 512 0).2) = true) ∧
    mashActs (asInstr (.mgrp op0) (after id 0x00000000910000000000000000000000)) (fun f _ => f.instr matches .mgrp _) = true := by decide +kernel

/-- MmaActs and TileBinding: two rows from V registers, the second row from scratchpad, a row from a queue, all into a tile not yet bound. -/
theorem witness_mma_acts :
    let ready := fun (s : State) (p : Flight → Gang → State → Bool) => mashActs s (fun f g => (f.instr matches .mma _) && decide (f.cur < f.sw.getD 2 0 ∧
      f.sw.getD 2 0 < 64 ∧ f.kept keyGroups = [] ∧ g.active.bad = []) && s.latches.isEmpty &&
      (s.bindTile 2 (f.sw.getD 0 0 + f.cur / 128)).any fun s1 => (s1.gang? 2).any (fun g1 => g1.abad.isEmpty) && p f g s1)
    ready (after (withGang withPlane) 0x00000000920C00110000C0C000000000) (fun f _ _ => f.sw.getD 3 0 == 3) = true ∧
    ready (withOp (fun f => { f with cur := 1 }) (after (withGang withPlane) 0x00000000920400140300C0C000000000)) (fun f _ s1 =>
      decide (f.sw.getD 3 0 = 1 ∧ min (f.sw.getD 2 0) ((f.cur / 128 + 1) * 128) = f.cur + 1) &&
        !(s1.operandBytes f 1 (f.sw.getD 4 0) (f.cur * actBytes f.fmt) (actBytes f.fmt) f.cur).2) = true ∧
    ready (withOp (fun f => { f with sw := [1, 0, 2, 2, 1, 0, 0] }) (after (fun s => withWords 64 (withGang withPlane s)) 0x00000000920C00110000C0C000000000))
      (fun f g _ => decide (f.sw.getD 3 0 = 2 ∧ actBytes f.fmt / 4 ≤ (g.qwords 1).length)) = true := by decide +kernel

/-- TileRowsAct: MCLR; MWR from V registers and from a queue; MRD to V registers, to a queue, to the scratchpad and to the placed page. -/
theorem witness_rows_act :
    let ready := fun (s : State) (p : Flight → Gang → State → Bool) => mashActs s (fun f g =>
      (s.bindTile 2 (f.sw.getD 2 0 + f.cur / 128)).any fun s1 => (s1.gang? 2).any (fun g1 => !g1.rowBad (f.sw.getD 2 0) f.cur) && f.mask.getLsbD f.cur && p f g s1)
    let rd := fun (sw : List Nat) (pages : List PageMap) => withOp (fun f => { f with sw := sw, pages := pages }) (after (withWords 64) 0x00000000940C00110000C0C000000000)
    ready (after id 0x00000000950000100000C14000000000) (fun f _ _ => f.instr matches .mclr _) = true ∧
    ready (after id 0x00000000980C00110000C0C000000000) (fun f _ s1 => (f.instr matches .mwr _) && f.sw.getD 0 0 == 3 &&
      decide ((s1.operandBytes f 3 (f.sw.getD 1 0) 0 256 0).1.length = 256)) = true ∧
    ready (withOp (fun f => { f with sw := [2, 1, 1, 2] }) (after (withWords 64) 0x00000000980C00110000C0C000000000)) (fun _ g _ =>
      decide (64 ≤ (g.qwords 1).length)) = true ∧
    ready (after id 0x00000000940C00110000C0C000000000) (fun f _ _ => (f.instr matches .mrd _) && f.sw.getD 0 0 == 3) = true ∧
    ready (rd [2, 1, 1, 2] []) (fun _ g _ => decide ((g.qwords 1).length + 64 ≤ 256)) = true ∧
    ready (rd [1, 0, 1, 2] []) (fun _ g s1 => (s1.wgs.find? g.wid).isSome && !s1.scrPoison g.wid 0 256) = true ∧
    ready (rd [0, 0xF00, 1, 1] [{ vpage := 0, key := seatCode, tso := false, zb := false }]) (fun f _ s1 =>
      let key := seatCode + 0xF00
      decide ((f.pages.find? (fun x => x.vpage == 0)).isSome ∧ s1.cxlDownIn key 256 = false ∧ keyTier (key + 255) = keyTier key ∧ keyTier key = 0 ∧
        s1.poisonIn key 256 = false ∧ s1.cbUse = [])) = true := by decide +kernel

/-- A tensor-movement operation of context 0 with these words, started, as the newest operation. -/
def tensorOp (i : Instr) (sw : List Nat) (e : State → State) : State :=
  let s := { placed e 0x00000000A30010000104420000000001 with latch := none }
  let f : Flight := { newFlight s { ag := .ctx 0, pc := 0, ctl := ctl0, mask := 1, jt := 0, seqOnly := false, after := 0, cyc := 0, passes := 1, haz := [] } i 5 with
    sw := sw, lw := [(0, [0, 0])], accs := [markAcc] }
  { s with flights := s.flights.put f.id f, nextId := s.nextId + 1 }
/-- Does the newest operation meet `TensorActs`, and `p`? -/
def tensorActs (s : State) (p : Flight → Bool) : Bool :=
  (newest s).any fun f => decide (s.journal = [] ∧ s.flights.find? f.id = some f ∧ f.path = 5 ∧ f.ag = .ctx 0 ∧ s.older = [] ∧ s.cbUse = []) && isTensor f.instr &&
    s.mayApply f && !s.tHeld f && !s.swapped.has (partOfCluster (State.tKiln f)) && (f.lw.find? 0).isSome && !f.tHeavy && p f

/-- TensorSides, TensorElements and TensorFaults: a word of TMOV from one place of the page to another, to the first and the last word of the
scratchpad and past it, a word of TFILL, a piece of TGATH and of TSCAT with index 0 and with none, a misaligned element. -/
theorem witness_tensor_elements :
    let walk := fun (dst src imm : Nat) => [dst, src, 0xAABBCCDD, imm, 0, 2, 1, 1, 1, 1, 0, 0, 0, 0, 0, 0, 0, 0]
    let goes := fun (i : Instr) (sw : List Nat) (e : State → State) => tensorActs (tensorOp i sw e) fun f => (tensorOp i sw e).tElement f matches .ok _ _
    let scr := fun (s : State) => { s.updCtx 0 (fun c => { c with pkt := { c.pkt with wid := some 1 } }) with
      wgs := (placed id 0).wgs, grids := (placed id 0).grids, gangs := (placed id 0).gangs }
    goes (.tmov op0) (walk 0x600 0x404 16) id = true ∧ goes (.tmov op0) (walk 0 0x404 (16 + 128)) scr = true ∧
    goes (.tmov op0) (walk 196604 0x404 (16 + 128)) scr = true ∧
    tensorActs (tensorOp (.tmov op0) (walk 196608 0x404 (16 + 128)) scr) (fun f =>
      (tensorOp (.tmov op0) (walk 196608 0x404 (16 + 128)) scr).tElement f matches .fault _ _) = true ∧
    goes (.tfill op0) (walk 0xFFC 0 16) id = true ∧
    goes (.tgath op0) [0x600, 0x404, 0x700, 0, 0, 2, 3, 0, 16] id = true ∧ goes (.tscat op0) [0x404, 0x600, 0x700, 0, 0, 2, 3, 4, 16] id = true ∧
    goes (.tgath op0) [0x600, 0x404, 0x700, 0, 0, 2, 3, 0, 16] (withBytes 0x700 4 (2 ^ 32 - 1)) = true ∧
    goes (.tscat op0) [0x404, 0x600, 0x700, 0, 0, 2, 3, 4, 16] (withBytes 0x700 4 (2 ^ 32 - 1)) = true ∧
    tensorActs (tensorOp (.tfill op0) (walk 0x601 0 16) id) (fun f => ((tensorOp (.tfill op0) (walk 0x601 0 16) id).tElement f matches .fault _ _) &&
      ((tensorOp (.tfill op0) (walk 0x601 0 16) id).ctx 0).stat == .running) = true := by decide +kernel

/-- An operation that the device carries out for the placed fragment, at a stage and with these words, as the newest operation. -/
def sysOp (i : Instr) (d : Dest) (cur : Nat) (sw : List Nat) (e : State → State) : State :=
  let s := { placed e 0 with latch := none }
  let f : Flight := { newFlight s { ag := .gang 2 3, pc := 0, ctl := ctl0, mask := 1, jt := 0, seqOnly := false, after := 0, cyc := 0, passes := 1, haz := [] } i sysPath with
    sw := sw, dest := d, cur := cur, accs := [devAcc .none] }
  { s with flights := s.flights.put f.id f, nextId := s.nextId + 1 }
/-- Does the newest operation meet `SysActs`, and `p`? -/
def sysActs (s : State) (p : Flight → Bool) : Bool :=
  (newest s).any fun f => decide (s.journal = [] ∧ s.flights.find? f.id = some f ∧ f.path = sysPath ∧ f.ag = .gang 2 3) && s.mayApply f && (s.gang? 2).isSome && p f
/-- Does the device reach an entry (`EntryAt`)? -/
def entryAt (s : State) (f : Flight) (k : Nat) : Bool :=
  (s.farGate (s.unitOf f.ag) f.pasid k).isNone && !s.cxlDown k && !s.poisonIn k 8 && !s.portHeld k f.born
/-- Partition 0 has a pool of 4 KiB pages, its descriptor at 0x800 of the placed page, its ring at the page's first byte, HEAD 0 and TAIL
`tail`; and a second workgroup, 9, of index 1, and a shadow region. -/
def withPool (tail : Nat) (s : State) : State :=
  let s := withBytes 0x800 8 (seatCode % 2 ^ 52) (withBytes 0x808 4 4 (withBytes 0x818 8 tail s))
  { s with
    parts := s.parts.set 0 { s.parts.getD 0 PartBlk.reset with ftpool := BitVec.ofNat 64 (seatCode % 2 ^ 52 + 0x800), shadow := 0x2000000 },
    wgs := s.wgs ++ s.wgs.map fun e => (9, { e.2 with gangs := [12], linear := 1 }),
    gangs := s.gangs ++ s.gangs.map fun e => (12, { e.2 with wid := 9 }) }
/-- Workgroup 9 has a status. -/
def with9 (x : WStat) (s : State) : State := { withPool 1 s with wgs := (withPool 1 s).wgs.upd (fun w => { w with stat := x, swapo := x == .away 1 }) 9 }

/-- PtmapActs: no pool; a table for address 0x1000 with an invalid entry; the empty pool, and one with a frame; zeros; copies; the leaf. -/
theorem witness_ptmap_acts :
    let stage := fun (cur : Nat) => sysOp (.ptmap op0) (.s 8 1 0) cur [0x1000, 2, seatCode + 0xE00, 0, seatCode + 0x800, seatCode, 4, 1, 0x7000]
    let at_ := fun (s : State) (l : List Nat) => sysActs s fun f => l.all (entryAt s f)
    sysActs (sysOp (.ptmap op0) (.s 8 1 0) 0 [0x1000, 2] id) (fun _ => (State.reset.poolOf 0).isNone && !State.reset.poolPoison 0) = true ∧
    (let s := sysOp (.ptmap op0) (.s 8 1 0) 0 [0x1000, 2] (withPool 1)
     sysActs s (fun f => (s.poolOf 0).any fun p => structOk 0 p.ring (8 * 2 ^ p.log2n) && !s.poolPoison 0 && !s.pasidPoison f.pasid && p.psize == 0 &&
       (s.rootOf f.pasid 0).any fun r => match s.tableFor 0x1000 0 5 r with
         | .table t => entryAt s f (t + 8) && s.peekN (t + 8) 8 == 0
         | _ => false) = true) ∧
    at_ (stage 1 (withPool 0)) [seatCode + 0xE00, seatCode + 0x810, seatCode + 0x818] = true ∧
    at_ (stage 1 (withPool 1)) [seatCode + 0xE00, seatCode + 0x810, seatCode + 0x818, seatCode] = true ∧
    at_ (stage 2 (withPool 1)) [] = true ∧ at_ (stage 3 (withPool 1)) ((List.range 4).map fun i => seatCode + 0xE00 + 8 * i) = true ∧
    at_ (stage 4 (withPool 1)) [seatCode + 0xE00] = true := by decide +kernel

/-- PtinvActs: its first stage; its second, waited for by no access, and by none of those that it found. -/
theorem witness_ptinv_acts : sysActs (sysOp (.ptinv op0) .none 0 [0, 0, 4096, 0] id) (fun f => f.dest == .none) = true ∧
    sysActs (sysOp (.ptinv op0) .none 1 [0, 0, 4096, 0, 7] id) (fun f => f.sw.drop 4 == [7]) = true ∧
    (let s := { sysOp (.ptinv op0) .none 1 [0, 0, 4096, 0] id with flights := (after id 0x00000000641410840300000000000200).flights }
     s.flights.any fun e => s.invWaits 0 [0, 0, 4096, 0] e.2 && !rePolls e.2.instr) = true := by decide +kernel

/-- SwapoActs: no shadow region; a workgroup to be saved; nothing left; a workgroup saved that returns. -/
theorem witness_swapo_acts : sysActs (sysOp (.swapoOut op0) (.k 1) 0 [] id) (fun _ => (State.reset.part 0).shadow == 0) = true ∧
    (let s := sysOp (.swapoOut op0) (.k 1) 0 [] (withPool 1)
     sysActs s (fun _ => !s.swapped.has 0 && (s.part 0).shadow != 0 && (s.toSave 0 1).map (·.1) == [9]) = true) ∧
    (let s := sysOp (.swapoOut op0) (.k 1) 1 [] (with9 (.away 1))
     sysActs s (fun _ => (s.toSave 0 1).isEmpty && (List.range 4).all fun c => (s.rastOf c).isEmpty && (s.sealsOf c).isEmpty && (s.scansOf c).isEmpty) = true) ∧
    (let s := sysOp (.swapoIn op0) (.k 1) 0 [] (fun s => { with9 (.away 1) s with swapped := [0] })
     sysActs s (fun _ => s.swapped.has 0 && (s.part 0).shadow != 0 && (s.wgs.find? 9).any fun w => w.swapo && w.emptied.isNone) = true) := by decide +kernel

/-- KillAndResumeAct: nothing named; the placed and the second workgroup named; GRES of a resident one, and of a parked one with a page fault. -/
theorem witness_kill_acts :
    let op := fun (i : Instr) (lin : Nat) (e : State → State) => sysOp i (.k 1) 0 [seatLaunch.tag, lin, 1] e
    sysActs (op (.gkill op0) 5 (withPool 1)) (fun _ => ((op (.gkill op0) 5 (withPool 1)).named 0 seatLaunch.tag 5).isEmpty) = true ∧
    sysActs (op (.gkill op0) 0 (withPool 1)) (fun _ => ((op (.gkill op0) 0 (withPool 1)).named 0 seatLaunch.tag 0).map (·.1) == [1]) = true ∧
    sysActs (op (.gres op0) 1 (withPool 1)) (fun _ => ((op (.gres op0) 1 (withPool 1)).named 0 seatLaunch.tag 1).all fun e => e.2.stat == .resident) = true ∧
    (let s := op (.gres op0) 1 (fun s => { with9 .parked s with gangs := (with9 .parked s).gangs.upd (fun g => { g with esc := 1, cause := 256 }) 12 })
     sysActs s (fun f => f.sw.getD 2 0 == 1 && (s.named 0 seatLaunch.tag 1).map (·.1) == [9] && (s.wgs.find? 9).any (fun w => w.stat == .parked && w.gangs == [12]) &&
       (s.gang? 12).any fun g => g.esc == 1) = true) := by decide +kernel

/-! Further witnesses of event statements. -/

/-- JointAbortResult: a broken latch whose one member is the placed gang, which has a fragment; MtagRetireResult: the MTAG may apply. -/
theorem witness_joint_member : (let l : Latch := { grid := 0, set := 1, evenWg := 0, tag := 0, rows := [], flights := [], broken := true, running := false }
    let s : State := { placed id 0 with latches := [(1, l)] }
    s.latchBad l = true ∧ (l.all s).any (fun m => m == .here 2 1) = true ∧ (s.gang? 2).any (fun g => !g.frags.isEmpty) = true) ∧
    (let s := after id 0x000000009600001C0400000000000000
     (newest s).any (fun f => s.mayApply f) = true) := by decide +kernel

/-- CompletionAction of bits 0 and 1 together: a counter that falls, and an aligned word of the placed page. LauterCompletionResult likewise, with
a count barrier. -/
theorem witness_both_actions : (let s : State := placed (fun s => s.updGrid 0 fun r => { r with live := 0, lr := { r.lr with cflags := 3, dcId := 1, nmAddr := 0x400 } }) 0
    (s.grids.find? 0).any (fun g => g.lr.cflags.testBit 0 && g.lr.cflags.testBit 1 && (s.dc 1).armed == false && (s.dc 1).count == 0 &&
      match s.translate devUnit g.pasid g.lr.part 0x400 .rmw false with
        | .ok tr => !tr.isReg && !tr.hold && decide (s.cxlDownIn tr.key 8 = false ∧ keyTier tr.key = 0 ∧ s.poisonIn tr.key 8 = false) && !tr.zb &&
            (s.farGate devUnit g.pasid tr.key).isNone && !s.portHeld tr.key s.cycle
        | _ => false) = true) ∧
    (let s : State := (placed id 0x00000000A30010000104420000000001).updCtx 0 fun c => { c with stat := .completing, pkt := { c.pkt with cfl := 3, cbAddr := 0x400, dcId := 1 } }
     (s.ctx 0).pkt.cfl.testBit 0 = true ∧ (s.ctx 0).pkt.cfl.testBit 1 = true ∧ (s.ctx 0).arrived = false ∧ (s.ctx 0).asyncs = [] ∧ s.flights = [] ∧
       (match s.trAg (.ctx 0) 0x400 .rmw with | .ok tr => !tr.isReg && tr.tier == 0 && !tr.hold && !tr.zb | _ => false) = true) := by decide +kernel

/-- CanaryMeasureResult and BusCrcReplayResult: a region without spares. ScrubResult: the first and last sectors of tiles and planes. -/
theorem witness_no_spare : (let s : State := { State.reset with regions := State.reset.regions.put 4 { State.reset.region 4 with spares := 8 } }
    8 ≤ (s.region 4).spares ∧ s.retiredSlices.has 0 = false) ∧
    engSector 2 0 / 2 ^ 55 = 12 ∧ engSector 2 9215 / 2 ^ 55 = 12 ∧ regSector 2 255 127 / 2 ^ 55 = 13 ∧ 0 / 2 ^ 55 ≠ 12 := by decide +kernel

/-- RegisterReadsBack, RegisterWriteWide and RegisterWriteIgnored at the ends of their blocks: the host may write the first and last writable
word of the device block, of the first and the last partition block, of the first and the last queue descriptor, of the routes and of the kiln
budgets; a partition's supervisor those of its own block and no other; the words beside them are in no list. -/
theorem witness_register_ends :
    (∀ off ∈ [24, 52, 60, 0x20000, 0x20000 + 72, 0x20000 + 104, 0x27000, 0x27000 + 104, 0x10000, 0x10000 + 56, 0x10000 + 64 * 511, 0x10000 + 64 * 511 + 52,
      0x100000, 0x100000 + 8 * 63, 0x40000, 0x40000 + 8 * 31], State.reset.regMine none off = true) ∧
    State.reset.regMine (some 7) (0x27000 + 104) = true ∧ State.reset.regMine (some 6) (0x27000 + 104) = false ∧
    (∀ off ∈ [20, 64, 68, 72, 0xFFFC], off ∉ [24, 28, 32, 36, 40, 44, 48, 52, 56, 60]) ∧ (State.reset.queue 511).on = false ∧ State.reset.kbudget.length = 32 := by
  decide +kernel

/-- FabricHoldTimeoutResult: a store to a chip without a route whose time is over, and a write behind a release that waits for it. -/
theorem witness_hold_over : (let s0 := after id 0x00000000651400040300420000000200
    let s : State := { s0 with cycle := 3000000, flights := s0.flights.map fun e => (e.1, { e.2 with accs := e.2.accs.map fun a =>
      { a with loc := .mem (2 * 2 ^ 60 + 5 * 2 ^ 52) false false, waitSince := 1 } }) }
    (newest s).any fun f => (f.accs.any fun a => !a.done && decide (a.waitSince - 1 + 2000000 ≤ s.cycle) && s.unreachable a) &&
      !isTensor f.instr && f.path != 4 && !({ f with id := f.id + 1, acks := [f.id] } : Flight).acks.isEmpty) = true := by decide +kernel

end Sys2Proof.Tests
end

section
/-!
PROOF. What an event that writes no byte does, and the rules by which an event changes one gang or one fragment.
-/
open Sys2Proof Sys2Proof.Machine
namespace Sys2Proof.Machine

/-! ### Events that write no byte -/

/-- Without a write, reads through other paths find what they found before. -/
@[simp] theorem dropOlder_nil (old now : List Stale) : dropOlder old [] now = now := by
  cases now with
  | nil => rfl
  | cons r t => simp [dropOlder]

/-- An event that reached a state without writing a byte ends in that state. -/
theorem runEv_quiet {s t : State} (hj : t.journal = []) (hm : t.mem = s.mem) : runEv s t = .next t := by
  unfold runEv
  rw [hj]
  simp only [afterWrites, List.isEmpty_nil, if_true, applyJournal, dropOlder_nil]
  rw [← hm, ← hj]

/-- An event without an effect. -/
theorem runEv_idle {s : State} (hj : s.journal = []) : runEv s s = .next s := runEv_quiet hj rfl

/-- An event that changes gangs alone. -/
theorem runEv_updGang {s : State} (hj : s.journal = []) (gid : Nat) (F : Gang → Gang) :
    runEv s (s.updGang gid F) = .next (s.updGang gid F) := runEv_quiet hj rfl

theorem memKept_of_mem {s t : State} (hj : t.journal = s.journal) (hm : t.mem = s.mem) : MemKept s t := fun k => by
  simp only [State.peek, hj, hm]

/-! ### One gang, one fragment -/

/-- A change of one gang is seen in that gang alone. -/
theorem oneGang_updGang {s : State} {gid : Nat} {g : Gang} (hg : s.gang? gid = some g) (F : Gang → Gang) :
    OneGang s (s.updGang gid F) gid (F g) := by
  refine ⟨rfl, fun j hj => ?_, ?_⟩
  · rw [State.gang?_updGang, if_neg hj]
  · rw [State.gang?_updGang, if_pos rfl, hg, Option.map_some]

theorem State.frag?_of_gang {s : State} {gid : Nat} {g : Gang} (hg : s.gang? gid = some g) (fid : Nat) :
    s.frag? gid fid = g.frags.find? fid := by
  simp only [State.frag?, ← State.gang?.eq_def, hg, Option.bind_some]

theorem State.frag?_eq_bind (s : State) (gid fid : Nat) : s.frag? gid fid = (s.gang? gid).bind fun g => g.frags.find? fid := rfl

theorem State.gang?_of_frag {s : State} {gid fid : Nat} {f : Frag} (hf : s.frag? gid fid = some f) :
    ∃ g, s.gang? gid = some g ∧ g.frags.find? fid = some f := Option.bind_eq_some_iff.mp hf

/-- What a change of one fragment leaves to be read of every fragment. -/
theorem State.frag?_updFrag (s : State) (gid fid j k : Nat) (F : Frag → Frag) :
    (s.updFrag gid fid F).frag? j k = if j = gid ∧ k = fid then (s.frag? j k).map F else s.frag? j k := by
  rw [State.frag?_eq_bind, State.gang?_updFrag, State.frag?_eq_bind]
  by_cases hj : j = gid
  · subst hj
    cases hg : s.gang? j with
    | none => simp
    | some g =>
      simp only [if_true, Option.map_some, Option.bind_some, Tab.find?_upd, true_and]
  · simp [hj]

/-- An event that runs to a state with one fragment changed. -/
theorem setsFrag_of_updFrag {i : Instr} {s : State} {gid fid : Nat} {f : Frag} (F : Frag → Frag)
    (hf : s.frag? gid fid = some f) (hx : exec i s = .next (s.updFrag gid fid F)) : SetsFrag i s gid fid (F f) := by
  intro g hg
  rw [State.frag?_of_gang hg] at hf
  refine ⟨_, _, hx, oneGang_updGang hg _, rfl, ?_, fun k hk => ?_⟩
  · simp only [Tab.find?_upd, if_true, hf, Option.map_some]
  · simp only [Tab.find?_upd, if_neg hk]

/-- A wait that ends makes the fragment ready, its stall not before now. -/
theorem State.unblock_eq (s : State) (gid fid : Nat) :
    s.unblock gid fid = s.updFrag gid fid (·.woken (s.cycleOf (.gang gid fid))) := rfl

theorem runEv_unblock {s : State} (hj : s.journal = []) (gid fid : Nat) :
    runEv s (s.unblock gid fid) = .next (s.updFrag gid fid (·.woken (s.cycleOf (.gang gid fid)))) := runEv_quiet hj rfl

/-- The local count of a gang's agent is its core's. -/
theorem State.cycleOf_gang {s : State} {gid : Nat} {g : Gang} (hg : s.gang? gid = some g) (fid : Nat) :
    s.cycleOf (.gang gid fid) = s.coreCycle g.core := by
  simp only [State.cycleOf, State.lagOf, hg, Option.map_some, Option.getD_some, State.coreCycle]

end Sys2Proof.Machine
end

section
/-!
PROOF. Re-gang points (02 R34-R37, R41, Table 2.3): what a check of a fragment decides, and what a merge does to the operations in flight.
-/
open Sys2Proof Sys2Proof.Machine
namespace Sys2Proof.Machine

/-! ### Operations in flight of merged fragments -/

/-- An operation in flight as the state after its fragment has merged names it. -/
def State.heirFlight (s t : State) (e : Flight) : Flight :=
  match e.ag with
  | .gang gid fid =>
    match s.gang? gid, t.gang? gid with
    | some g, some h =>
      if (g.frags.find? fid).isNone || (h.frags.find? fid).isSome then e
      else { e with ag := .gang gid ((g.heir h treeFuel fid).getD fid) }
    | _, _ => e
  | .ctx _ => e

theorem State.heirs_eq (s t : State) : s.heirs t = { t with flights := t.flights.map fun e => (e.1, s.heirFlight t e.2) } := by
  unfold State.heirs
  congr 1
  refine List.map_congr_left fun e _ => ?_
  unfold State.heirFlight
  cases e.2.ag with
  | ctx n => rfl
  | gang gid fid =>
    dsimp only
    cases s.gang? gid with
    | none => rfl
    | some g =>
      cases t.gang? gid with
      | none => rfl
      | some h => dsimp only; split <;> rfl

/-- An operation of a fragment that is still there, or was not there before, stays its own. -/
theorem State.heirFlight_kept {s t : State} {e : Flight}
    (h : ∀ gid fid g h, e.ag = .gang gid fid → s.gang? gid = some g → t.gang? gid = some h → (g.frags.find? fid).isSome = true →
      (h.frags.find? fid).isSome = true) : s.heirFlight t e = e := by
  unfold State.heirFlight
  cases hag : e.ag with
  | ctx n => rfl
  | gang gid fid =>
    dsimp only
    cases hg : s.gang? gid with
    | none => rfl
    | some g =>
      cases hh : t.gang? gid with
      | none => rfl
      | some g' =>
        dsimp only
        rw [if_pos]
        cases hf : (g.frags.find? fid).isSome with
        | false => simp [Option.isNone_iff_eq_none.mpr (Option.isSome_eq_false_iff.mp hf |> Option.isNone_iff_eq_none.mp)]
        | true => simp [h gid fid g g' hag hg hh hf]

/-- A change of one fragment leaves every operation with its fragment. -/
theorem State.heirs_updFrag (s : State) (gid fid : Nat) (F : Frag → Frag) :
    s.heirs (s.updFrag gid fid F) = s.updFrag gid fid F := by
  rw [State.heirs_eq]
  have hid : ∀ e ∈ (s.updFrag gid fid F).flights, ((e.1, s.heirFlight (s.updFrag gid fid F) e.2) : Nat × Flight) = id e := by
    intro e _
    rw [State.heirFlight_kept]
    · rfl
    · intro j k g h _ hg hh hk
      rw [State.gang?_updFrag, hg] at hh
      by_cases hj : j = gid
      · rw [if_pos hj, Option.map_some, Option.some.injEq] at hh
        subst hh
        rw [Tab.find?_upd]
        split
        · rwa [Option.isSome_map]
        · exact hk
      · rw [if_neg hj, Option.some.injEq] at hh
        exact hh ▸ hk
  rw [List.map_congr_left hid, List.map_id]

/-! ### What a check decides -/

/-- A change of a listed entry is told by what it does to that entry. -/
theorem Tab.upd_congr {α : Type} {F G : α → α} {t : Tab α} {k : Nat} {v : α} (h : t.find? k = some v) (hv : F v = G v) :
    Tab.upd F t k = Tab.upd G t k := by
  induction t with
  | nil => rfl
  | cons e t ih =>
    obtain ⟨i, w⟩ := e
    simp only [Tab.find?] at h
    simp only [Tab.upd]
    split
    · next hi => rw [if_pos hi, Option.some.injEq] at h; rw [h, hv]
    · next hi => rw [if_neg hi] at h; rw [ih h]

theorem State.updGang_congr {F G : Gang → Gang} {s : State} {gid : Nat} {g : Gang} (hg : s.gang? gid = some g) (h : F g = G g) :
    s.updGang gid F = s.updGang gid G := by
  unfold State.updGang
  rw [Tab.upd_congr hg h]

/-- A fragment of a split record, outside its handler, at the record's call depth, with its sibling. -/
structure Gang.IsChild (g : Gang) (fid : Nat) (f : Frag) (rid sib : Nat) (r : SplitRec) : Prop where
  frag : g.frags.find? fid = some f
  parent : f.parent = some rid
  record : g.recs.find? rid = some r
  sibling : r.sibling fid = some sib
  depth : f.frames.length = r.frames.length
  slot : ∀ sl, g.slot = some sl → sl.fid ≠ fid

/-- The sibling's whole subtree is held elsewhere (02 R35). -/
def Gang.heldElsewhere (g : Gang) (sib pc : Nat) : Bool :=
  (g.leaves treeFuel sib).all fun i => ((g.frags.find? i).map fun q => q.heldAt pc).getD true

theorem Gang.rgCheck_root {g : Gang} {fid : Nat} {f : Frag} (hf : g.frags.find? fid = some f) (hp : f.parent = none) :
    g.rgCheck fid = .none := by
  unfold Gang.rgCheck
  rw [hf]
  dsimp only
  rw [hp]
  split <;> rfl

theorem Gang.rgCheck_child {g : Gang} {fid rid sib : Nat} {f : Frag} {r : SplitRec} (h : g.IsChild fid f rid sib r) :
    g.rgCheck fid = if g.arrivedAt sib f.pc r.frames.length then .merge rid sib
      else if g.heldElsewhere sib f.pc then .alone else .wait := by
  have hs : g.slot.any (fun x => x.fid == fid) = false := by
    cases hsl : g.slot with
    | none => rfl
    | some sl => simpa using h.slot sl hsl
  unfold Gang.rgCheck
  rw [h.frag]
  dsimp only
  rw [hs, h.parent]
  dsimp only
  rw [h.record]
  dsimp only
  rw [if_neg (not_not_intro h.depth), h.sibling]
  rfl

/-- The sibling has arrived: it stands at the address and call depth, not blocked, its bundle not issued, without a trap of its own. -/
theorem Gang.arrivedAt_iff (g : Gang) (sib pc depth : Nat) : g.arrivedAt sib pc depth = true ↔
    ∃ q, g.frags.find? sib = some q ∧ q.pc = pc ∧ q.frames.length = depth ∧ q.pendSeq = false ∧ g.trapping sib = false ∧
      ∀ b, q.stat ≠ .blocked b := by
  unfold Gang.arrivedAt
  cases g.frags.find? sib with
  | none => simp
  | some q =>
    simp only [Option.some.injEq, exists_eq_left', Bool.and_eq_true, beq_iff_eq, Bool.not_eq_true', and_assoc]
    cases q.stat <;> simp

theorem Gang.heldElsewhere_iff (g : Gang) (sib pc : Nat) : g.heldElsewhere sib pc = true ↔
    ∀ k ∈ g.leaves treeFuel sib, ∀ q, g.frags.find? k = some q → q.heldAt pc = true := by
  unfold Gang.heldElsewhere
  rw [List.all_eq_true]
  refine forall_congr' fun k => forall_congr' fun _ => ?_
  cases g.frags.find? k <;> simp

theorem Gang.applyRg_goesOn {g : Gang} {fid : Nat} {exits : Bool}
    (h : g.rgCheck fid = .none ∨ g.rgCheck fid = .alone ∨ (g.rgCheck fid = .wait ∧ exits = true)) :
    (g.applyRg fid exits).1 = g.passRg fid := by
  obtain h | h | ⟨h, he⟩ := h
  · simp [Gang.applyRg, h, Gang.takeRg]
  · simp [Gang.applyRg, h, Gang.takeRg]
  · simp [Gang.applyRg, h, he, Gang.takeRg]

theorem Gang.applyRg_waits {g : Gang} {fid : Nat} (h : g.rgCheck fid = .wait) :
    (g.applyRg fid false).1 = { g with frags := g.frags.upd (fun f => { f with stat := .rgWait }) fid } := by
  simp [Gang.applyRg, h, Gang.takeRg]

theorem Gang.applyRg_merges {g : Gang} {fid rid sib : Nat} {exits : Bool} {r : SplitRec} {f q : Frag} (h : g.rgCheck fid = .merge rid sib)
    (hr : g.recs.find? rid = some r) (hf : g.frags.find? fid = some f) (hq : g.frags.find? sib = some q) :
    (g.applyRg fid exits).1 = g.merge rid r fid sib f q f.pc := by
  simp [Gang.applyRg, h, Gang.takeRg, Gang.doMerge, hr, hf, hq]

/-! ### A merge -/

/-- The merged fragment stands under the record's number, with the mask of both and the record's registers. -/
theorem Gang.merge_frags (g : Gang) (rid : Nat) (r : SplitRec) (a b : Nat) (fa fb : Frag) (pc : Nat) :
    ∃ m, (g.merge rid r a b fa fb pc).frags = ((g.frags.del a).del b).put rid m ∧
      m.pc = pc ∧ m.mask = fa.mask ||| fb.mask ∧ m.fmt = r.fmt ∧ m.lc = r.lc ∧ m.frames = r.frames ∧ m.sdepth = r.sdepth ∧
      m.parent = r.parent ∧ m.stat = .ready ∧ m.skip = fa.skip ||| fb.skip ∧ ∀ e, e ∈ fa.po ∨ e ∈ fb.po → e ∈ m.po :=
  ⟨_, rfl, rfl, rfl, rfl, rfl, rfl, rfl, rfl, rfl, rfl, fun e he => by simpa using he⟩

/-- The fragments after a merge: the merged one, and the others without the two. -/
theorem Tab.find?_mergeFrags (t : Tab Frag) (rid a b k : Nat) (m : Frag) :
    (((t.del a).del b).put rid m).find? k = if k = rid then some m else if k = a ∨ k = b then none else t.find? k := by
  simp only [Tab.find?_put, Tab.find?_del]
  by_cases ha : k = a <;> by_cases hb : k = b <;> simp [ha, hb]

/-- The number under which a merged fragment's operations go on is the record's. -/
theorem Gang.heir_merge {g h : Gang} {rid fid : Nat} {f : Frag} (hf : g.frags.find? fid = some f) (hp : f.parent = some rid)
    (hgone : h.frags.find? fid = none) (hrid : (h.frags.find? rid).isSome = true) : g.heir h treeFuel fid = some rid := by
  unfold treeFuel
  simp [Gang.heir, hf, hp, hgone, hrid]

/-- The operations in flight after the merge of two fragments: those of the two are the merged fragment's. -/
theorem State.heirFlight_merge {s : State} {gid fid rid sib : Nat} {g : Gang} {f q : Frag} {r : SplitRec} {F : Gang → Gang}
    (hg : s.gang? gid = some g) (hF : F g = g.merge rid r fid sib f q f.pc) (hf : g.frags.find? fid = some f)
    (hq : g.frags.find? sib = some q) (hpf : f.parent = some rid) (hpq : q.parent = some rid) (h1 : rid ≠ fid) (h2 : rid ≠ sib)
    (e : Flight) : s.heirFlight (s.updGang gid F) e =
      if e.ag = .gang gid fid ∨ e.ag = .gang gid sib then { e with ag := .gang gid rid } else e := by
  obtain ⟨m, hm, -⟩ := g.merge_frags rid r fid sib f q f.pc
  have hfrags : ∀ k, (F g).frags.find? k = if k = rid then some m else if k = fid ∨ k = sib then none else g.frags.find? k :=
    fun k => by rw [hF, hm, Tab.find?_mergeFrags]
  have hgone : ∀ k, k = fid ∨ k = sib → s.heirFlight (s.updGang gid F) { e with ag := .gang gid k } = { e with ag := .gang gid rid } := by
    intro k hk
    have hkr : k ≠ rid := by rintro rfl; exact hk.elim h1 h2
    have hnone : (F g).frags.find? k = none := by rw [hfrags, if_neg hkr, if_pos hk]
    have hheir : g.heir (F g) treeFuel k = some rid := by
      have hrid : ((F g).frags.find? rid).isSome = true := by rw [hfrags, if_pos rfl]; rfl
      obtain rfl | rfl := hk
      · exact Gang.heir_merge hf hpf hnone hrid
      · exact Gang.heir_merge hq hpq hnone hrid
    have hold : (g.frags.find? k).isNone = false := by obtain rfl | rfl := hk <;> simp [hf, hq]
    simp only [State.heirFlight, hg, State.gang?_updGang, if_true, Option.map_some, hold, hnone, hheir]
    rfl
  split
  · next h =>
    obtain h | h := h
    · rw [← hgone fid (.inl rfl), ← h]
    · rw [← hgone sib (.inr rfl), ← h]
  · next h =>
    refine State.heirFlight_kept fun j k g' g'' hag hg' hg'' hk => ?_
    rw [State.gang?_updGang] at hg''
    by_cases hj : j = gid
    · subst hj
      rw [if_pos rfl, hg, Option.map_some, Option.some.injEq] at hg''
      rw [hg, Option.some.injEq] at hg'
      subst hg''; subst hg'
      have hk2 : ¬ (k = fid ∨ k = sib) := fun hk => h (hk.imp (fun hk => hag.trans (by rw [hk])) fun hk => hag.trans (by rw [hk]))
      rw [hfrags, if_neg hk2]
      split
      · rfl
      · exact hk
    · rw [if_neg hj, hg', Option.some.injEq] at hg''
      exact hg'' ▸ hk

/-! ### The events -/

/-- A check at which the fragment goes on. -/
theorem setsFrag_goesOn {i : Instr} {s : State} {gid fid : Nat} {g : Gang} {f : Frag} {exits : Bool} (hj : s.journal = [])
    (hg : s.gang? gid = some g) (hf : g.frags.find? fid = some f)
    (hx : exec i s = runEv s (s.heirs (s.updGang gid fun g => (g.applyRg fid exits).1)))
    (hc : g.rgCheck fid = .none ∨ g.rgCheck fid = .alone ∨ (g.rgCheck fid = .wait ∧ exits = true)) :
    SetsFrag i s gid fid { f with stat := .ready, rgOk := true } := by
  refine setsFrag_of_updFrag (fun f => { f with stat := .ready, rgOk := true }) ((State.frag?_of_gang hg fid).trans hf) ?_
  rw [hx, State.updGang_congr (G := (·.passRg fid)) hg (Gang.applyRg_goesOn hc)]
  exact (congrArg _ (s.heirs_updFrag gid fid _)).trans (runEv_updGang hj _ _)

/-- A check at which the fragment waits. -/
theorem setsFrag_waits {i : Instr} {s : State} {gid fid : Nat} {g : Gang} {f : Frag} (hj : s.journal = [])
    (hg : s.gang? gid = some g) (hf : g.frags.find? fid = some f)
    (hx : exec i s = runEv s (s.heirs (s.updGang gid fun g => (g.applyRg fid false).1))) (hc : g.rgCheck fid = .wait) :
    SetsFrag i s gid fid { f with stat := .rgWait } := by
  refine setsFrag_of_updFrag (fun f => { f with stat := .rgWait }) ((State.frag?_of_gang hg fid).trans hf) ?_
  rw [hx, State.updGang_congr (G := fun g => { g with frags := g.frags.upd (fun f => { f with stat := .rgWait }) fid }) hg
    (Gang.applyRg_waits hc)]
  exact (congrArg _ (s.heirs_updFrag gid fid _)).trans (runEv_updGang hj _ _)

/-- An event that applies a check at a fragment does what Table 2.3 says. -/
theorem regangs_of_applyRg {i : Instr} {s : State} {gid fid : Nat} {g : Gang} {f : Frag} {exits : Bool} (hj : s.journal = [])
    (hg : s.gang? gid = some g) (hf : g.frags.find? fid = some f)
    (hx : exec i s = runEv s (s.heirs (s.updGang gid fun g => (g.applyRg fid exits).1))) : Regangs i s gid fid g f exits := by
  refine ⟨fun hp => setsFrag_goesOn hj hg hf hx (.inl (Gang.rgCheck_root hf hp)), ?_⟩
  intro rid sib r hp hr hs hrf hrs hsf hd hsl
  have hcheck := Gang.rgCheck_child ⟨hf, hp, hr, hs, hd, hsl⟩
  refine ⟨fun q hq harr hpq => ?_, fun harr hgo => ?_, fun harr hheld hex => ?_⟩
  · rw [if_pos ((Gang.arrivedAt_iff ..).mpr harr)] at hcheck
    have happ := Gang.applyRg_merges (exits := exits) hcheck hr hf hq
    obtain ⟨m, hm, hmerged⟩ := g.merge_frags rid r fid sib f q f.pc
    refine ⟨_, (g.applyRg fid exits).1, m, hx.trans (runEv_quiet hj rfl), rfl, fun j hne => ?_, ?_, fun j e he => ?_, ?_⟩
    · exact (oneGang_updGang hg _).2.1 j hne
    · exact (oneGang_updGang hg _).2.2
    · rw [State.heirs_eq, Tab.find?_map fun _ => s.heirFlight _, State.flights_updGang, he, Option.map_some,
        State.heirFlight_merge hg happ hf hq hp hpq hrf hrs]
    · rw [happ]
      refine ⟨rfl, ?_, ?_, ?_, ?_, fun k h1 h2 h3 => ?_, hmerged⟩
      · rw [hm, Tab.find?_mergeFrags, if_pos rfl]
      · rw [hm, Tab.find?_mergeFrags, if_neg (Ne.symm hrf), if_pos (.inl rfl)]
      · rw [hm, Tab.find?_mergeFrags, if_neg (Ne.symm hrs), if_pos (.inr rfl)]
      · simp only [Gang.merge, Tab.find?_del, if_true]
      · rw [hm, Tab.find?_mergeFrags, if_neg h1, if_neg (not_or.mpr ⟨h2, h3⟩)]
  · rw [if_neg (mt (Gang.arrivedAt_iff ..).mp harr)] at hcheck
    refine setsFrag_goesOn hj hg hf hx ?_
    rw [hcheck]
    obtain hheld | hex := hgo
    · exact .inr (.inl (if_pos ((Gang.heldElsewhere_iff ..).mpr hheld)))
    · split
      · exact .inr (.inl rfl)
      · exact .inr (.inr ⟨rfl, hex⟩)
  · subst hex
    refine setsFrag_waits hj hg hf hx ?_
    rw [hcheck, if_neg (mt (Gang.arrivedAt_iff ..).mp harr), if_neg (mt (Gang.heldElsewhere_iff ..).mp hheld)]

theorem regangCheckResult : Says.RegangCheckResult := by
  intro s gid fid g f hj hg hf hready hok hstop htrap hrg hseq
  refine regangs_of_applyRg hj hg hf ?_
  show execRegangCheck gid fid s = _
  unfold execRegangCheck
  rw [State.frag?_of_gang hg, hf]
  dsimp only
  refine if_pos ?_
  have hseq : (!f.pendSeq || s.nextExits (.gang gid fid)) = true := by obtain h | h := hseq <;> simp [h]
  simp [hready, hok, hstop, hg, htrap, hrg, hseq]

theorem regangReleaseResult : Says.RegangReleaseResult := by
  intro s gid fid g f hj hg hf hwait htrap
  refine regangs_of_applyRg hj hg hf ?_
  show execRegangRelease gid fid s = _
  unfold execRegangRelease
  rw [State.frag?_of_gang hg, hf]
  dsimp only
  exact if_pos (by simp [hwait, hg, htrap])

end Sys2Proof.Machine
end

section
/-!
PROOF. Waiters examined again (02 R37, R39): each round of releases leaves fewer fragments waiting, so a settled gang has none to release.
-/
open Sys2Proof Sys2Proof.Machine
namespace Sys2Proof.Machine

/-! ### Keys in rising order -/

/-- The keys of a table rise. -/
def Tab.Rising {α : Type} (t : Tab α) : Prop := t.keys.Pairwise (· < ·)

theorem Tab.rising_cons {α : Type} {k : Nat} {v : α} {t : Tab α} :
    Tab.Rising ((k, v) :: t) ↔ (∀ e ∈ t, k < e.1) ∧ Tab.Rising t := by
  simp only [Tab.Rising, Tab.keys, List.map_cons, List.pairwise_cons, List.forall_mem_map]

/-- In a rising table every entry is the one found under its key. -/
theorem Tab.find?_of_mem {α : Type} {t : Tab α} (ht : t.Rising) {k : Nat} {v : α} (h : (k, v) ∈ t) : t.find? k = some v := by
  induction t with
  | nil => simp at h
  | cons e t ih =>
    obtain ⟨i, w⟩ := e
    obtain ⟨hi, ht⟩ := Tab.rising_cons.mp ht
    simp only [List.mem_cons, Prod.mk.injEq] at h
    simp only [Tab.find?]
    obtain ⟨rfl, rfl⟩ | h := h
    · rw [if_pos rfl]
    · rw [if_neg (Nat.ne_of_lt (hi _ h)), ih ht h]

theorem Tab.mem_of_find? {α : Type} {t : Tab α} {k : Nat} {v : α} (h : t.find? k = some v) : (k, v) ∈ t := by
  induction t with
  | nil => simp [Tab.find?] at h
  | cons e t ih =>
    obtain ⟨i, w⟩ := e
    simp only [Tab.find?] at h
    split at h
    · next hi => simp_all
    · exact List.mem_cons_of_mem _ (ih h)

theorem Tab.rising_upd {α : Type} {F : α → α} {t : Tab α} {k : Nat} (ht : t.Rising) : (t.upd F k).Rising := by
  have hkeys : (t.upd F k).keys = t.keys := by
    clear ht
    induction t with
    | nil => rfl
    | cons e t ih =>
      obtain ⟨i, w⟩ := e
      simp only [Tab.upd]
      split
      · rfl
      · exact congrArg (i :: ·) ih
  rw [Tab.Rising, hkeys]
  exact ht

theorem Tab.rising_del {α : Type} {t : Tab α} {k : Nat} (ht : t.Rising) : (t.del k).Rising :=
  ht.sublist (List.filter_sublist.map _)

theorem Tab.mem_put {α : Type} {t : Tab α} {k : Nat} {v : α} {e : Nat × α} (h : e ∈ t.put k v) : e.1 = k ∨ e ∈ t := by
  induction t with
  | nil => simp_all [Tab.put]
  | cons x t ih =>
    obtain ⟨i, w⟩ := x
    simp only [Tab.put] at h
    split at h
    · simp only [List.mem_cons] at h ⊢
      exact h.imp (fun h => by rw [h]) .inr
    · split at h
      · simp only [List.mem_cons] at h ⊢
        exact h.imp (fun h => by rw [h]) id
      · simp only [List.mem_cons] at h ⊢
        obtain h | h := h
        · exact .inr (.inl h)
        · exact (ih h).imp id .inr

theorem Tab.rising_put {α : Type} {t : Tab α} {k : Nat} {v : α} (ht : t.Rising) : (t.put k v).Rising := by
  induction t with
  | nil => simp [Tab.put, Tab.Rising, Tab.keys]
  | cons e t ih =>
    obtain ⟨i, w⟩ := e
    obtain ⟨hi, ht'⟩ := Tab.rising_cons.mp ht
    simp only [Tab.put]
    split
    · next h => subst h; exact Tab.rising_cons.mpr ⟨hi, ht'⟩
    · split
      · next h => exact Tab.rising_cons.mpr ⟨by simpa [h] using fun a b hab => Nat.lt_trans h (hi _ hab), ht⟩
      · next h1 h2 =>
        exact Tab.rising_cons.mpr ⟨fun x hx => (Tab.mem_put hx).elim (fun h => by omega) (hi x), ih ht'⟩

/-! ### The fragments that wait -/

/-- Does a fragment wait at a re-gang point? -/
def waitsAtPoint (e : Nat × Frag) : Bool := e.2.stat == .rgWait

/-- The number of a gang's fragments that wait at re-gang points. -/
def Gang.waiting (g : Gang) : Nat := g.frags.countP waitsAtPoint

theorem countP_upd_lt {t : Tab Frag} {k : Nat} {f : Frag} {F : Frag → Frag} (hf : t.find? k = some f) (hw : f.stat = .rgWait)
    (hF : (F f).stat ≠ .rgWait) : (t.upd F k).countP waitsAtPoint < t.countP waitsAtPoint := by
  induction t with
  | nil => simp [Tab.find?] at hf
  | cons e t ih =>
    obtain ⟨i, w⟩ := e
    simp only [Tab.find?] at hf
    simp only [Tab.upd]
    split
    · next hi =>
      rw [if_pos hi, Option.some.injEq] at hf
      subst hf
      simp [waitsAtPoint, hw, hF]
    · next hi =>
      rw [if_neg hi] at hf
      simpa only [List.countP_cons, Nat.add_lt_add_iff_right] using ih hf

theorem countP_put_le {t : Tab Frag} {k : Nat} {m : Frag} (hm : m.stat ≠ .rgWait) :
    (t.put k m).countP waitsAtPoint ≤ t.countP waitsAtPoint := by
  induction t with
  | nil => simp [Tab.put, waitsAtPoint, hm]
  | cons e t ih =>
    obtain ⟨i, w⟩ := e
    simp only [Tab.put]
    split
    · simp [List.countP_cons, waitsAtPoint, hm]
    · split
      · simp [List.countP_cons, waitsAtPoint, hm]
      · simpa only [List.countP_cons, Nat.add_le_add_iff_right] using ih

theorem countP_del_le (t : Tab Frag) (k : Nat) : (t.del k).countP waitsAtPoint ≤ t.countP waitsAtPoint :=
  List.filter_sublist.countP_le

theorem countP_del_lt {t : Tab Frag} {k : Nat} {f : Frag} (hf : t.find? k = some f) (hw : f.stat = .rgWait) :
    (t.del k).countP waitsAtPoint < t.countP waitsAtPoint := by
  induction t with
  | nil => simp [Tab.find?] at hf
  | cons e t ih =>
    obtain ⟨i, w⟩ := e
    simp only [Tab.find?] at hf
    by_cases hi : i = k
    · rw [if_pos hi, Option.some.injEq] at hf
      subst hf
      have hdel : Tab.del ((i, w) :: t) k = Tab.del t k := by simp [Tab.del, hi]
      have hhere : waitsAtPoint (i, w) = true := by simp [waitsAtPoint, hw]
      rw [hdel, List.countP_cons, if_pos hhere]
      exact Nat.lt_succ_of_le (countP_del_le t k)
    · rw [if_neg hi] at hf
      have hdel : Tab.del ((i, w) :: t) k = (i, w) :: Tab.del t k := by simp [Tab.del, hi]
      rw [hdel, List.countP_cons, List.countP_cons]
      exact Nat.add_lt_add_right (ih hf) _

/-! ### One release, one round -/

theorem Gang.merge_rising {g : Gang} (hg : g.frags.Rising) (rid : Nat) (r : SplitRec) (a b : Nat) (fa fb : Frag) (pc : Nat) :
    (g.merge rid r a b fa fb pc).frags.Rising := Tab.rising_put (Tab.rising_del (Tab.rising_del hg))

theorem Gang.merge_waiting {g : Gang} {a : Nat} {fa : Frag} (ha : g.frags.find? a = some fa) (hw : fa.stat = .rgWait)
    (rid : Nat) (r : SplitRec) (b : Nat) (fb : Frag) (pc : Nat) : (g.merge rid r a b fa fb pc).waiting < g.waiting :=
  calc (g.merge rid r a b fa fb pc).waiting
    _ ≤ ((g.frags.del a).del b).countP waitsAtPoint := countP_put_le (by simp)
    _ ≤ (g.frags.del a).countP waitsAtPoint := countP_del_le _ _
    _ < g.waiting := countP_del_lt ha hw

theorem Gang.passRg_waiting {g : Gang} {fid : Nat} {f : Frag} (hf : g.frags.find? fid = some f) (hw : f.stat = .rgWait) :
    (g.passRg fid).waiting < g.waiting := countP_upd_lt hf hw (by simp)

/-- A check gives a merge only with a record and a sibling that are there. -/
theorem Gang.rgCheck_merge {g : Gang} {fid rid sib : Nat} (h : g.rgCheck fid = .merge rid sib) :
    ∃ r q, g.recs.find? rid = some r ∧ g.frags.find? sib = some q := by
  unfold Gang.rgCheck at h
  split at h
  · cases h
  · split at h
    · cases h
    · split at h
      · cases h
      · split at h
        · cases h
        · next hr =>
          split at h
          · cases h
          · split at h
            · cases h
            · split at h
              · next harr =>
                cases h
                obtain ⟨q, hq, -⟩ := (Gang.arrivedAt_iff ..).mp harr
                exact ⟨_, q, hr, hq⟩
              · split at h <;> cases h

/-- What a release of a waiter leaves: keys in order, and no more waiters than before. -/
theorem Gang.releaseRg_keeps {g : Gang} (hg : g.frags.Rising) {e : Nat × RgRes} (he : e.2 ≠ .wait) :
    (g.releaseRg e).frags.Rising ∧ (g.releaseRg e).waiting ≤ g.waiting := by
  obtain ⟨fid, res⟩ := e
  unfold Gang.releaseRg
  split
  · next h =>
    obtain ⟨f, hf, hw⟩ : ∃ f, g.frags.find? fid = some f ∧ f.stat = .rgWait := by simpa [Option.any_eq_true] using h
    cases res with
    | wait => exact absurd rfl he
    | alone => exact ⟨Tab.rising_upd hg, Nat.le_of_lt (Gang.passRg_waiting hf hw)⟩
    | none => exact ⟨Tab.rising_upd hg, Nat.le_of_lt (Gang.passRg_waiting hf hw)⟩
    | merge rid sib =>
      simp only [Gang.takeRg, Gang.doMerge, hf]
      split
      · next hf' _ =>
        cases hf'
        exact ⟨Gang.merge_rising hg .., Nat.le_of_lt (Gang.merge_waiting hf hw ..)⟩
      · exact ⟨hg, Nat.le_refl _⟩
  · exact ⟨hg, Nat.le_refl _⟩

/-- The release that a waiter's own check gives ends its wait. -/
theorem Gang.releaseRg_waiting {g : Gang} {fid : Nat} {f : Frag} (hf : g.frags.find? fid = some f) (hw : f.stat = .rgWait)
    (hc : g.rgCheck fid ≠ .wait) : (g.releaseRg (fid, g.rgCheck fid)).waiting < g.waiting := by
  unfold Gang.releaseRg
  rw [if_pos (by simp [hf, hw])]
  cases hres : g.rgCheck fid with
  | wait => exact absurd hres hc
  | alone => exact Gang.passRg_waiting hf hw
  | none => exact Gang.passRg_waiting hf hw
  | merge rid sib =>
    obtain ⟨r, q, hr, hq⟩ := Gang.rgCheck_merge hres
    simp only [Gang.takeRg, Gang.doMerge, hr, hf, hq]
    exact Gang.merge_waiting hf hw ..

theorem Gang.foldl_releaseRg_keeps (l : List (Nat × RgRes)) : ∀ {g : Gang}, g.frags.Rising → (∀ e ∈ l, e.2 ≠ .wait) →
    (l.foldl Gang.releaseRg g).frags.Rising ∧ (l.foldl Gang.releaseRg g).waiting ≤ g.waiting := by
  induction l with
  | nil => exact fun hg _ => ⟨hg, Nat.le_refl _⟩
  | cons e l ih =>
    intro g hg hl
    obtain ⟨h1, h2⟩ := Gang.releaseRg_keeps hg (hl e List.mem_cons_self)
    obtain ⟨k1, k2⟩ := ih h1 fun x hx => hl x (List.mem_cons_of_mem _ hx)
    exact ⟨k1, Nat.le_trans k2 h2⟩

theorem Gang.mem_rgReleases {g : Gang} {e : Nat × RgRes} : e ∈ g.rgReleases ↔
    (∃ f, (e.1, f) ∈ g.frags ∧ f.stat = .rgWait ∧ g.trapping e.1 = false) ∧ e.2 = g.rgCheck e.1 ∧ e.2 ≠ .wait := by
  obtain ⟨fid, res⟩ := e
  unfold Gang.rgReleases
  simp only [List.mem_filter, List.mem_map, Prod.exists, Prod.mk.injEq, Bool.and_eq_true, beq_iff_eq, Bool.not_eq_true', bne_iff_ne]
  constructor
  · rintro ⟨⟨i, f, ⟨hm, hw, ht⟩, rfl, rfl⟩, hne⟩
    exact ⟨⟨f, hm, hw, ht⟩, rfl, hne⟩
  · rintro ⟨⟨f, hm, hw, ht⟩, rfl, hne⟩
    exact ⟨⟨fid, f, ⟨hm, hw, ht⟩, rfl, rfl⟩, hne⟩

/-- A round with something to release leaves fewer fragments waiting. -/
theorem Gang.round_waiting {g : Gang} (hg : g.frags.Rising) (hne : g.rgReleases ≠ []) :
    (g.rgReleases.foldl Gang.releaseRg g).frags.Rising ∧ (g.rgReleases.foldl Gang.releaseRg g).waiting < g.waiting := by
  have hmem : ∀ e ∈ g.rgReleases, e.2 ≠ .wait := fun e he => (Gang.mem_rgReleases.mp he).2.2
  cases hl : g.rgReleases with
  | nil => exact absurd hl hne
  | cons e l =>
    rw [hl] at hmem
    obtain ⟨⟨f, hf, hw, -⟩, hres, hgo⟩ := Gang.mem_rgReleases.mp (hl ▸ List.mem_cons_self : e ∈ g.rgReleases)
    have hfirst : (g.releaseRg e).waiting < g.waiting := by
      have h := Gang.releaseRg_waiting (Tab.find?_of_mem hg hf) hw (hres ▸ hgo)
      rwa [← hres] at h
    obtain ⟨h1, -⟩ := Gang.releaseRg_keeps hg hgo
    obtain ⟨k1, k2⟩ := Gang.foldl_releaseRg_keeps l h1 fun x hx => hmem x (List.mem_cons_of_mem _ hx)
    exact ⟨k1, Nat.lt_of_le_of_lt k2 hfirst⟩

theorem Gang.rgReleases_of_waiting {g : Gang} (h : g.waiting = 0) : g.rgReleases = [] := by
  refine List.eq_nil_iff_forall_not_mem.mpr fun e he => ?_
  obtain ⟨⟨f, hf, hw, -⟩, -⟩ := Gang.mem_rgReleases.mp he
  exact List.countP_eq_zero.mp h _ hf (by simp [waitsAtPoint, hw])

/-- As many rounds as there are waiters settle a gang. -/
theorem Gang.settle_settles (n : Nat) : ∀ {g : Gang}, g.frags.Rising → g.waiting ≤ n → (g.settle n).rgReleases = [] := by
  induction n with
  | zero => exact fun _ hw => Gang.rgReleases_of_waiting (Nat.le_zero.mp hw)
  | succ n ih =>
    intro g hg hw
    unfold Gang.settle
    split
    · next h => exact List.isEmpty_iff.mp h
    · next h =>
      obtain ⟨h1, h2⟩ := Gang.round_waiting hg fun hnil => h (List.isEmpty_iff.mpr hnil)
      exact ih h1 (by omega)

/-- What a step leaves of a gang is what its event left, settled. -/
theorem State.gang?_settleRg (u : State) (gid : Nat) : u.settleRg.gang? gid =
    (u.gang? gid).map fun g => if g.frags.any (fun x => x.2.stat == .rgWait) then g.settle (2 * g.frags.length) else g := by
  rw [State.settleRg, State.heirs_eq]
  exact Tab.find?_map (fun _ (g : Gang) => if g.frags.any (fun x => x.2.stat == .rgWait) then g.settle (2 * g.frags.length) else g) _ _

theorem waitersSettled : Says.WaitersSettled := by
  refine ⟨fun s t hst gid g hg => ?_, fun g hg => Gang.settle_settles _ hg ?_⟩
  · unfold step settled at hst
    split at hst
    · next u hu =>
      cases hst
      rw [State.gang?_settleRg, Option.map_eq_some_iff] at hg
      obtain ⟨g0, hg0, rfl⟩ := hg
      exact ⟨u, g0, hu, hg0, rfl⟩
    · next hne => exact absurd hst (hne t)
  · exact Nat.le_trans List.countP_le_length (by omega)

end Sys2Proof.Machine
end

section
/-!
PROOF. Issue selection (03 R73, R74), the register cache (02 R52), halts and asynchronous causes (09 R250, R252).
-/
open Sys2Proof Sys2Proof.Machine
namespace Sys2Proof.Machine

/-! ### The choice of issue selection -/

theorem longest_isSome {l : List Cand} (h : l ≠ []) : ∃ c, longest l = some c := by
  cases l with
  | nil => exact absurd rfl h
  | cons x t =>
    simp only [longest]
    split
    · exact ⟨_, rfl⟩
    · split <;> exact ⟨_, rfl⟩

/-- Of some candidates the one chosen has waited longest. -/
theorem longest_spec {l : List Cand} {c : Cand} (h : longest l = some c) : c ∈ l ∧ ∀ x ∈ l, c.last ≤ x.last := by
  induction l generalizing c with
  | nil => cases h
  | cons x t ih =>
    simp only [longest] at h
    cases hy : longest t with
    | none =>
      have ht : t = [] := by
        refine Classical.byContradiction fun hne => ?_
        obtain ⟨y, hsome⟩ := longest_isSome hne
        rw [hy] at hsome
        cases hsome
      simp only [hy, Option.some.injEq] at h
      simp [ht, h]
    | some y =>
      obtain ⟨hmem, hle⟩ := ih hy
      simp only [hy] at h
      split at h
      · next hb =>
        cases h
        have hxy : x.last ≤ y.last := by
          simp only [Cand.before, Bool.or_eq_true, Bool.and_eq_true, decide_eq_true_eq, beq_iff_eq] at hb
          obtain hb | hb := hb
          · exact Nat.le_of_lt hb
          · exact Nat.le_of_eq hb.1
        exact ⟨List.mem_cons_self, List.forall_mem_cons.mpr ⟨Nat.le_refl _, fun z hz => Nat.le_trans hxy (hle z hz)⟩⟩
      · next hb =>
        cases h
        have hyx : c.last ≤ x.last := by
          simp only [Cand.before, Bool.or_eq_true, decide_eq_true_eq, not_or] at hb
          omega
        exact ⟨List.mem_cons_of_mem _ hmem, List.forall_mem_cons.mpr ⟨hyx, hle⟩⟩

/-- The highest priority of some candidates. -/
def topPrio (ready : List Cand) : Nat := ready.foldl (fun m c => max m c.prio) 0

/-- The candidates of the highest priority. -/
def topCands (ready : List Cand) : List Cand := ready.filter fun c => c.prio == topPrio ready

theorem le_topPrio {ready : List Cand} {x : Cand} (h : x ∈ ready) : x.prio ≤ topPrio ready := by
  have key : ∀ (l : List Cand) (m : Nat), m ≤ l.foldl (fun m c => max m c.prio) m ∧
      ∀ y ∈ l, y.prio ≤ l.foldl (fun m c => max m c.prio) m := by
    intro l
    induction l with
    | nil => exact fun m => ⟨Nat.le_refl _, by simp⟩
    | cons y l ih =>
      intro m
      obtain ⟨h1, h2⟩ := ih (max m y.prio)
      exact ⟨Nat.le_trans (Nat.le_max_left ..) h1, List.forall_mem_cons.mpr ⟨Nat.le_trans (Nat.le_max_right ..) h1, h2⟩⟩
  exact (key ready 0).2 x h

theorem topPrio_mem {ready : List Cand} (h : ready ≠ []) : ∃ x ∈ ready, x.prio = topPrio ready := by
  have key : ∀ (l : List Cand) (m : Nat), l.foldl (fun m c => max m c.prio) m = m ∨
      ∃ x ∈ l, x.prio = l.foldl (fun m c => max m c.prio) m := by
    intro l
    induction l with
    | nil => exact fun m => .inl rfl
    | cons y l ih =>
      intro m
      simp only [List.foldl_cons]
      obtain h | ⟨x, hx, hp⟩ := ih (max m y.prio)
      · rw [h]
        obtain hm | hm := Nat.le_total y.prio m
        · exact .inl (Nat.max_eq_left hm)
        · exact .inr ⟨y, List.mem_cons_self, (Nat.max_eq_right hm).symm⟩
      · exact .inr ⟨x, List.mem_cons_of_mem _ hx, hp⟩
  obtain h0 | h1 := key ready 0
  · obtain ⟨x, t, rfl⟩ := List.exists_cons_of_ne_nil h
    refine ⟨x, List.mem_cons_self, ?_⟩
    have hx := le_topPrio (ready := x :: t) List.mem_cons_self
    have hz : topPrio (x :: t) = 0 := h0
    omega
  · exact h1

theorem mem_topCands {ready : List Cand} {c : Cand} : c ∈ topCands ready ↔ c ∈ ready ∧ ∀ x ∈ ready, x.prio ≤ c.prio := by
  simp only [topCands, List.mem_filter, beq_iff_eq]
  refine and_congr_right fun hc => ⟨fun h x hx => h ▸ le_topPrio hx, fun h => ?_⟩
  obtain ⟨x, hx, hp⟩ := topPrio_mem (List.ne_nil_of_mem hc)
  exact Nat.le_antisymm (le_topPrio hc) (hp ▸ h x hx)

theorem topCands_ne_nil {ready : List Cand} (h : ready ≠ []) : topCands ready ≠ [] := by
  obtain ⟨x, hx, hp⟩ := topPrio_mem h
  exact List.ne_nil_of_mem (mem_topCands.mpr ⟨hx, fun y hy => hp ▸ le_topPrio hy⟩)

/-- The choice by the candidate that issued last on the datapath, when it is among the best. -/
theorem chooseCand_eq (f0 : Option (Nat × Nat)) (ready : List Cand) : chooseCand f0 ready =
    match (topCands ready).find? fun c => f0 == some (c.gid, c.fid) with
    | some c =>
      if c.run < 64 then some (c, c.run + 1)
      else match longest ((topCands ready).filter fun x => x != c) with
        | some x => some (x, 1)
        | none => some (c, c.run + 1)
    | none => (longest (topCands ready)).map fun x => (x, 1) := rfl

/-- What is chosen among candidates that there are (03 R73). -/
theorem chooseCand_spec (f0 : Option (Nat × Nat)) {ready : List Cand} (hne : ready ≠ []) :
    ∃ c run, chooseCand f0 ready = some (c, run) ∧ c ∈ topCands ready ∧
      (∀ c0 ∈ topCands ready, f0 = some (c0.gid, c0.fid) → (∀ x ∈ ready, x.gid = c0.gid → x.fid = c0.fid → x = c0) → c0.run < 64 →
        c = c0 ∧ run = c0.run + 1) ∧
      ((∀ x ∈ ready, f0 ≠ some (x.gid, x.fid)) → run = 1 ∧ ∀ x ∈ topCands ready, c.last ≤ x.last) := by
  rw [chooseCand_eq]
  cases hmine : (topCands ready).find? fun c => f0 == some (c.gid, c.fid) with
  | none =>
    have hnot : ∀ x ∈ topCands ready, f0 ≠ some (x.gid, x.fid) := by simpa using hmine
    obtain ⟨c, hc⟩ := longest_isSome (topCands_ne_nil hne)
    obtain ⟨hmem, hle⟩ := longest_spec hc
    exact ⟨c, 1, by simp [hc], hmem, fun c0 h0 hlast => absurd hlast (hnot c0 h0), fun _ => ⟨rfl, hle⟩⟩
  | some m =>
    have hm := List.mem_of_find?_eq_some hmine
    have hlast : f0 = some (m.gid, m.fid) := by simpa using List.find?_some hmine
    have hnever : ∀ {P : Prop}, (∀ x ∈ ready, f0 ≠ some (x.gid, x.fid)) → P :=
      fun h => absurd hlast (h m (mem_topCands.mp hm).1)
    have hself : ∀ c0 ∈ topCands ready, f0 = some (c0.gid, c0.fid) → (∀ x ∈ ready, x.gid = c0.gid → x.fid = c0.fid → x = c0) →
        m = c0 := by
      intro c0 _ h0 huniq
      rw [hlast, Option.some.injEq, Prod.mk.injEq] at h0
      exact huniq m (mem_topCands.mp hm).1 h0.1 h0.2
    dsimp only
    split
    · exact ⟨m, m.run + 1, rfl, hm, fun c0 h0 hl hu _ => by rw [hself c0 h0 hl hu]; exact ⟨rfl, rfl⟩, hnever⟩
    · next hrun =>
      have habs {P : Prop} : ∀ c0 ∈ topCands ready, f0 = some (c0.gid, c0.fid) →
          (∀ x ∈ ready, x.gid = c0.gid → x.fid = c0.fid → x = c0) → c0.run < 64 → P :=
        fun c0 h0 hl hu hr => absurd (hself c0 h0 hl hu ▸ hr) hrun
      split
      · next x hx =>
        exact ⟨x, 1, rfl, (List.mem_filter.mp (longest_spec hx).1).1, fun c0 h0 hl hu hr => habs c0 h0 hl hu hr, hnever⟩
      · exact ⟨m, m.run + 1, rfl, hm, fun c0 h0 hl hu hr => habs c0 h0 hl hu hr, hnever⟩

theorem issueSelectResult : Says.IssueSelectResult := by
  intro s core dp hj hcore hdp hfree
  have hexec : exec (.issueSelect core dp) s = match chooseCand (s.lastOn core dp) (s.readyOn core dp) with
      | none => runEv s s
      | some (c, run) =>
        let t := s.updFrag c.gid c.fid fun f => { f with run := run, stat := .ready }
        runEv s { t with latch := some (.gang c.gid c.fid), dps := t.dps.put (4 * core + dp) (c.gid, c.fid, s.coreCycle core + 1) } :=
    if_neg (by simp [hfree]; omega)
  refine ⟨fun hnil => ?_, fun hne => ?_⟩
  · rw [hexec, hnil]
    exact runEv_idle hj
  · obtain ⟨c, run, hch, hc, hlast, hlong⟩ := chooseCand_spec (s.lastOn core dp) hne
    obtain ⟨hmem, hprio⟩ := mem_topCands.mp hc
    rw [hch] at hexec
    refine ⟨_, c, run, hexec.trans (runEv_quiet hj rfl), hmem, hprio, rfl, rfl, fun k hk => Tab.find?_put_ne _ _ hk,
      Tab.find?_put_same _ _ _, ?_, fun j k hjk => ?_, fun c0 h0 hl hp hu hr => hlast c0 (mem_topCands.mpr ⟨h0, hp⟩) hl hu hr,
      fun hnone => ?_⟩
    · exact (s.frag?_updFrag c.gid c.fid c.gid c.fid _).trans (if_pos ⟨rfl, rfl⟩)
    · exact (s.frag?_updFrag c.gid c.fid j k _).trans (if_neg hjk)
    · obtain ⟨hrun, hle⟩ := hlong hnone
      exact ⟨hrun, fun x hx hxp => hle x (mem_topCands.mpr ⟨hx, fun y hy => hxp ▸ hprio y hy⟩)⟩

/-! ### The register cache -/

theorem registerCacheFillResult : Says.RegisterCacheFillResult := by
  intro s gid reg slice g hj hg
  refine ⟨_, _, runEv_updGang hj gid _, oneGang_updGang hg _, rfl, fun x => ?_⟩
  simp only [List.mem_filter, bne_iff_ne]

/-! ### Halts -/

/-- A gang stopped by a halt after `n` bundles of skid. -/
theorem Gang.haltNow_spec (g : Gang) (n : Nat) :
    (g.haltNow n).halt = .stopped ∧ (g.haltNow n).skid = BitVec.ofNat 32 n ∧
      (∀ k, (g.haltNow n).frags.find? k = (g.frags.find? k).map fun f => { f with stopped := true }) ∧
      { g.haltNow n with halt := g.halt, skid := g.skid, frags := g.frags, cause := g.cause, epc := g.epc } = g ∧
      (g.trap.isSome = true → (g.haltNow n).cause = g.cause ∧ (g.haltNow n).epc = g.epc) ∧
      (g.trap = none → (g.haltNow n).cause = g.cause ||| BitVec.ofNat 64 cHALTSIB ∧
        ∀ f, g.frags.find? g.lastFid = some f → (g.haltNow n).epc = BitVec.ofNat 64 (f.pc % 2 ^ 57)) := by
  have hstop : ∀ k, Tab.find? (g.frags.map fun e => (e.1, { e.2 with stopped := true })) k =
      (g.frags.find? k).map fun f => { f with stopped := true } :=
    fun k => Tab.find?_map (fun _ f => { f with stopped := true }) g.frags k
  unfold Gang.haltNow
  dsimp only
  split
  · next ht => exact ⟨rfl, rfl, hstop, rfl, fun _ => ⟨rfl, rfl⟩, fun h => by simp [h] at ht⟩
  · next ht => exact ⟨rfl, rfl, hstop, rfl, fun h => absurd h ht, fun _ => ⟨rfl, fun f hf => by simp [hf]⟩⟩

theorem haltReachResult : Says.HaltReachResult := by
  intro s gid g w hj hg hw hhalt
  have hany : (s.wgOf g).any (·.halted) = true := by simp [hw, hhalt]
  have hexec : ∀ stop, exec (.haltReach gid stop) s =
      if stop && s.latches.any fun e => e.2.names w && s.latchTrapped e.2 then runEv s s else
      match g.halt with
      | .running => runEv s (s.updGang gid fun x => if stop then x.haltNow 0 else { x with halt := .received 0 })
      | .received n => if stop then runEv s (s.updGang gid fun x => x.haltNow n) else runEv s s
      | .stopped => runEv s s := by
    intro stop
    show execHaltReach gid stop s = _
    unfold execHaltReach
    rw [hg]
    dsimp only
    rw [hany, hw]
    simp only [Bool.not_true, Bool.false_or, Option.any_some] <;> rfl
  refine ⟨fun hrun => ?_, fun htrapped => ?_, fun n hn hfree => ?_⟩
  · rw [hexec, hrun]
    exact ⟨_, runEv_updGang hj _ _, oneGang_updGang hg _⟩
  · rw [hexec, if_pos]
    · exact runEv_idle hj
    · obtain ⟨e, he, hn, ht⟩ := htrapped
      simpa using ⟨e.1, e.2, he, hn, ht⟩
  · have hstop : exec (.haltReach gid true) s = .next (s.updGang gid fun x => x.haltNow n) := by
      rw [hexec, if_neg]
      · obtain ⟨hh, rfl⟩ | hh := hn
        · rw [hh]
          exact runEv_updGang hj _ _
        · rw [hh]
          exact runEv_updGang hj _ _
      · simpa using fun k l hl hnames => hfree (k, l) hl hnames
    obtain ⟨h1, h2, h3, h4, h5, h6⟩ := g.haltNow_spec n
    exact ⟨_, _, hstop, oneGang_updGang hg _, h1, h2, h3, h4, h5, h6⟩

end Sys2Proof.Machine
end

section
/-!
PROOF. Causes taken at a bundle boundary (09 R249-R252, R270): what a gang's first trap leaves.
-/
open Sys2Proof Sys2Proof.Machine
namespace Sys2Proof.Machine

/-- A gang whose fragment has taken a first cause. -/
def Gang.trapped (g : Gang) (fid pc : Nat) (k : RKind) (ti : TrapInfo) : Gang :=
  { g.recordTrap ti (pc + k.seqOnly) with
    trap := some { fid := fid, entered := false }, frags := g.frags.upd (fun f => { f with stopped := true }) fid }

/-- A workgroup that a cause has halted in a cycle. -/
def Wg.haltedAt (w : Wg) (cycle : Nat) : Wg := { w with halted := true, haltAt := if w.halted then w.haltAt else cycle }

/-- Taking a first cause changes the fragment's gang, and halts its workgroup. -/
theorem State.takeCause_first {s : State} {gid fid : Nat} {g : Gang} {f : Frag} (k : RKind) (ti : TrapInfo) (hg : s.gang? gid = some g)
    (hf : g.frags.find? fid = some f) (hslot : g.slot = none) (htrap : g.trap = none) :
    s.takeCause (.gang gid fid) k ti = (({ s with issue := none } : State).updGang gid (·.trapped fid f.pc k ti)).haltWg g.wid := by
  unfold State.takeCause
  dsimp only
  have hg0 : ({ s with issue := none } : State).gang? gid = some g := hg
  rw [hg0]
  simp only [hslot, htrap, Option.isSome_none, Bool.false_eq_true, if_false, hf, Option.map_some, Option.getD_some]
  unfold State.updFrag State.updGang
  dsimp only
  congr 2
  generalize s.gangs = t
  induction t with
  | nil => rfl
  | cons e t ih =>
    obtain ⟨i, x⟩ := e
    by_cases hi : i = gid
    · simp [Tab.upd, hi, Gang.trapped, Gang.recordTrap]
    · simp [Tab.upd, hi, ih]

theorem Gang.find?_trapped {g : Gang} {fid : Nat} {f : Frag} (hf : g.frags.find? fid = some f) (pc : Nat) (k : RKind) (ti : TrapInfo) :
    (g.trapped fid pc k ti).frags.find? fid = some { f with stopped := true } := by
  simp only [Gang.trapped, Tab.find?_upd, if_true, hf, Option.map_some]

/-- An event that, having written nothing, ends with a first cause taken. -/
theorem takesFirst {i : Instr} {s u : State} {gid fid : Nat} {g : Gang} {f : Frag} {w : Wg} {k : RKind} {ti : TrapInfo}
    (hx : exec i s = runEv s (u.takeCause (.gang gid fid) k ti)) (hs : s.journal = []) (hj : u.journal = []) (hm : u.mem = s.mem)
    (hg : u.gang? gid = some g) (hf : g.frags.find? fid = some f) (hslot : g.slot = none) (htrap : g.trap = none)
    (hw : u.wgs.find? g.wid = some w) :
    ∃ t, exec i s = .next t ∧ t.gang? gid = some (g.trapped fid f.pc k ti) ∧
      (g.trapped fid f.pc k ti).frags.find? fid = some { f with stopped := true } ∧
      t.wgs.find? g.wid = some (w.haltedAt u.cycle) ∧ t.flights = u.flights ∧ MemKept s t := by
  rw [State.takeCause_first k ti hg hf hslot htrap] at hx
  refine ⟨_, hx.trans (runEv_quiet hj hm), (oneGang_updGang (s := { u with issue := none }) hg _).2.2, Gang.find?_trapped hf _ _ _, ?_, rfl,
    memKept_of_mem (hj.trans hs.symm) hm⟩
  refine (Tab.find?_upd _ u.wgs _ _).trans ?_
  rw [if_pos rfl, hw]
  rfl

/-! ### Asynchronous causes -/

/-- A gang without the asynchronous causes that one of its fragments takes. -/
def Gang.withoutAsync (g : Gang) (fid : Nat) : Gang := { g with asyncs := g.asyncs.filter fun e => !(g.takesAsync fid e.1) }

/-- A fragment takes its own asynchronous causes. -/
theorem Gang.mem_withoutAsync {g : Gang} {fid : Nat} {e : Nat × Nat} (he : e ∈ (g.withoutAsync fid).asyncs) : e ∈ g.asyncs ∧ e.1 ≠ fid := by
  obtain ⟨hmem, hnot⟩ := List.mem_filter.mp he
  refine ⟨hmem, fun h => ?_⟩
  simp [Gang.takesAsync, h] at hnot

theorem asyncCauseTakeResult : Says.AsyncCauseTakeResult := by
  intro s gid fid g f w hj hg hf hw hacts hne hlt hskip
  have hexec : exec (.asyncCauseTake gid fid) s =
      if g.trap.isSome then
        runEv s ((s.updGang gid (·.withoutAsync fid)).updGang gid fun x =>
          { x with cause := x.cause ||| BitVec.ofNat 64 (g.asyncFor fid) })
      else if f.pendSeq then runEv s s
      else
        runEv s ((s.updGang gid (·.withoutAsync fid)).takeCause (.gang gid fid) .async
          { causes := g.asyncFor fid, faddr := 0, fsub := Config.freeNat s.fresh 1 % 2 ^ 11 }) := by
    have hcong : s.updGang gid (fun x => { x with asyncs := x.asyncs.filter fun e => !(g.takesAsync fid e.1) }) =
        s.updGang gid (·.withoutAsync fid) := State.updGang_congr hg rfl
    have hsome : g.frags.isEmpty = false := by
      cases hfr : g.frags with
      | nil => rw [hfr] at hf; cases hf
      | cons e t => rfl
    have hw' : (s.wgOf g).any Wg.acts = true := by simp [State.wgOf, hw, hacts]
    show execAsyncCauseTake gid fid s = _
    unfold execAsyncCauseTake
    rw [hg]
    dsimp only
    rw [hsome, hf, hw', hcong, Nat.mod_eq_of_lt hlt]
    exact (if_neg Bool.false_ne_true).trans ((if_neg (by simp [hne, hskip])).trans (if_neg (Nat.not_le.mpr hlt)))
  have hone := oneGang_updGang hg (·.withoutAsync fid)
  refine ⟨fun hslot htrap hpend => ?_, fun htrap => ?_⟩
  · simp only [htrap, Option.isSome_none, Bool.false_eq_true, if_false, hpend] at hexec
    obtain ⟨t, hx, hgt, hft, hwt, -, hmem⟩ :=
      takesFirst (g := g.withoutAsync fid) hexec hj hj rfl hone.2.2 hf hslot htrap hw
    exact ⟨t, _, _, _, hx, hgt, hft, hwt, rfl, rfl, rfl, rfl, rfl, rfl, fun e he => Gang.mem_withoutAsync he, rfl, rfl, rfl, rfl, rfl, hmem⟩
  · rw [if_pos htrap] at hexec
    have htwo := oneGang_updGang hone.2.2 fun x => { x with cause := x.cause ||| BitVec.ofNat 64 (g.asyncFor fid) }
    refine ⟨_, _, hexec.trans (runEv_quiet hj rfl), ⟨rfl, fun j hne => ?_, htwo.2.2⟩, rfl, rfl, fun e he => Gang.mem_withoutAsync he⟩
    exact (htwo.2.1 j hne).trans (hone.2.1 j hne)

/-! ### Migration holds -/

theorem migrationHoldExpireResult : Says.MigrationHoldExpireResult := by
  intro s fl n gid fid f g fr w hj hfl hinstr hag hg hfr hstat hw hon hslot htrap hacc
  have hfr' : s.frag? gid fid = some fr := (State.frag?_of_gang hg fid).trans hfr
  have hexec : exec (.migrationHoldExpire fl) s = if !decide (s.cycle ≥ f.born + 128000) then runEv s s else
      runEv s ((({ s with flights := s.flights.del fl } : State).unblock gid fid).takeCause (.gang gid fid) .fault
        { causes := cPAGEFAULT, faddr := f.sw.getD 0 0, fsub := f.sw.getD 1 0 + 16 * 5 + 256 * f.sw.getD 2 0, fmask := f.mask,
          dmask := fr.skip }) := by
    show execMigrationHoldExpire fl s = _
    unfold execMigrationHoldExpire
    rw [hfl]
    dsimp only
    rw [hinstr, hag]
    dsimp only
    rw [hfr']
    dsimp only
    rw [hstat, hon]
    simp
  refine ⟨fun hearly => ?_, fun hlate => ?_⟩
  · rw [hexec, if_pos (by simpa using hearly)]
    exact runEv_idle hj
  · rw [if_neg (by simpa using hlate)] at hexec
    have hg1 : (({ s with flights := s.flights.del fl } : State).unblock gid fid).gang? gid =
        some { g with frags := g.frags.upd (·.woken (s.cycleOf (.gang gid fid))) fid } :=
      (oneGang_updGang (s := { s with flights := s.flights.del fl }) hg _).2.2
    have hf1 : Tab.find? (g.frags.upd (·.woken (s.cycleOf (.gang gid fid))) fid) fid = some (fr.woken (s.cycleOf (.gang gid fid))) := by
      simp only [Tab.find?_upd, if_true, hfr, Option.map_some]
    obtain ⟨t, hx, hgt, hft, hwt, hflt, hmem⟩ := takesFirst hexec hj hj rfl hg1 hf1 hslot htrap hw
    refine ⟨t, _, _, _, hx, hmem, ?_, hgt, hft, hwt, rfl, rfl, rfl, rfl, ?_, ?_, rfl, rfl, rfl, rfl, rfl, rfl, rfl, rfl⟩
    · rw [hflt]
      exact (Tab.find?_del _ _ _).trans (if_pos rfl)
    · simp only [Gang.trapped, Gang.recordTrap, BitVec.toNat_ofNat]
      omega
    · simp only [Gang.trapped, Gang.recordTrap, BitVec.toNat_ofNat]
      omega

end Sys2Proof.Machine
end

section
/-!
PROOF. Waits in MWAIT, SLEEP and at a queue (07 R188; 14 R411, R412; 15 R453), of gangs and of Lauter contexts.
-/
open Sys2Proof Sys2Proof.Machine
namespace Sys2Proof.Machine

/-! ### Changes in a row -/

theorem Tab.upd_upd {α : Type} (F G : α → α) (t : Tab α) (k : Nat) : Tab.upd G (Tab.upd F t k) k = Tab.upd (fun v => G (F v)) t k := by
  induction t with
  | nil => rfl
  | cons e t ih =>
    obtain ⟨i, w⟩ := e
    by_cases hi : i = k
    · simp [Tab.upd, hi]
    · simp [Tab.upd, hi, ih]

theorem State.updGang_updGang (s : State) (gid : Nat) (F G : Gang → Gang) :
    (s.updGang gid F).updGang gid G = s.updGang gid fun g => G (F g) := by
  unfold State.updGang
  dsimp only
  rw [Tab.upd_upd]

/-- An agent's count is that of its core, which a change of a gang that keeps the core leaves. -/
theorem State.cycleOf_updGang (s : State) (gid : Nat) (F : Gang → Gang) (ag : Agent) (hF : ∀ g, (F g).core = g.core) :
    (s.updGang gid F).cycleOf ag = s.cycleOf ag := by
  cases ag with
  | ctx n => rfl
  | gang j k =>
    simp only [State.cycleOf, State.lagOf, State.gang?_updGang, State.cycle_updGang, State.lag_updGang]
    split
    · simp only [Option.map_map, Function.comp_def, hF]
    · rfl

theorem Frag.woken_woken (f : Frag) (c : Nat) : (f.woken c).woken c = f.woken c := by simp [Frag.woken]

/-- One bit of a K file written. -/
theorem getLsbD_setKBit (k : BitVec 4) (m n : Nat) (b : Bool) :
    (setKBit k m b).getLsbD n = if n = m ∧ n < 4 then b else k.getLsbD n := by
  unfold setKBit
  by_cases hn : n < 4
  · have hone : (1#4 <<< m).getLsbD n = decide (n = m) := by
      simp only [BitVec.getLsbD_shiftLeft, BitVec.getLsbD_one, hn, decide_true, Bool.true_and]
      rw [Bool.eq_iff_iff]
      simp only [Bool.and_eq_true, Bool.not_eq_true', decide_eq_false_iff_not, decide_eq_true_eq]
      omega
    cases b with
    | true =>
      rw [if_pos rfl, BitVec.getLsbD_or, hone]
      by_cases hm : n = m
      · rw [if_pos ⟨hm, hn⟩, decide_eq_true hm, Bool.or_true]
      · rw [if_neg fun h => hm h.1, decide_eq_false hm, Bool.or_false]
    | false =>
      rw [if_neg Bool.false_ne_true, BitVec.getLsbD_and, BitVec.getLsbD_not, hone, decide_eq_true hn, Bool.true_and]
      by_cases hm : n = m
      · rw [if_pos ⟨hm, hn⟩, decide_eq_true hm, Bool.not_true, Bool.and_false]
      · rw [if_neg fun h => hm h.1, decide_eq_false hm, Bool.not_false, Bool.and_true]
  · rw [if_neg (show ¬ (n = m ∧ n < 4) from fun h => hn h.2), BitVec.getLsbD_of_ge _ _ (Nat.le_of_not_lt hn),
      BitVec.getLsbD_of_ge _ _ (Nat.le_of_not_lt hn)]

/-! ### The waiters of a monitor -/

/-- A gang after one fragment has left MWAIT with a truth in its K register. -/
def Gang.leaveMwait (c : Nat) (b : Bool) (g : Gang) (e : Nat × Nat × Nat) : Gang :=
  { g with k := setKBit g.k e.2.2 b, frags := g.frags.upd (·.woken c) e.1 }

theorem State.wrK_unblock (s : State) (gid fid x k : Nat) (b : Bool) :
    (s.wrK (.gang gid x) k b).unblock gid fid =
      s.updGang gid fun g => g.leaveMwait (s.cycleOf (.gang gid fid)) b (fid, 0, k) := by
  rw [State.unblock_eq, State.wrK, State.updFrag, State.updGang_updGang, State.cycleOf_updGang]
  · rfl
  · exact fun _ => rfl

/-- Every waiter of a list leaves its wait. -/
theorem State.foldl_leaveMwait {gid x c : Nat} (l : List (Nat × Nat × Nat)) : ∀ {s : State}, (∀ fid, s.cycleOf (.gang gid fid) = c) →
    l.foldl (fun (t : State) e => (t.wrK (.gang gid x) e.2.2 true).unblock gid e.1) s =
      s.updGang gid fun g => l.foldl (Gang.leaveMwait c true) g := by
  induction l with
  | nil =>
    intro s _
    have hid : ∀ t : Tab Gang, Tab.upd (fun g => g) t gid = t := by
      intro t
      induction t with
      | nil => rfl
      | cons e t ih => simp [Tab.upd, ih]
    simp only [List.foldl_nil, State.updGang, hid]
  | cons e l ih =>
    intro s hc
    rw [List.foldl_cons, State.wrK_unblock, ih, State.updGang_updGang, hc]
    · rfl
    · intro fid
      rw [State.cycleOf_updGang, hc]
      exact fun _ => rfl

theorem Gang.foldl_leaveMwait (c : Nat) (b : Bool) (l : List (Nat × Nat × Nat)) : ∀ g : Gang, l.foldl (Gang.leaveMwait c b) g =
    { g with k := l.foldl (fun k e => setKBit k e.2.2 b) g.k, frags := l.foldl (fun t e => Tab.upd (·.woken c) t e.1) g.frags } := by
  induction l with
  | nil => exact fun _ => rfl
  | cons e l ih => exact fun g => (ih _).trans rfl

theorem getLsbD_foldl_setKBit {n : Nat} (hn : n < 4) (l : List (Nat × Nat × Nat)) : ∀ k : BitVec 4,
    (l.foldl (fun k e => setKBit k e.2.2 true) k).getLsbD n = true ↔ k.getLsbD n = true ∨ ∃ e ∈ l, e.2.2 = n := by
  induction l with
  | nil => simp
  | cons e l ih =>
    intro k
    rw [List.foldl_cons, ih, getLsbD_setKBit]
    simp only [List.mem_cons, exists_eq_or_imp]
    by_cases h : n = e.2.2
    · simp [h, h ▸ hn]
    · simp [h, Ne.symm h]

theorem find?_foldl_woken (c j : Nat) (l : List (Nat × Nat × Nat)) : ∀ t : Tab Frag,
    Tab.find? (l.foldl (fun t e => Tab.upd (·.woken c) t e.1) t) j = if ∃ e ∈ l, e.1 = j then (t.find? j).map (·.woken c) else t.find? j := by
  induction l with
  | nil => simp
  | cons e l ih =>
    intro t
    rw [List.foldl_cons, ih, Tab.find?_upd]
    simp only [List.mem_cons, exists_eq_or_imp]
    by_cases h : e.1 = j
    · simp only [h, if_true, true_or, Option.map_map, Function.comp_def, Frag.woken_woken, ite_self]
    · simp only [h, Ne.symm h, if_false, false_or]

theorem State.mem_mwaiters {s : State} {gid : Nat} {g : Gang} (hg : s.gang? gid = some g) (fid d k : Nat) :
    (fid, d, k) ∈ s.mwaiters gid ↔ ∃ f, (fid, f) ∈ g.frags ∧ f.stat = .blocked (.mwait d k) := by
  unfold State.mwaiters
  rw [hg]
  simp only [List.mem_filterMap, Prod.exists]
  constructor
  · rintro ⟨i, f, hf, h⟩
    split at h
    · next hs => cases h; exact ⟨f, hf, hs⟩
    · cases h
  · rintro ⟨f, hf, hs⟩
    exact ⟨fid, f, hf, by simp [hs]⟩

theorem monitorFireGang : Says.MonitorFireGang := by
  intro s gid fid displaced g hj hg hon hfire
  dsimp only
  have hmon : (if displaced && g.mon.armed then { g.mon with fired := true } else g.mon) = { g.mon with fired := true } := by
    split
    · rfl
    · next h =>
      obtain h' | h' := hfire
      · rw [← h']
      · exact absurd (by simp [h'.1, h'.2]) h
  have hexec : exec (.monitorFire (.gang gid fid) displaced) s =
      runEv s ((s.updGang gid fun g' => { g' with mon := { g.mon with fired := true } }).fireWaits (.gang gid fid)) := by
    show execMonitorFire (.gang gid fid) displaced s = _
    unfold execMonitorFire
    have hm : s.monOf (.gang gid fid) = g.mon := by simp [State.monOf, hg]
    dsimp only
    rw [hm, hmon, hon]
    rfl
  have hg1 : (s.updGang gid fun g' => { g' with mon := { g.mon with fired := true } }).gang? gid =
      some { g with mon := { g.mon with fired := true } } := (oneGang_updGang hg _).2.2
  have hmem := State.mem_mwaiters hg1
  rw [State.fireWaits, State.foldl_leaveMwait (c := s.cycleOf (.gang gid fid)), State.updGang_updGang] at hexec
  · refine ⟨_, _, hexec.trans (runEv_updGang hj _ _), oneGang_updGang hg _, ?_, ?_, fun n hn => ?_,
      fun j f hf => ⟨fun d k hs => ?_, fun hno => ?_⟩⟩ <;>
      rw [Gang.foldl_leaveMwait]
    · refine (getLsbD_foldl_setKBit hn _ _).trans (or_congr_right ⟨?_, ?_⟩)
      · rintro ⟨⟨i, d, k⟩, he, rfl⟩
        obtain ⟨f, hf, hs⟩ := (hmem i d k).mp he
        exact ⟨(i, f), hf, d, hs⟩
      · rintro ⟨⟨i, f⟩, hf, d, hs⟩
        exact ⟨(i, d, n), (hmem i d n).mpr ⟨f, hf, hs⟩, rfl⟩
    · rw [find?_foldl_woken, if_pos, hf]
      · rfl
      · exact ⟨(j, d, k), (hmem j d k).mpr ⟨f, Tab.mem_of_find? hf, hs⟩, rfl⟩
    · rw [find?_foldl_woken, if_neg, hf]
      rintro ⟨⟨i, d, k⟩, he, rfl⟩
      obtain ⟨f', hf', hs⟩ := (hmem i d k).mp he
      exact hno (i, f') hf' rfl d k hs
  · intro k
    rw [State.cycleOf_updGang]
    · rfl
    · exact fun _ => rfl

theorem mwaitTimeoutGang : Says.MwaitTimeoutGang := by
  intro s gid fid d k g f hj hg hf hs hon
  have hfind : (s.mwaiters gid).find? (fun e => e.1 == fid) = some (fid, d, k) := by
    unfold State.mwaiters
    rw [hg]
    dsimp only
    generalize g.frags = t at hf
    induction t with
    | nil => cases hf
    | cons e t ih =>
      obtain ⟨i, x⟩ := e
      simp only [Tab.find?] at hf
      by_cases hi : i = fid
      · rw [if_pos hi, Option.some.injEq] at hf
        subst hf
        simp [hs, hi]
      · rw [if_neg hi] at hf
        rw [List.filterMap_cons]
        split
        · exact ih hf
        · next e' he' =>
          rw [List.find?_cons_of_neg, ih hf]
          split at he'
          · cases he'; simpa using hi
          · cases he'
  have hmon : (s.monOf (.gang gid fid)).fired = g.mon.fired := by simp [State.monOf, hg]
  have hexec : exec (.mwaitTimeout (.gang gid fid)) s = if d ≠ 0 && decide (s.coreCycle g.core ≥ d) then
      runEv s (s.updGang gid fun x => x.leaveMwait (s.cycleOf (.gang gid fid)) g.mon.fired (fid, 0, k)) else runEv s s := by
    show execMwaitTimeout (.gang gid fid) s = _
    unfold execMwaitTimeout
    dsimp only
    rw [hfind]
    dsimp only
    rw [hmon, hon, State.wrK_unblock, State.cycleOf_gang hg, Bool.and_true]
  refine ⟨fun hd hlate => ?_, fun hearly => ?_⟩
  · rw [if_pos (by simp [hd, hlate])] at hexec
    refine ⟨_, _, hexec.trans (runEv_updGang hj _ _), oneGang_updGang hg _, rfl, fun hk => ?_, fun n hn => ?_, ?_, fun j hne => ?_⟩
    · exact (getLsbD_setKBit ..).trans (if_pos ⟨rfl, hk⟩)
    · exact (getLsbD_setKBit ..).trans (if_neg fun h => hn h.1)
    · simp only [Gang.leaveMwait, Tab.find?_upd, if_true, hf, Option.map_some]
    · simp only [Gang.leaveMwait, Tab.find?_upd, if_neg hne]
  · rw [hexec, if_neg]
    · exact runEv_idle hj
    · simp only [Bool.and_eq_true, decide_eq_true_eq]
      omega

/-! ### Contexts -/

/-- A change of a context is seen in the contexts alone. -/
theorem State.updCtx_withCtxs (s : State) (n : Nat) (F : Ctx → Ctx) (c : Tab Ctx) :
    ({ s.updCtx n F with ctxs := c } : State) = { s with ctxs := c } := rfl

theorem monitorFireCtx : Says.MonitorFireCtx := by
  intro s n d k displaced hj hs hfire
  have hmon : (if displaced && (s.ctx n).mon.armed then { (s.ctx n).mon with fired := true } else (s.ctx n).mon) =
      { (s.ctx n).mon with fired := true } := by
    split
    · rfl
    · next h =>
      obtain h' | h' := hfire
      · rw [← h']
      · exact absurd (by simp [h'.1, h'.2]) h
  have hexec : exec (.monitorFire (.ctx n) displaced) s =
      runEv s ((s.updCtx n fun c => { c with mon := { (s.ctx n).mon with fired := true } }).fireWaits (.ctx n)) := by
    show execMonitorFire (.ctx n) displaced s = _
    unfold execMonitorFire
    dsimp only [State.monOf]
    rw [hmon]
    rfl
  have hwait : ((s.updCtx n fun c => { c with mon := { (s.ctx n).mon with fired := true } }).ctx n).stat = .waiting d k none := by
    rw [State.ctx_updCtx, if_pos rfl, ← hs]
  rw [State.fireWaits, hwait] at hexec
  dsimp only [State.wrK] at hexec
  refine ⟨_, hexec.trans (runEv_quiet ?_ ?_), ?_, fun m hm => ?_, ?_⟩
  · simpa only [State.journal_updCtx] using hj
  · simp only [State.mem_updCtx]
  · exact ((State.updCtx_withCtxs ..).trans (State.updCtx_withCtxs ..)).trans (State.updCtx_withCtxs ..)
  · simp only [State.ctx_updCtx, if_neg hm]
  · simp only [State.ctx_updCtx, if_true, State.cycle_updCtx]

theorem mwaitTimeoutCtx : Says.MwaitTimeoutCtx := by
  intro s n d k hj hs hd hlate hfired
  have hexec : exec (.mwaitTimeout (.ctx n)) s = runEv s
      ((s.wrK (.ctx n) k false).updCtx n fun c => { c with stat := .running, readyAt := max c.readyAt s.cycle }) := by
    show execMwaitTimeout (.ctx n) s = _
    unfold execMwaitTimeout
    dsimp only [State.monOf]
    rw [hs, hfired]
    exact if_pos (by simp [hd, hlate])
  dsimp only [State.wrK] at hexec
  refine ⟨_, hexec.trans (runEv_quiet hj rfl), ?_, fun m hm => ?_, ?_⟩
  · exact (State.updCtx_withCtxs ..).trans (State.updCtx_withCtxs ..)
  · simp only [State.ctx_updCtx, if_neg hm]
  · simp only [State.ctx_updCtx, if_true]

/-! ### SLEEP and queues -/

theorem sleepExpireResult : Says.SleepExpireResult := by
  intro s gid fid till g f hj hg hf hs hon
  have hf' : s.frag? gid fid = some f := (State.frag?_of_gang hg fid).trans hf
  have hexec : exec (.sleepExpire gid fid) s = if s.coreCycle g.core ≥ till then runEv s (s.unblock gid fid) else runEv s s := by
    show execSleepExpire gid fid s = _
    unfold execSleepExpire
    rw [hf', Option.map_some, hs]
    dsimp only
    rw [hon, State.cycleOf_gang hg]
    simp
  refine ⟨fun hlate => ?_, fun hearly => ?_⟩
  · exact setsFrag_of_updFrag (·.woken _) hf' ((hexec.trans (if_pos hlate)).trans (runEv_unblock hj _ _))
  · rw [hexec, if_neg (Nat.not_le.mpr hearly)]
    exact runEv_idle hj

theorem queueUnblockResult : Says.QueueUnblockResult := by
  intro s gid fid f hj hf hs hon hlater
  refine setsFrag_of_updFrag (·.woken _) hf (Eq.trans ?_ (runEv_unblock hj _ _))
  show execQueueUnblock gid fid s = _
  unfold execQueueUnblock
  rw [hf]
  dsimp only
  exact if_pos (by simp [hs, hon, hlater])

end Sys2Proof.Machine
end

section
/-!
PROOF. Waits that a read at a home ends: CBWAIT (05 R143) and PIXLK (08 R246).
-/
open Sys2Proof Sys2Proof.Machine
namespace Sys2Proof.Machine

/-! ### Operations that leave gangs, operations in flight and memory -/

/-- What the bookkeeping of an access leaves as it is: clocks, gangs, operations in flight, and all that a read of memory looks at. -/
structure Calm (s t : State) : Prop where
  journal : t.journal = s.journal
  mem : t.mem = s.mem
  gangs : t.gangs = s.gangs
  flights : t.flights = s.flights
  cycle : t.cycle = s.cycle
  lag : t.lag = s.lag
  cxl : t.cxl = s.cxl
  poison : t.poison = s.poison
  hostWrites : t.hostWrites = s.hostWrites

theorem Calm.refl (s : State) : Calm s s := ⟨rfl, rfl, rfl, rfl, rfl, rfl, rfl, rfl, rfl⟩

theorem Calm.trans {s t u : State} (h : Calm s t) (k : Calm t u) : Calm s u :=
  ⟨k.journal.trans h.journal, k.mem.trans h.mem, k.gangs.trans h.gangs, k.flights.trans h.flights, k.cycle.trans h.cycle,
    k.lag.trans h.lag, k.cxl.trans h.cxl, k.poison.trans h.poison, k.hostWrites.trans h.hostWrites⟩

theorem Calm.foldl {α : Type} {F : State → α → State} (hF : ∀ t a, Calm t (F t a)) (l : List α) : ∀ s, Calm s (l.foldl F s) := by
  induction l with
  | nil => exact Calm.refl
  | cons a l ih => exact fun s => (hF s a).trans (ih _)

theorem Calm.ite {s t : State} {p : Prop} [Decidable p] (h : Calm s t) : Calm s (if p then t else s) := by
  split
  · exact h
  · exact Calm.refl s

/-- A request to a peer chip takes the next number of a stream and goes out. -/
theorem State.sendReq_eq (s : State) (slot path peer fl kind : Nat) (body : List Nat) : ∃ l num seq,
    s.sendReq slot path peer fl kind body =
      { s with streams := l, fabricOut := s.fabricOut ++ [{ kind := kind, args := [peer, s.chip, num, seq] ++ body }] } := by
  have htake : ∃ l, (s.takeStream slot path).1 = { s with streams := l } := by
    unfold State.takeStream
    split
    · exact ⟨s.streams, rfl⟩
    · dsimp only
      split
      · exact ⟨s.streams, rfl⟩
      · exact ⟨_, rfl⟩
  obtain ⟨l, hl⟩ := htake
  unfold State.sendReq State.fabSend
  dsimp only
  rw [hl]
  exact ⟨_, _, _, rfl⟩

theorem calm_sendStream (s : State) (f : Flight) (a : Acc) : Calm s (s.sendStream f a) := by
  unfold State.sendStream
  split
  · split
    · obtain ⟨l, n, q, h⟩ := s.sendReq_eq f.slot f.path (peerOf ‹_›) f.id msgRequest [‹_›, f.path]
      rw [h]
      exact ⟨rfl, rfl, rfl, rfl, rfl, rfl, rfl, rfl, rfl⟩
    · exact Calm.refl s
  · exact Calm.refl s

theorem calm_dropL1 (s : State) (ag : Agent) : Calm s (s.dropL1 ag) := ⟨rfl, rfl, rfl, rfl, rfl, rfl, rfl, rfl, rfl⟩

theorem calm_joined (s : State) (j : Join) : Calm s (s.joined j) := ⟨rfl, rfl, rfl, rfl, rfl, rfl, rfl, rfl, rfl⟩

theorem calm_countXfer (s : State) (key : Nat) : Calm s (s.countXfer key) := by
  unfold State.countXfer
  exact Calm.ite ⟨rfl, rfl, rfl, rfl, rfl, rfl, rfl, rfl, rfl⟩

theorem calm_ntMark (s : State) (f : Flight) (a : Acc) : Calm s (s.ntMark f a) := by
  unfold State.ntMark
  split
  · exact Calm.ite ⟨rfl, rfl, rfl, rfl, rfl, rfl, rfl, rfl, rfl⟩
  · exact Calm.refl s

theorem calm_afterFound (s : State) (ag : Agent) (path w base n v : Nat) (home : Bool) : Calm s (s.afterFound ag path w base n v home) := by
  unfold State.afterFound
  split
  · exact Calm.refl s
  · refine Calm.foldl (fun t u => ?_) _ s
    refine Calm.foldl (fun t e => ?_) _ t
    exact Calm.ite ⟨rfl, rfl, rfl, rfl, rfl, rfl, rfl, rfl, rfl⟩

theorem calm_countSpot (s : State) (p : Spot) : Calm s (s.countSpot p) := by
  cases p with
  | mem k z => exact calm_countXfer s k
  | scr w o => exact Calm.refl s

/-- An access applied, of an operation on a path past the load-store unit's: the operation is marked, and the rest is bookkeeping. -/
theorem State.accDone_eq {s : State} {f : Flight} (h0 : f.path ≠ 0) (h8 : f.path ≠ 8) (k : Nat) (a : Acc) (res : Nat) (p : Bool) :
    ∃ t, Calm s t ∧ s.accDone f k a res p = { t with flights := t.flights.put f.id (f.markAt k res p) } := by
  have hl1 : s.l1After f a p = s := if_pos (by simp [h0])
  have h1 : Calm s (f.joins.foldl State.joined (((s.l1After f a p).sendStream f a).dropAll f.invals)) := by
    rw [hl1]
    exact ((calm_sendStream s f a).trans (Calm.foldl calm_dropL1 _ _)).trans (Calm.foldl calm_joined _ _)
  have h8' : ((f.markAt k res p).path == 8 && (f.markAt k res p).accs.all fun (b : Acc) => b.done) = false := by
    simp [Flight.markAt, h8]
  unfold State.accDone
  dsimp only
  rw [h8']
  simp only [Bool.false_eq_true, if_false]
  split
  · exact ⟨_, (h1.trans (calm_countXfer ..)).trans (calm_ntMark ..), rfl⟩
  · exact ⟨_, h1, rfl⟩

/-! ### Plain reads -/

theorem State.peekN_congr {s t : State} (h : MemKept s t) (n : Nat) : ∀ k, t.peekN k n = s.peekN k n := by
  induction n with
  | zero => exact fun _ => rfl
  | succ n ih => exact fun k => by rw [State.peekN, State.peekN, h k, ih]

theorem Calm.memKept {s t : State} (h : Calm s t) : MemKept s t := memKept_of_mem h.journal h.mem

theorem Calm.plainMem {s t : State} (h : Calm s t) {k n : Nat} {z : Bool} (hp : PlainMem s k n z) : PlainMem t k n z := by
  unfold PlainMem State.cxlDownIn State.cxlDown State.poisonIn at *
  rwa [h.cxl, h.poison]

/-- Memory that is read plainly gives its bytes, least significant first. -/
theorem State.memRead_plain {s : State} {k n : Nat} {z : Bool} (h : PlainMem s k n z) : s.memRead k n z = (s.peekN k n, false) := by
  obtain ⟨hcxl, htier, hzb, hpoison⟩ := h
  unfold State.memRead
  rw [if_neg (by simpa using htier), hzb]
  simp [State.unreadable, hpoison, hcxl]

theorem calm_seeHost {s : State} {k : Nat} (h : keyTier k = 3 → s.hostWrites = []) : Calm s (s.seeHost k) := by
  unfold State.seeHost
  split
  · exact Calm.refl s
  · next hk =>
    rw [h (Classical.not_not.mp hk)]
    dsimp only
    rw [List.take_nil, List.drop_nil, List.foldl_nil]
    exact ⟨rfl, rfl, rfl, rfl, rfl, rfl, rfl, rfl, (h (Classical.not_not.mp hk)).symm⟩

/-- A home read of plain memory finds its bytes. -/
theorem State.spotFind_plain {s : State} {k n : Nat} {z : Bool} (hp : PlainMem s k n z) (hh : keyTier k = 3 → s.hostWrites = [])
    (f : Flight) : ∃ t, Calm s t ∧ s.spotFind f (.mem k z) n true = (s.peekN k n, false, t) := by
  have hsee := calm_seeHost hh
  have hread : (s.seeSpot (.mem k z)).spotRead (.mem k z) n = (s.peekN k n, false) := by
    show (s.seeHost k).memRead k n z = _
    rw [State.memRead_plain (hsee.plainMem hp), State.peekN_congr hsee.memKept]
  unfold State.spotFind
  dsimp only
  rw [hread]
  exact ⟨_, (hsee.trans (calm_countSpot ..)).trans (calm_afterFound ..), rfl⟩

/-! ### CBWAIT -/

/-- A fragment unblocked in a state with the gangs and clocks of another. -/
theorem State.frag?_unblock {s t : State} (hg : t.gangs = s.gangs) (hc : t.cycle = s.cycle) (hl : t.lag = s.lag) (gid fid j k : Nat) :
    (t.unblock gid fid).frag? j k = if j = gid ∧ k = fid then (s.frag? j k).map (·.woken (s.cycleOf (.gang gid fid))) else s.frag? j k := by
  have hcyc : t.cycleOf (.gang gid fid) = s.cycleOf (.gang gid fid) := by simp only [State.cycleOf, State.lagOf, State.gang?, hg, hc, hl]
  have hfr : t.frag? j k = s.frag? j k := by simp only [State.frag?, hg]
  rw [State.unblock_eq, State.frag?_updFrag, hcyc, hfr]

theorem cbwaitReleaseResult : Says.CbwaitReleaseResult := by
  intro s gid fid fl key tso z f x a hj hf hs hfl hid hpath haccs hloc hmay hbusy hon hfar hheld hplain
  have hread : s.spotRead (.mem key z) 4 = (s.peekN key 4, false) := State.memRead_plain hplain
  have hexec : exec (.cbwaitRelease gid fid) s =
      if s.peekN key 4 ≠ x.sw.getD 0 0 then runEv s ((s.accDone x 0 a 0 false).unblock gid fid) else runEv s s := by
    show execCbwaitRelease gid fid s = _
    unfold execCbwaitRelease
    rw [hf, Option.map_some, hs]
    dsimp only
    rw [hfl]
    dsimp only
    rw [haccs]
    dsimp only
    rw [hloc]
    dsimp only [Loc.spot?]
    rw [hmay, hbusy, hon, hheld, hfar, hread]
    simp
  refine ⟨fun hne => ?_, fun heq => ?_⟩
  · rw [if_pos hne] at hexec
    obtain ⟨t, ht, hdone⟩ := State.accDone_eq (s := s) (f := x) (by omega) (by omega) 0 a 0 false
    rw [hdone] at hexec
    have hfr := State.frag?_unblock (t := { t with flights := t.flights.put x.id (x.markAt 0 0 false) }) ht.gangs ht.cycle ht.lag gid fid
    refine ⟨_, hexec.trans (runEv_quiet (ht.journal.trans hj) ht.mem), memKept_of_mem ht.journal ht.mem, ?_, fun j k hjk => ?_, ?_⟩
    · rw [hfr, if_pos ⟨rfl, rfl⟩, hf, Option.map_some]
    · rw [hfr, if_neg hjk]
    · exact hid ▸ Tab.find?_put_same _ _ _
  · rw [hexec, if_neg (not_not_intro heq)]
    exact runEv_idle hj

/-! ### PIXLK -/

/-- A lane's word equals its ticket. -/
def State.ticketMet (s : State) (f : Flight) (a : Acc) : Prop :=
  ∃ k tso z, a.loc = .mem k tso z ∧ s.peekN k 4 = (f.kept a.lane).getD 0 0

/-- The words that a PIXLK waits for, all in plain memory, read at their homes. -/
theorem Flight.pixRead_plain (f : Flight) (l : List Acc) : ∀ s : State, (∀ a ∈ l, a.done = false) →
    (∀ a ∈ l, ∃ k tso z, a.loc = .mem k tso z ∧ PlainMem s k 4 z ∧ (keyTier k = 3 → s.hostWrites = [])) →
    ∃ b t, f.pixRead l s = (b, false, t) ∧ Calm s t ∧ (b = true ↔ ∀ a ∈ l, s.ticketMet f a) := by
  induction l with
  | nil => exact fun s _ _ => ⟨true, s, rfl, Calm.refl s, by simp⟩
  | cons a l ih =>
    intro s hd hp
    obtain ⟨k, tso, z, hloc, hplain, hhost⟩ := hp a List.mem_cons_self
    obtain ⟨u, hu, hfind⟩ := State.spotFind_plain hplain hhost f
    obtain ⟨b, t, hrest, ht, hb⟩ := ih u (fun x hx => hd x (List.mem_cons_of_mem _ hx)) fun x hx => by
      obtain ⟨k, tso, z, h1, h2, h3⟩ := hp x (List.mem_cons_of_mem _ hx)
      exact ⟨k, tso, z, h1, hu.plainMem h2, fun h => hu.hostWrites.trans (h3 h)⟩
    have hmet : ∀ x, u.ticketMet f x ↔ s.ticketMet f x := fun x => by
      simp only [State.ticketMet, State.peekN_congr hu.memKept]
    have hhere : s.ticketMet f a ↔ s.peekN k 4 = (f.kept a.lane).getD 0 0 := by
      constructor
      · rintro ⟨k', tso', z', h1, h2⟩
        rw [hloc] at h1
        cases h1
        exact h2
      · exact fun h => ⟨k, tso, z, hloc, h⟩
    refine ⟨s.peekN k 4 == (f.kept a.lane).getD 0 0 && b, t, ?_, hu.trans ht, ?_⟩
    · rw [Flight.pixRead, if_neg (by simp [hd a List.mem_cons_self]), hloc]
      dsimp only [Loc.spot?]
      rw [hfind]
      dsimp only
      rw [hrest]
      simp
    · rw [Bool.and_eq_true, beq_iff_eq, hb, List.forall_mem_cons, hhere]
      simp only [hmet]

theorem State.dropL1_core {s : State} {gid fid : Nat} {g : Gang} (hg : s.gang? gid = some g) :
    ∀ l ∈ (s.dropL1 (.gang gid fid)).l1, l.core ≠ g.core := by
  intro l hl hcore
  have hkept := (List.mem_filter.mp hl).2
  have hunit : s.unitOf (.gang gid fid) = g.core := by simp [State.unitOf, hg]
  rw [hunit, hcore] at hkept
  split at hkept <;> simp at hkept

theorem pixlkReleaseResult : Says.PixlkReleaseResult := by
  intro s gid fid g fr w f hj hg hfr hw hon hwait hmay hopen hplain
  have hopen' : ∀ a ∈ f.accs, a.done = false := fun a ha => (hopen a ha).1
  obtain ⟨b, t, hread, ht, hb⟩ := f.pixRead_plain f.accs s hopen' hplain
  have hchip : ((s.gang? gid).bind fun g => s.wgOf g).any (fun w => w.onChip) = true := by simp [hg, hw, hon]
  have hbusy : (f.accs.any fun a => !a.done && (s.lineBusy f a || s.accHeld f a)) = false := by
    rw [List.any_eq_false]
    intro a ha
    obtain ⟨-, h1, -, h2⟩ := hopen a ha
    simp [h1, h2]
  have hfar : (f.accs.any fun a => !a.done && s.unreachable a) = false := by
    rw [List.any_eq_false]
    intro a ha
    simp [(hopen a ha).2.2.1]
  have hexec : exec (.pixlkRelease gid fid) s = if !b then runEv s s else
      runEv s ((({ t with flights := t.flights.del f.id } : State).dropL1 (.gang gid fid)).unblock gid fid) := by
    show execPixlkRelease gid fid s = _
    unfold execPixlkRelease
    rw [hwait]
    dsimp only
    rw [hchip, hmay, hbusy, hfar, hread]
    simp
  have hmet : (∀ a ∈ f.accs, s.ticketMet f a) ↔ b = true := hb.symm
  refine ⟨fun hall => ?_, fun ⟨a, ha, hno⟩ => ?_⟩
  · rw [hmet.mp hall] at hexec
    simp only [Bool.not_true, Bool.false_eq_true, if_false] at hexec
    have hg1 : (({ t with flights := t.flights.del f.id } : State).dropL1 (.gang gid fid)).gang? gid = some g := by
      rw [← hg]
      simp only [State.gang?, State.dropL1, ht.gangs]
    have hcyc : (({ t with flights := t.flights.del f.id } : State).dropL1 (.gang gid fid)).cycleOf (.gang gid fid) =
        s.cycleOf (.gang gid fid) := by
      rw [State.cycleOf_gang hg1, State.cycleOf_gang hg]
      simp only [State.coreCycle, State.dropL1, ht.cycle, ht.lag]
    refine ⟨_, _, hexec.trans (runEv_quiet (ht.journal.trans hj) ht.mem), memKept_of_mem ht.journal ht.mem,
      (oneGang_updGang hg1 _).2.2, rfl, ?_, ?_, ?_⟩
    · rw [hcyc]
      simp only [Tab.find?_upd, if_true, hfr, Option.map_some]
      rfl
    · exact (Tab.find?_del _ _ _).trans (if_pos rfl)
    · exact State.dropL1_core (s := { t with flights := t.flights.del f.id }) (by rw [← hg]; simp only [State.gang?, ht.gangs])
  · have hfalse : b = false := by
      cases hbb : b with
      | false => rfl
      | true => exact absurd (hmet.mpr hbb a ha) hno
    rw [hexec, hfalse]
    exact runEv_idle hj

end Sys2Proof.Machine
end

section
/-!
PROOF. COHORT_PHASE_COMPLETE (12 R350-R352): the phase of a cohort ends.
-/
open Sys2Proof Sys2Proof.Machine
namespace Sys2Proof.Machine

/-! ### One fragment leaves its wait -/

theorem State.updFrag_updFrag (s : State) (gid fid : Nat) (F G : Frag → Frag) :
    (s.updFrag gid fid F).updFrag gid fid G = s.updFrag gid fid fun f => G (F f) := by
  unfold State.updFrag
  rw [State.updGang_updGang]
  dsimp only
  simp only [Tab.upd_upd]

theorem Frag.bare_woken (f : Frag) (c : Nat) : (f.woken c).bare = f.bare.woken c := rfl

/-- The operation of a fragment that waits for a phase of a cohort. -/
def Flight.atPhase (f : Flight) (ag : Agent) (c : Nat) : Prop :=
  f.ag = ag ∧ f.cur = c ∧ ∃ o, f.instr = .cobar o ∨ f.instr = .cored o

/-- Is this the operation by which an agent waits for a phase of its cohort? -/
def Flight.waitsPhase (f : Flight) (ag : Agent) (c : Nat) : Bool :=
  f.ag == ag && f.cur == c && (match f.instr with | .cobar _ => true | .cored _ => true | _ => false)

/-- The operation is done, when it is one by which the agent waits for the phase. -/
def Flight.leavesPhase (f : Flight) (ag : Agent) (c res : Nat) (away : Bool) : Flight :=
  if f.waitsPhase ag c && !(f.accs.all fun a => a.done) then
    { f with accs := [doneAcc 0 res], sw := if away then [res] else f.sw,
             grant := if away && f.dest != Dest.none then 1 else f.grant }
  else f

theorem Flight.leavesPhase_spec (f : Flight) (ag : Agent) (c res : Nat) (away : Bool) :
    (f.leavesPhase ag c res away).ag = f.ag ∧ (f.leavesPhase ag c res away).cur = f.cur ∧
    (f.leavesPhase ag c res away).instr = f.instr ∧ (f.ag ≠ ag → (f.leavesPhase ag c res away).accs = f.accs) ∧
    (f.atPhase ag c → (f.leavesPhase ag c res away).accs = if f.accs.all (fun a => a.done) then f.accs else [doneAcc 0 res]) := by
  unfold Flight.leavesPhase
  split
  · next h =>
    obtain ⟨hwait, hdone⟩ := Bool.and_eq_true_iff.mp h
    have hag : f.ag = ag := by
      unfold Flight.waitsPhase at hwait
      simp only [Bool.and_eq_true, beq_iff_eq] at hwait
      exact hwait.1.1
    rw [Bool.not_eq_true'] at hdone
    exact ⟨rfl, rfl, rfl, fun hne => absurd hag hne, fun _ => by rw [hdone]; rfl⟩
  · next h =>
    refine ⟨rfl, rfl, rfl, fun _ => rfl, fun ⟨hag, hcur, o, ho⟩ => ?_⟩
    have hwait : f.waitsPhase ag c = true := by
      unfold Flight.waitsPhase
      rcases ho with ho | ho <;> simp [hag, hcur, ho]
    have hdone : f.accs.all (fun a => a.done) = true := by simpa [hwait] using h
    rw [hdone, if_pos rfl]

theorem State.find?_dropLater (s : State) (ag : Agent) (p : Flight → Bool) (fls : List Nat) (j : Nat) :
    (s.dropLater ag p fls).flights.find? j = (s.flights.find? j).map fun f => if fls.contains j && p f then f.dropsL1 ag else f := by
  rw [← Tab.find?_map fun j (f : Flight) => if fls.contains j && p f then f.dropsL1 ag else f]
  show Tab.find? (s.flights.map fun e => if fls.contains e.1 && p e.2 then (e.1, e.2.dropsL1 ag) else e) j = _
  congr 1
  exact List.map_congr_left fun e _ => by split <;> rfl

/-- What the release of one fragment does: that fragment's wait ends, and its operation is done with the result; the cohorts, memory and
the clocks stay. -/
theorem State.leaveCohort_spec (s : State) (gid fid c res : Nat) (rels : List Nat) :
    (s.leaveCohort gid fid c res rels).journal = s.journal ∧ (s.leaveCohort gid fid c res rels).mem = s.mem ∧
    (s.leaveCohort gid fid c res rels).grids = s.grids ∧ (∀ ag, (s.leaveCohort gid fid c res rels).cycleOf ag = s.cycleOf ag) ∧
    (∀ j k, ((s.leaveCohort gid fid c res rels).frag? j k).map Frag.bare =
      if j = gid ∧ k = fid then ((s.frag? j k).map Frag.bare).map (·.woken (s.cycleOf (.gang gid fid))) else (s.frag? j k).map Frag.bare) ∧
    ∀ j f, s.flights.find? j = some f → ∃ f', (s.leaveCohort gid fid c res rels).flights.find? j = some f' ∧ f'.ag = f.ag ∧
      f'.cur = f.cur ∧ f'.instr = f.instr ∧ (f.ag ≠ .gang gid fid → f'.accs = f.accs) ∧
      (f.atPhase (.gang gid fid) c → f'.accs = if f.accs.all (fun a => a.done) then f.accs else [doneAcc 0 res]) := by
  let W : Frag → Frag := (·.woken (s.cycleOf (.gang gid fid)))
  obtain ⟨po, con, hgangs⟩ : ∃ po con, (s.leaveCohort gid fid c res rels).gangs =
    ((s.updFrag gid fid W).updFrag gid fid fun f => { f with po := po, con := con }).gangs := ⟨_, _, rfl⟩
  refine ⟨rfl, rfl, rfl, fun ag => ?_, fun j k => ?_, fun j f hf => ?_⟩
  · have hsame : (s.leaveCohort gid fid c res rels).cycleOf ag =
        ((s.updFrag gid fid W).updFrag gid fid fun f => { f with po := po, con := con }).cycleOf ag := by
      unfold State.cycleOf State.lagOf State.gang?
      rw [hgangs]
      rfl
    rw [hsame, State.updFrag_updFrag]
    exact State.cycleOf_updGang s gid (fun g => { g with frags := g.frags.upd (fun f => { W f with po := po, con := con }) fid }) ag
      fun _ => rfl
  · have hsame : (s.leaveCohort gid fid c res rels).frag? j k =
        ((s.updFrag gid fid W).updFrag gid fid fun f => { f with po := po, con := con }).frag? j k := by
      unfold State.frag?
      rw [hgangs]
    rw [hsame, State.updFrag_updFrag, State.frag?_updFrag]
    split
    · rw [Option.map_map, Option.map_map]
      rfl
    · rfl
  · obtain ⟨t, away, hleave, ht⟩ : ∃ (t : State) (away : Bool),
        (s.leaveCohort gid fid c res rels).flights = (t.dropLater (.gang gid fid) (fun _ => true) rels).flights ∧
        t.flights = s.flights.map fun (e : Nat × Flight) => (e.1, e.2.leavesPhase (.gang gid fid) c res away) :=
      ⟨_, !((s.gang? gid).bind fun g => s.wgOf g).any Wg.onChip, rfl, rfl⟩
    have hmap : t.flights.find? j = some (f.leavesPhase (.gang gid fid) c res away) := by
      rw [ht]
      exact (Tab.find?_map (fun _ x => x.leavesPhase (.gang gid fid) c res away) s.flights j).trans (by rw [hf, Option.map_some])
    rw [hleave, State.find?_dropLater, hmap]
    obtain ⟨hag, hcur, hinstr, hother, hhere⟩ := f.leavesPhase_spec (.gang gid fid) c res away
    refine ⟨_, rfl, ?_⟩
    split
    · exact ⟨hag, hcur, hinstr, hother, hhere⟩
    · exact ⟨hag, hcur, hinstr, hother, hhere⟩

/-- The phase's waiters leave one after the other. -/
theorem State.foldl_leaveCohort (c res : Nat) (rels : List Nat) (l : List (Nat × Nat)) : ∀ s : State,
    let t := l.foldl (fun (t : State) w => t.leaveCohort w.1 w.2 c res rels) s
    t.journal = s.journal ∧ t.mem = s.mem ∧ t.grids = s.grids ∧ ∀ gid fid,
      ((t.frag? gid fid).map Frag.bare =
        if (gid, fid) ∈ l then ((s.frag? gid fid).map Frag.bare).map (·.woken (s.cycleOf (.gang gid fid)))
        else (s.frag? gid fid).map Frag.bare) ∧
      ∀ j f, s.flights.find? j = some f → f.atPhase (.gang gid fid) c → ∃ f', t.flights.find? j = some f' ∧
        f'.accs = if (gid, fid) ∈ l ∧ f.accs.all (fun a => a.done) = false then [doneAcc 0 res] else f.accs := by
  induction l with
  | nil => exact fun s => ⟨rfl, rfl, rfl, fun gid fid => ⟨rfl, fun j f hf _ => ⟨f, hf, by simp⟩⟩⟩
  | cons w l ih =>
    intro s
    obtain ⟨hj, hm, hg, hcyc, hfrag, hfl⟩ := s.leaveCohort_spec w.1 w.2 c res rels
    obtain ⟨hj', hm', hg', hrest⟩ := ih (s.leaveCohort w.1 w.2 c res rels)
    refine ⟨hj'.trans hj, hm'.trans hm, hg'.trans hg, fun gid fid => ?_⟩
    obtain ⟨hfrag', hfl'⟩ := hrest gid fid
    have hw : (gid, fid) = w ↔ gid = w.1 ∧ fid = w.2 := Prod.ext_iff
    refine ⟨?_, fun j f hf hat => ?_⟩
    · rw [List.foldl_cons, hfrag', hfrag, hcyc]
      simp only [List.mem_cons, hw]
      by_cases h1 : gid = w.1 ∧ fid = w.2
      · obtain ⟨rfl, rfl⟩ := h1
        simp [Option.map_map, Function.comp_def, Frag.woken_woken]
      · simp only [h1, if_false, false_or]
    · obtain ⟨f1, hf1, hag, hcur, hinstr, hother, hhere⟩ := hfl j f hf
      have hat1 : f1.atPhase (.gang gid fid) c := by
        unfold Flight.atPhase at hat ⊢
        rwa [hag, hcur, hinstr]
      obtain ⟨f2, hf2, haccs⟩ := hfl' j f1 hf1 hat1
      refine ⟨f2, hf2, haccs.trans ?_⟩
      simp only [List.mem_cons, hw]
      by_cases h1 : gid = w.1 ∧ fid = w.2
      · obtain ⟨rfl, rfl⟩ := h1
        rw [hhere hat]
        cases hall : f.accs.all (fun a => a.done) with
        | true => simp [hall]
        | false => simp [doneAcc]
      · rw [hother fun h => h1 ?_]
        · simp only [h1, false_or]
        · have := hat.1.symm.trans h
          cases this
          exact ⟨rfl, rfl⟩

/-- The fragments that wait for the open phase of a cohort of a grid. -/
def State.phaseWaiters (s : State) (grid c phase : Nat) : List (Nat × Nat) :=
  s.gangs.flatMap fun e =>
    if (s.wgOf e.2).any (fun w => w.grid == grid) then
      (e.2.frags.filter fun (f : Nat × Frag) => f.2.stat == .blocked (.cohort c phase)).map fun f => (e.1, f.1)
    else []

theorem State.endPhase_eq (s : State) (grid c res : Nat) (x : Cohort) : s.endPhase grid c res x =
    (s.phaseWaiters grid c x.phase).foldl (fun (t : State) w => t.leaveCohort w.1 w.2 c res x.flights)
      (s.updGrid grid fun r => { r with cohorts := r.cohorts.put c { Cohort.zero with phase := (x.phase + 1) % 2 ^ 32 } }) := rfl

theorem State.mem_phaseWaiters {s : State} {grid c phase gid fid : Nat} {g : Gang} {f : Frag} {w : Wg} (hg : s.gang? gid = some g)
    (hf : g.frags.find? fid = some f) (hw : s.wgOf g = some w) (hgrid : w.grid = grid) (hs : f.stat = .blocked (.cohort c phase)) :
    (gid, fid) ∈ s.phaseWaiters grid c phase := by
  refine List.mem_flatMap.mpr ⟨(gid, g), Tab.mem_of_find? hg, ?_⟩
  rw [if_pos (by simp [hw, hgrid])]
  exact List.mem_map.mpr ⟨(fid, f), List.mem_filter.mpr ⟨Tab.mem_of_find? hf, by simp [hs]⟩, rfl⟩

theorem State.find?_updGrid_same {s : State} {grid : Nat} {gr : Grid} (h : s.grids.find? grid = some gr) (F : Grid → Grid) :
    (s.updGrid grid F).grids.find? grid = some (F gr) := by
  rw [State.updGrid, Tab.find?_upd, if_pos rfl, h, Option.map_some]

theorem Tab.get_of_find? {α : Type} {t : Tab α} {k : Nat} {v : α} (h : t.find? k = some v) (d : α) : t.get d k = v := by
  rw [Tab.get, h, Option.getD_some]

/-- The phase ends on the one chip of the grid. -/
theorem cohortPhaseComplete_one {s : State} {grid c : Nat} {gr : Grid} {x : Cohort} (hgr : s.grids.find? grid = some gr)
    (hmc : gr.mc = none) (hx : gr.cohorts.find? c = some x) : ∃ res, exec (.cohortPhaseComplete grid c) s =
      (if s.cohortFull grid gr c x then runEv s (s.endPhase grid c res x) else runEv s s) ∧
      ∀ op, x.op = some op → res = cohortResult op x.bad (x.values.map (·.2)) s.freeResult := by
  refine ⟨match x.op with | none => 0 | some op => cohortResult op x.bad (x.values.map (·.2)) s.freeResult, ?_, fun op hop => by rw [hop]⟩
  show execCohortPhaseComplete grid c s = _
  unfold execCohortPhaseComplete
  rw [hgr]
  dsimp only
  rw [hmc, Tab.get_of_find? hx]
  dsimp only
  cases s.cohortFull grid gr c x <;> rfl

/-- This chip's share of a phase goes to the origin. -/
theorem cohortPhaseComplete_share {s : State} {grid c origin gen : Nat} {gr : Grid} {x : Cohort} (hgr : s.grids.find? grid = some gr)
    (hmc : gr.mc = some (origin, gen)) (ho : origin ≠ s.chip) (hc : c < gr.cohortN) (hx : gr.cohorts.find? c = some x)
    (hsent : x.sent = false) (hfull : s.cohortFull grid gr c x = true)
    (hmine : ∃ i, i < gr.count ∧ (gr.members.getD (gr.first + i) []).contains c = true)
    (hack : ∀ i ∈ x.flights, s.acknowledged i = true) : ∃ gone : Bool, exec (.cohortPhaseComplete grid c) s = runEv s
      ((s.updGrid grid fun r => { r with cohorts := r.cohorts.put c { x with sent := true } }).sendReq schedSlot 8 origin 0 msgShare
        ([gen, c, x.phase, 1, gone.toNat, (x.op.map (· + 1)).getD 0, x.bad.toNat] ++ x.values.map (·.2))) := by
  obtain ⟨hlanes, hall⟩ := Bool.and_eq_true_iff.mp hfull
  rw [Bool.not_eq_true'] at hlanes
  rw [List.all_eq_true] at hall
  let mine := (List.range gr.count).filter fun i => (gr.members.getD (gr.first + i) []).contains c
  have hnonempty : mine.isEmpty = false := by
    obtain ⟨i, hi, hmem⟩ := hmine
    rw [List.isEmpty_eq_false_iff_exists_mem]
    exact ⟨i, List.mem_filter.mpr ⟨List.mem_range.mpr hi, hmem⟩⟩
  have hin : mine.all (fun i => s.cohortIn grid gr x (gr.first + i)) = true := by
    rw [List.all_eq_true]
    intro i hi
    obtain ⟨hrange, hmem⟩ := List.mem_filter.mp hi
    have hone := hall i hrange
    rwa [hmem, Bool.not_true, Bool.false_or] at hone
  have hacked : x.flights.all s.acknowledged = true := List.all_eq_true.mpr hack
  have hguard : (x.sent || mine.isEmpty || !(mine.all fun i => s.cohortIn grid gr x (gr.first + i)) ||
      (x.lanes.isEmpty && !(mine.all fun i => s.cohortEnded grid gr (gr.first + i))) || !(x.flights.all s.acknowledged)) = false := by
    rw [hsent, hnonempty, hin, hlanes, hacked]
    rfl
  refine ⟨mine.all fun i => s.cohortEnded grid gr (gr.first + i), ?_⟩
  show execCohortPhaseComplete grid c s = _
  unfold execCohortPhaseComplete
  rw [hgr]
  dsimp only
  rw [hmc, Tab.get_of_find? hx]
  dsimp only
  rw [if_pos hc]
  unfold State.shareDone
  dsimp only
  rw [if_neg (by rw [hguard]; exact Bool.false_ne_true)]
  rw [hlanes]
  exact congrArg (runEv s) (if_neg ho)

theorem cohortPhaseCompleteResult : Says.CohortPhaseCompleteResult := by
  refine ⟨fun s grid c origin gen gr x hj hgr hmc ho hc hx hsent hfull hmine hack => ?_, fun s grid c gr x hj hgr hmc hx => ?_⟩
  · obtain ⟨gone, hexec⟩ := cohortPhaseComplete_share hgr hmc ho hc hx hsent hfull hmine hack
    obtain ⟨l, num, seq, hsend⟩ := (s.updGrid grid fun r => { r with cohorts := r.cohorts.put c { x with sent := true } }).sendReq_eq
      schedSlot 8 origin 0 msgShare ([gen, c, x.phase, 1, gone.toNat, (x.op.map (· + 1)).getD 0, x.bad.toNat] ++ x.values.map (·.2))
    rw [hsend] at hexec
    exact ⟨_, _, num, seq, gone.toNat, hexec.trans (runEv_quiet hj rfl), memKept_of_mem rfl rfl, rfl,
      State.find?_updGrid_same hgr _, Tab.find?_put_same _ _ _, rfl⟩
  · obtain ⟨res, hexec, hres⟩ := cohortPhaseComplete_one hgr hmc hx
    refine ⟨fun hfull => ?_, fun hno => ?_⟩
    · rw [if_pos hfull, State.endPhase_eq] at hexec
      obtain ⟨hj', hm', hg', hrest⟩ := State.foldl_leaveCohort c res x.flights (s.phaseWaiters grid c x.phase)
        (s.updGrid grid fun r => { r with cohorts := r.cohorts.put c { Cohort.zero with phase := (x.phase + 1) % 2 ^ 32 } })
      refine ⟨_, { gr with cohorts := gr.cohorts.put c { Cohort.zero with phase := (x.phase + 1) % 2 ^ 32 } }, res,
        hexec.trans (runEv_quiet (hj'.trans hj) hm'), memKept_of_mem hj' hm', ?_, ?_, Tab.find?_put_same _ _ _,
        fun d hd => Tab.find?_put_ne _ _ hd, fun op hop => ⟨_, hres op hop⟩, fun gid fid g f w hg hf hw hgrid hstat => ?_⟩
      · rw [hg']
        exact State.find?_updGrid_same hgr _
      · rfl
      · have hin := State.mem_phaseWaiters hg hf hw hgrid hstat
        obtain ⟨hfrag, hfl⟩ := hrest gid fid
        refine ⟨?_, fun j fl hj hag hcur hinstr hdone => ?_⟩
        · rw [hfrag, if_pos hin]
          show ((s.frag? gid fid).map Frag.bare).map _ = _
          rw [State.frag?_of_gang hg, hf]
          rfl
        · obtain ⟨f', hf', haccs⟩ := hfl j fl hj ⟨hag, hcur, hinstr⟩
          rw [hf', Option.map_some, haccs, if_pos ⟨hin, hdone⟩]
    · rw [hexec, hno]
      exact runEv_idle hj

end Sys2Proof.Machine
end

section
/-!
PROOF. NRALLOC_GRANT (03 R84, 14 R420): record slots of a work graph.
-/
open Sys2Proof Sys2Proof.Machine
namespace Sys2Proof.Machine

theorem Tab.length_put_absent {α : Type} {t : Tab α} {k : Nat} (h : t.find? k = none) (v : α) : (t.put k v).length = t.length + 1 := by
  induction t with
  | nil => rfl
  | cons e t ih =>
    obtain ⟨i, w⟩ := e
    simp only [Tab.find?] at h
    split at h
    · cases h
    · next hi =>
      rw [Tab.put, if_neg hi]
      split
      · rfl
      · rw [List.length_cons, ih h, List.length_cons]

/-! ### Free slots -/

/-- The slots that nothing holds. -/
def Graph.freeSlots (gr : Graph) : List Nat := (List.range gr.slots).filter fun i => (gr.cask.find? i).isNone

theorem Graph.mem_freeSlots {gr : Graph} {x : Nat} : x ∈ gr.freeSlots ↔ x < gr.slots ∧ gr.cask.find? x = none := by
  rw [Graph.freeSlots, List.mem_filter, List.mem_range, Option.isNone_iff_eq_none]

/-- At most one slot is in use for each entry of the table. -/
theorem Graph.length_freeSlots (gr : Graph) : gr.slots - gr.cask.length ≤ gr.freeSlots.length := by
  let used := (List.range gr.slots).filter fun i => !(gr.cask.find? i).isNone
  have hsum : gr.slots = gr.freeSlots.length + used.length := by
    have h := (List.filter_append_perm (fun i => (gr.cask.find? i).isNone) (List.range gr.slots)).length_eq
    rw [List.length_append, List.length_range] at h
    exact h.symm
  have hsub : used ⊆ gr.cask.keys := fun i hi => by
    obtain ⟨-, hsome⟩ := List.mem_filter.mp hi
    obtain ⟨v, hv⟩ := Option.isSome_iff_exists.mp (by simpa using hsome)
    exact List.mem_map.mpr ⟨(i, v), Tab.mem_of_find? hv, rfl⟩
  have hle : used.length ≤ gr.cask.length := by
    have hnodup : used.Nodup := List.nodup_range.filter _
    have h := hnodup.length_le_of_subset hsub
    rwa [Tab.keys, List.length_map] at h
  omega

theorem Graph.freeSlot_mem {gr : Graph} {k : Nat} (h : k < gr.slots - gr.cask.length) : gr.freeSlot k ∈ gr.freeSlots := by
  have hk : k < gr.freeSlots.length := Nat.lt_of_lt_of_le h gr.length_freeSlots
  have heq : gr.freeSlot k = gr.freeSlots[k] := by
    show gr.freeSlots.getD k 0 = _
    rw [List.getD_eq_getElem?_getD, List.getElem?_eq_getElem hk, Option.getD_some]
  rw [heq]
  exact List.getElem_mem hk

/-- Each lane of a request gets a slot of its own that was free, while there is one for each. -/
theorem Graph.grant_spec (gid fresh : Nat) (node : Option Nat) (fromRes : Nat) (lanes : List Nat) : ∀ (gr : Graph) (i : Nat),
    lanes.length ≤ gr.slots - gr.cask.length → ∃ slots : List Nat,
      (gr.grant gid fresh node fromRes i lanes).2 = (lanes.zip slots).map (fun e => (e.1, gr.pool + e.2 * 2 ^ gr.slotLog2)) ∧
      slots.length = lanes.length ∧ slots.Nodup ∧ (gr.grant gid fresh node fromRes i lanes).1.blocked = gr.blocked ∧
      (∀ x ∈ slots, x < gr.slots ∧ gr.cask.find? x = none ∧
        ∃ r, (gr.grant gid fresh node fromRes i lanes).1.cask.find? x = some (.held gid r)) ∧
      ∀ x, x ∉ slots → (gr.grant gid fresh node fromRes i lanes).1.cask.find? x = gr.cask.find? x := by
  induction lanes with
  | nil => exact fun gr i _ => ⟨[], rfl, rfl, List.nodup_nil, rfl, fun x hx => by simp at hx, fun x _ => rfl⟩
  | cons lane rest ih =>
    intro gr i hlen
    rw [List.length_cons] at hlen
    obtain ⟨slot, hslot⟩ : ∃ slot, slot = gr.freeSlot (Config.freeNat fresh (2 ^ 32 + i) % max (gr.slots - gr.cask.length) 1) := ⟨_, rfl⟩
    have hfree : slot ∈ gr.freeSlots := by
      rw [hslot]
      have hmax : max (gr.slots - gr.cask.length) 1 = gr.slots - gr.cask.length := by omega
      rw [hmax]
      exact Graph.freeSlot_mem (Nat.mod_lt _ (by omega))
    obtain ⟨hlt, hnone⟩ := Graph.mem_freeSlots.mp hfree
    obtain ⟨st, hst⟩ : ∃ st, st = if rest.length < fromRes then node else none := ⟨_, rfl⟩
    obtain ⟨gr', hgr'⟩ : ∃ gr' : Graph, gr' = { gr with cask := gr.cask.put slot (.held gid st) } := ⟨_, rfl⟩
    have hstep : gr.grant gid fresh node fromRes i (lane :: rest) =
        ((gr'.grant gid fresh node fromRes (i + 1) rest).1,
          (lane, gr.pool + slot * 2 ^ gr.slotLog2) :: (gr'.grant gid fresh node fromRes (i + 1) rest).2) := by
      rw [hgr', hst, hslot]
      rfl
    have hcask : gr'.cask = gr.cask.put slot (.held gid st) := by rw [hgr']
    have hslots : gr'.slots = gr.slots := by rw [hgr']
    obtain ⟨hpool, hlog, hblk⟩ : gr'.pool = gr.pool ∧ gr'.slotLog2 = gr.slotLog2 ∧ gr'.blocked = gr.blocked := by
      rw [hgr']
      exact ⟨rfl, rfl, rfl⟩
    obtain ⟨slots, hres, hl, hnodup, hblocked, hin, hout⟩ := ih gr' (i + 1) (by
      rw [hslots, hcask, Tab.length_put_absent hnone]
      omega)
    have hother : ∀ x, x ≠ slot → gr'.cask.find? x = gr.cask.find? x := fun x hx => by rw [hcask, Tab.find?_put_ne _ _ hx]
    have hnew : gr'.cask.find? slot = some (.held gid st) := by rw [hcask, Tab.find?_put_same]
    have hnot : slot ∉ slots := fun hx => by
      obtain ⟨-, h, -⟩ := hin slot hx
      rw [hnew] at h
      cases h
    rw [hstep]
    refine ⟨slot :: slots, ?_, by simp [hl], List.nodup_cons.mpr ⟨hnot, hnodup⟩, hblocked.trans hblk, fun x hx => ?_,
      fun x hx => ?_⟩
    · rw [List.zip_cons_cons, List.map_cons, hres, hpool, hlog]
    · rcases List.mem_cons.mp hx with rfl | hx
      · exact ⟨hlt, hnone, st, (hout x hnot).trans hnew⟩
      · obtain ⟨h1, h2, r, h3⟩ := hin x hx
        have hne : x ≠ slot := fun h => hnot (h ▸ hx)
        exact ⟨hslots ▸ h1, (hother x hne).symm.trans h2, r, h3⟩
    · obtain ⟨hne, hx⟩ := not_or.mp (mt List.mem_cons.mpr hx)
      exact (hout x hx).trans (hother x hne)

/-! ### The event -/

theorem nrallocGrantResult : Says.NrallocGrantResult := by
  intro s k gid fid rest gr f fr g kk node hj hgr hblocked hreq hg hgraph hfr lanes
  have hexec : exec (.nrallocGrant k) s = match s.grantFlight k { gr with blocked := rest } f gid node with
      | some t => runEv s (t.unblock gid fid)
      | none => runEv s s := by
    show execNrallocGrant k s = _
    unfold execNrallocGrant
    rw [hgr]
    dsimp only
    rw [hblocked]
    dsimp only
    rw [hreq, hg, Option.bind_some, hgraph] <;> rfl
  have hsplit : ({ gr with blocked := rest } : Graph).split node (s.lanesAg f.ag f.mask).length = gr.split node lanes.length := rfl
  unfold State.grantFlight at hexec
  dsimp only at hexec
  rw [hsplit] at hexec
  refine ⟨fun hsome hlen => ?_, fun hnone => ?_⟩
  · obtain ⟨r, hr⟩ := Option.isSome_iff_exists.mp hsome
    rw [hr] at hexec
    dsimp only at hexec
    obtain ⟨slots, hres, hl, hnodup, hb, hin, hout⟩ :=
      Graph.grant_spec gid s.fresh node r lanes { gr with blocked := rest } 0 hlen
    refine ⟨_, slots, _, hexec.trans (runEv_quiet hj rfl), memKept_of_mem rfl rfl, ?_, ?_, hl, hnodup, Tab.find?_put_same _ _ _, hb,
      hin, hout⟩
    · refine (State.frag?_unblock (s := s) rfl rfl rfl gid fid gid fid).trans ?_
      rw [if_pos ⟨rfl, rfl⟩, State.frag?_of_gang hg, hfr, Option.map_some]
    · refine (Tab.find?_put_same _ _ _).trans ?_
      show some { f with accs := (Graph.grant _ _ _ _ _ _ lanes).2.map _ } = _
      rw [hres, List.map_map]
      rfl
  · rw [hexec, hnone]
    exact runEv_idle hj

end Sys2Proof.Machine
end

section
/-!
PROOF. The host's translations (09 R263), and requests held while a chip is not reached (10 R284).
-/
open Sys2Proof Sys2Proof.Machine
namespace Sys2Proof.Machine

/-! ### Translations of the host -/

theorem atsTranslationCompletionResult : Says.AtsTranslationCompletionResult := by
  intro s pasid page granted hj ask
  let v := match granted with | some p => p + 1 | none => 0
  have hmine : ∀ m : OutMsg, (m.kind == 1 && m.args == [pasid, page]) = decide (m = ask) := fun m => by
    obtain ⟨kind, args⟩ := m
    rw [Bool.eq_iff_iff]
    simp [ask]
  have hexec : exec (.atsTranslationCompletion pasid page granted) s =
      if s.hostOut.any (fun m => decide (m = ask)) then runEv s { s with
        hostOut := s.hostOut.filter fun m => !(decide (m = ask)),
        atc := ((pasid, page, v) :: s.atc.filter fun e => !(e.1 == pasid && e.2.1 == page)).take 1024 }
      else runEv s s := by
    show execAtsTranslationCompletion pasid page granted s = _
    unfold execAtsTranslationCompletion
    simp only [hmine]
    cases s.hostOut.any fun m => decide (m = ask) <;> rfl
  have hany : s.hostOut.any (fun m => decide (m = ask)) = true ↔ ask ∈ s.hostOut := by simp
  refine ⟨fun hin => ?_, fun hout => ?_⟩
  · rw [if_pos (hany.mpr hin)] at hexec
    refine ⟨_, hexec.trans (runEv_quiet hj rfl), rfl, fun m => ?_, rfl, List.length_take_le _ _, fun e he h1 h2 => ?_⟩
    · simp [List.mem_filter]
    · rcases List.mem_cons.mp (List.mem_of_mem_take he) with rfl | he
      · rfl
      · simp [h1, h2] at he
  · rw [hexec, if_neg (mt hany.mp hout)]
    exact runEv_idle hj

/-- An operation with accesses to given pages of the host outstanding has accesses to the host outstanding. -/
theorem Flight.usesHost_any {f : Flight} {keys : List Nat} (h : f.usesHost keys = true) : f.usesHost [] = true := by
  unfold Flight.usesHost at h ⊢
  obtain ⟨a, ha, hhit⟩ := List.any_eq_true.mp h
  refine List.any_eq_true.mpr ⟨a, ha, ?_⟩
  have hweaken : ∀ k, (keyTier k == 3 && (keys.isEmpty || keys.contains (k / 4096 * 4096))) = true →
      (keyTier k == 3 && (([] : List Nat).isEmpty || ([] : List Nat).contains (k / 4096 * 4096))) = true := fun k hk => by
    rw [(Bool.and_eq_true_iff.mp hk).1]
    rfl
  rw [Bool.and_eq_true, Bool.or_eq_true] at hhit ⊢
  refine ⟨hhit.1, hhit.2.imp (fun hloc => ?_) fun hpage => ?_⟩
  · cases hl : a.loc with
    | mem k tso z =>
      rw [hl] at hloc
      exact hweaken k hloc
    | _ => simp [hl] at hloc
  · obtain ⟨p, hp, hk⟩ := List.any_eq_true.mp hpage
    exact List.any_eq_true.mpr ⟨p, hp, hweaken _ hk⟩

/-- The entries of a page of a PASID dropped. -/
theorem mem_dropPage {α : Type} {l : List (Nat × Nat × α)} {pasid page : Nat} {e : Nat × Nat × α} :
    e ∈ l.filter (fun e => !(e.1 == pasid && e.2.1 == page)) ↔ e ∈ l ∧ ¬ (e.1 = pasid ∧ e.2.1 = page) := by
  simp only [List.mem_filter, Bool.not_eq_true', ← Bool.not_eq_true, Bool.and_eq_true, beq_iff_eq]

theorem atsInvalidateResult : Says.AtsInvalidateResult := by
  intro s pasid page hj
  obtain ⟨keys, hexec⟩ : ∃ keys, exec (.atsInvalidate pasid page) s =
      if s.flights.any (fun e => e.2.pasid == pasid && e.2.usesHost keys) then
        runEv s { s with
          atc := s.atc.filter (fun e => !(e.1 == pasid && e.2.1 == page)),
          atsInv := s.atsInv.filter (fun e => !(e.1 == pasid && e.2.1 == page)) ++ [(pasid, page, keys)] }
      else
        runEv s { s with
          atc := s.atc.filter (fun e => !(e.1 == pasid && e.2.1 == page)),
          atsInv := s.atsInv.filter (fun e => !(e.1 == pasid && e.2.1 == page)),
          hostOut := s.hostOut ++ [{ kind := msgInvDone, args := [pasid, page] }] } := ⟨_, rfl⟩
  by_cases hused : s.flights.any (fun e => e.2.pasid == pasid && e.2.usesHost keys) = true
  · rw [if_pos hused] at hexec
    obtain ⟨e, he, hboth⟩ := List.any_eq_true.mp hused
    obtain ⟨hpasid, huse⟩ := Bool.and_eq_true_iff.mp hboth
    rw [beq_iff_eq] at hpasid
    refine ⟨_, hexec.trans (runEv_quiet hj rfl), rfl, fun e => mem_dropPage, fun e hne => ?_,
      .inr ⟨rfl, ⟨keys, List.mem_append_right _ (List.mem_singleton.mpr rfl)⟩, e, he, hpasid, Flight.usesHost_any huse⟩,
      fun hnone => ?_⟩
    · have hkeys : e ≠ (pasid, page, keys) := fun h => hne (by rw [h]; exact ⟨rfl, rfl⟩)
      rw [List.mem_append, List.mem_singleton, mem_dropPage]
      exact ⟨fun h => h.elim And.left fun h => absurd h hkeys, fun h => .inl ⟨h, hne⟩⟩
    · exact absurd (Flight.usesHost_any huse) (by rw [hnone e he hpasid]; exact Bool.false_ne_true)
  · rw [if_neg hused] at hexec
    refine ⟨_, hexec.trans (runEv_quiet hj rfl), rfl, fun e => mem_dropPage, fun e hne => ?_, .inl ⟨rfl, fun e he => ?_⟩, fun _ => rfl⟩
    · exact mem_dropPage.trans (and_iff_left hne)
    · exact (mem_dropPage.mp he).2

/-! ### Requests held by an unreachable chip -/

/-- A unit's own request is held by a token. -/
theorem fabricHoldTimeout_token {s : State} {fl n pasid page late : Nat} {f : Flight} (hf : s.flights.find? fl = some f)
    (hi : f.instr = .fabricHoldTimeout n) (hsw : f.sw = [pasid, page, late]) : exec (.fabricHoldTimeout fl) s =
      if s.routeMask (page % 2 ^ 10) ≠ 0 then runEv s { s with flights := s.flights.del fl }
      else if f.born + 2000000 ≤ s.cycle then runEv s { s with flights := s.flights.put fl { f with sw := [pasid, page, 1] } }
      else runEv s s := by
  show execFabricHoldTimeout fl s = _
  unfold execFabricHoldTimeout
  rw [hf]
  dsimp only
  rw [hi, hsw]
  simp only [List.getD_cons_succ, List.getD_cons_zero, if_true, ge_iff_le]

/-- The access is lost: it has waited too long for a chip that is not reached. -/
def State.lost (s : State) (a : Acc) : Bool :=
  !a.done && a.waitSince ≠ 0 && decide (s.cycle ≥ a.waitSince - 1 + 2000000) && s.unreachable a

theorem State.lost_iff {s : State} {a : Acc} :
    s.lost a = true ↔ a.done = false ∧ a.waitSince ≠ 0 ∧ a.waitSince - 1 + 2000000 ≤ s.cycle ∧ s.unreachable a = true := by
  simp [State.lost, and_assoc]

/-- An operation that is done with poison when one that it is released after is lost. -/
def Flight.failsBehind (e : Flight) (fl : Nat) : Bool := e.releasedAfter fl && e.path != 4 && !isTensor e.instr

/-- The operations once one of them is lost: what it orders is done with poison. -/
def State.behindLost (s : State) (fl : Nat) : Tab Flight :=
  s.flights.map fun e => (e.1, if e.1 != fl && e.2.failsBehind fl then e.2.failAccs (fun a => !a.done) else e.2)

theorem State.find?_behindLost (s : State) (fl : Nat) (F : Flight → Flight) (j : Nat) :
    Tab.find? (Tab.upd F (s.behindLost fl) fl) j = if j = fl then (s.flights.find? j).map F else
      (s.flights.find? j).map fun e => if e.failsBehind fl then e.failAccs (fun a => !a.done) else e := by
  have hmap : (s.behindLost fl).find? j =
      (s.flights.find? j).map fun e => if j != fl && e.failsBehind fl then e.failAccs (fun a => !a.done) else e :=
    Tab.find?_map (fun j (e : Flight) => if j != fl && e.failsBehind fl then e.failAccs (fun a => !a.done) else e) s.flights j
  rw [Tab.find?_upd, hmap]
  split
  · next h => simp [h]
  · next h => simp [h]

/-- What stands behind a lost operation, where it is no matrix and no tensor operation. -/
theorem State.loseBehind_plain {s : State} {fl : Nat}
    (h : ∀ e ∈ s.flights, e.1 ≠ fl → e.2.releasedAfter fl = true → e.2.path ≠ 4 ∧ isTensor e.2.instr = false) :
    s.loseBehind fl = { s with flights := s.behindLost fl } := by
  have hnone : ((s.flights.filter fun e => e.1 != fl && e.2.releasedAfter fl).filter fun e => e.2.path == 4 || isTensor e.2.instr) = [] := by
    rw [List.filter_eq_nil_iff]
    intro e he hbad
    obtain ⟨hin, hbehind⟩ := List.mem_filter.mp he
    obtain ⟨hne, hrel⟩ := Bool.and_eq_true_iff.mp hbehind
    obtain ⟨h4, ht⟩ := h e hin (by simpa using hne) hrel
    simp [h4, ht] at hbad
  unfold State.loseBehind
  dsimp only
  rw [hnone, List.foldl_nil]
  simp only [State.behindLost, Flight.failsBehind, Bool.and_assoc]

/-- An access of an operation whose accesses of a kind are lost. -/
theorem Flight.getElem?_failAccs {f : Flight} {k : Nat} {a : Acc} (h : f.accs[k]? = some a) (p : Acc → Bool) :
    (f.failAccs p).accs[k]? = some (if p a then { a with res := 0, done := true, poisoned := true } else a) := by
  simp only [Flight.failAccs, List.getElem?_map, h, Option.map_some]

theorem Flight.releasedAfter_iff {e : Flight} {fl : Nat} :
    e.releasedAfter fl = true ↔ fl ∈ e.acks ∨ (e.rel = true ∧ 4 ≤ e.scope ∧ fl ∈ e.after) := by
  simp [Flight.releasedAfter, and_assoc]

theorem fabricHoldTimeout_request {s : State} {fl : Nat} {f : Flight} (hf : s.flights.find? fl = some f) (ht : isTensor f.instr = false)
    (hcb : ∀ o, f.instr ≠ .cbwait o) (htok : ∀ n, f.instr ≠ .fabricHoldTimeout n) (h4 : f.path ≠ 4) :
    exec (.fabricHoldTimeout fl) s = if f.accs.any s.lost then
      runEv s { s.loseBehind fl with flights := (s.loseBehind fl).flights.upd (·.failAccs s.lost) fl } else runEv s s := by
  show execFabricHoldTimeout fl s = _
  unfold execFabricHoldTimeout
  rw [hf]
  dsimp only
  have hlost : ∀ a : Acc, (!a.done && decide (a.waitSince ≠ 0) && decide (s.cycle ≥ a.waitSince - 1 + 2000000) && s.unreachable a) =
      s.lost a := fun _ => rfl
  simp only [hlost]
  split
  · next h => cases h
  · rw [if_neg (show ¬ isTensor f.instr = true by simp [ht])]
    split
    · split
      · next o _ h => exact absurd h (hcb o)
      · rfl
    · rfl

theorem fabricHoldTimeoutResult : Says.FabricHoldTimeoutResult := by
  refine ⟨fun s fl n pasid page late f hj hf hi hsw => ?_, fun s fl f hj hf ht hcb htok h4 hbehind => ?_⟩
  · have hexec := fabricHoldTimeout_token hf hi hsw
    split at hexec
    · next hr =>
      refine ⟨_, hexec.trans (runEv_quiet hj rfl), rfl, fun j hne => (Tab.find?_del _ _ _).trans (if_neg hne),
        fun _ => (Tab.find?_del _ _ _).trans (if_pos rfl), fun h => absurd h hr, fun h => absurd h hr⟩
    · next hr =>
      split at hexec
      · next hlate =>
        refine ⟨_, hexec.trans (runEv_quiet hj rfl), rfl, fun j hne => Tab.find?_put_ne _ _ hne, fun h => absurd h hr,
          fun _ _ => Tab.find?_put_same _ _ _, fun _ h => absurd hlate (Nat.not_le.mpr h)⟩
      · next hearly =>
        exact ⟨s, hexec.trans (runEv_idle hj), rfl, fun _ _ => rfl, fun h => absurd h hr, fun _ h => absurd h hearly, fun _ _ => rfl⟩
  · have hexec := fabricHoldTimeout_request hf ht hcb htok h4
    refine ⟨fun ⟨a, ha, hlost⟩ => ?_, fun hnone => ?_⟩
    · rw [if_pos (List.any_eq_true.mpr ⟨a, ha, State.lost_iff.mpr hlost⟩), State.loseBehind_plain hbehind] at hexec
      have hfind : ∀ j, Tab.find? (Tab.upd (·.failAccs s.lost) (s.behindLost fl) fl) j = if j = fl then
          (s.flights.find? j).map (·.failAccs s.lost)
          else (s.flights.find? j).map fun e => if e.failsBehind fl then e.failAccs (fun a => !a.done) else e :=
        State.find?_behindLost s fl (·.failAccs s.lost)
      refine ⟨_, hexec.trans (runEv_quiet hj rfl), rfl, ⟨f.failAccs s.lost, ?_, rfl, List.length_map _, fun k b hb => ?_⟩,
        fun j e hne he => ?_⟩
      · refine (hfind fl).trans ?_
        rw [if_pos rfl, hf, Option.map_some]
      · rw [Flight.getElem?_failAccs hb]
        exact ⟨fun h => by rw [if_pos (State.lost_iff.mpr h)], fun h => by rw [if_neg (mt State.lost_iff.mp h)]⟩
      · have hj : ∀ e' : Flight, (if e.failsBehind fl then e.failAccs (fun a => !a.done) else e) = e' →
            Tab.find? (Tab.upd (·.failAccs s.lost) (s.behindLost fl) fl) j = some e' := fun e' h => by
          rw [hfind, if_neg hne, he, Option.map_some, h]
        refine ⟨fun hrel => ⟨e.failAccs fun a => !a.done, hj _ ?_, rfl, fun k b hb => ?_⟩, fun hacks hrel => hj _ ?_⟩
        · have hrel' := Flight.releasedAfter_iff.mpr hrel
          obtain ⟨h4', ht'⟩ := hbehind (j, e) (Tab.mem_of_find? he) hne hrel'
          rw [if_pos (by simp [Flight.failsBehind, hrel', h4', ht'])]
        · rw [Flight.getElem?_failAccs hb]
          cases b.done <;> rfl
        · have hno : e.releasedAfter fl = false := by
            rw [← Bool.not_eq_true, Flight.releasedAfter_iff]
            rintro (h | ⟨h1, h2, h3⟩)
            · exact hacks h
            · rcases hrel with h | h | h
              · rw [h] at h1
                cases h1
              · omega
              · exact h h3
          rw [if_neg (by simp [Flight.failsBehind, hno])]
    · rw [hexec, if_neg]
      · exact runEv_idle hj
      · intro hany
        obtain ⟨a, ha, hlost⟩ := List.any_eq_true.mp hany
        exact hnone a ha (State.lost_iff.mp hlost)

end Sys2Proof.Machine
end

section
/-!
PROOF. The page requests to the host (09 R263, R264): what leaves their indices as they are.
-/
open Sys2Proof Sys2Proof.Machine
namespace Sys2Proof.Machine

/-- The page requests to the host: the indices in use, and whether the host has ended its service. -/
def State.pris (s : State) : Tab (Nat × Nat) × Bool := (s.pri, s.priOff)

theorem foldl_pris {α : Type} {F : State → α → State} (hF : ∀ t a, (F t a).pris = t.pris) (l : List α) :
    ∀ s, (l.foldl F s).pris = s.pris := by
  induction l with
  | nil => exact fun _ => rfl
  | cons a l ih => exact fun s => (ih _).trans (hF s a)

theorem ite_pris {t u : State} {q : Tab (Nat × Nat) × Bool} (p : Prop) [Decidable p] (ht : t.pris = q) (hu : u.pris = q) :
    (if p then t else u).pris = q := by
  split
  · exact ht
  · exact hu

/-! ### Changes of the state by parts -/

@[simp] theorem State.pris_updGang (s : State) (gid : Nat) (F : Gang → Gang) : (s.updGang gid F).pris = s.pris := rfl
@[simp] theorem State.pris_updFrag (s : State) (gid fid : Nat) (F : Frag → Frag) : (s.updFrag gid fid F).pris = s.pris := rfl
@[simp] theorem State.pris_updWg (s : State) (wid : Nat) (F : Wg → Wg) : (s.updWg wid F).pris = s.pris := rfl
@[simp] theorem State.pris_updPart (s : State) (n : Nat) (F : PartBlk → PartBlk) : (s.updPart n F).pris = s.pris := rfl
@[simp] theorem State.pris_markBlock (s : State) (b : Nat) : (s.markBlock b).pris = s.pris := rfl
@[simp] theorem State.pris_shown (s : State) (w base n : Nat) : (s.shown w base n).pris = s.pris := rfl
@[simp] theorem State.pris_freshen (s : State) (wid : Nat) (w : Wg) : (s.freshen wid w).pris = s.pris := rfl
@[simp] theorem State.pris_tileNotice (s : State) (pasid : Nat) (op : HomeOp) : (s.tileNotice pasid op).pris = s.pris := rfl

theorem State.pris_sendReq (s : State) (slot path peer fl kind : Nat) (body : List Nat) :
    (s.sendReq slot path peer fl kind body).pris = s.pris := by
  obtain ⟨l, num, seq, h⟩ := s.sendReq_eq slot path peer fl kind body
  rw [h]
  rfl

@[simp] theorem State.pris_sendDev (s : State) (key : Nat) : (s.sendDev key).pris = s.pris :=
  ite_pris _ (s.pris_sendReq ..) rfl

@[simp] theorem State.pris_countXfer (s : State) (key : Nat) : (s.countXfer key).pris = s.pris := ite_pris _ rfl rfl

@[simp] theorem State.pris_devFail (s : State) (pasid reason : Nat) : (s.devFail pasid reason).pris = s.pris :=
  ite_pris (t := { s with atc := s.atc.filter fun t => t.2.2 ≠ 0 }) _ rfl rfl

theorem State.pris_askAts (s : State) (w : Option (Nat × Nat)) : (s.askAts w).pris = s.pris := by
  cases w with
  | none => rfl
  | some w =>
    unfold State.askAts State.askPage
    dsimp only
    split
    · split <;> rfl
    · split <;> rfl

/-! ### Bytes written -/

@[simp] theorem State.pris_pokeBytes (l : List Byte) : ∀ (s : State) (k : Nat), (s.pokeBytes k l).pris = s.pris := by
  induction l with
  | nil => exact fun _ _ => rfl
  | cons b l ih => exact fun s k => ih _ _

@[simp] theorem State.pris_pokeN (s : State) (k n x : Nat) : (s.pokeN k n x).pris = s.pris := s.pris_pokeBytes _ _

@[simp] theorem State.pris_seeHost (s : State) (key : Nat) : (s.seeHost key).pris = s.pris := by
  unfold State.seeHost
  split
  · rfl
  · exact foldl_pris (fun t a => t.pris_pokeBytes _ _) _ _

@[simp] theorem State.pris_zbStore (s : State) (key table : Nat) (out : List Byte) : (s.zbStore key table out).pris = s.pris := by
  unfold State.zbStore
  dsimp only
  split
  · simp
  · split <;> simp

@[simp] theorem State.pris_memWrite (s : State) (key n v : Nat) (zb : Bool) (table : Nat) (home : Bool) :
    (s.memWrite key n v zb table home).1.pris = s.pris := by
  unfold State.memWrite
  dsimp only
  split
  · rfl
  · split
    · split
      · rfl
      · split
        · simp
        · split <;> simp
    · split <;> simp

@[simp] theorem State.pris_spoilBarriers (s : State) (key n : Nat) (zb : Bool) : (s.spoilBarriers key n zb).pris = s.pris := by
  unfold State.spoilBarriers
  dsimp only
  split
  · rfl
  · exact foldl_pris (fun t b => t.pris_memWrite ..) _ _

@[simp] theorem State.pris_memStore (s : State) (key n v : Nat) (zb : Bool) (table : Nat) :
    (s.memStore key n v zb table).1.pris = s.pris := by
  unfold State.memStore
  dsimp only
  split <;> simp

/-! ### Translations noted -/

@[simp] theorem State.pris_tlbAdd (s : State) (unit pasid : Nat) (t : TrOk) : (s.tlbAdd unit pasid t).pris = s.pris := by
  unfold State.tlbAdd
  split
  · rfl
  · exact foldl_pris (fun u k => by unfold State.tlbPut; dsimp only; split <;> rfl) _ _

@[simp] theorem State.pris_noteUseEv (s : State) (unit pasid : Nat) (t : TrOk) : (s.noteUseEv unit pasid t).pris = s.pris := by
  unfold State.noteUseEv
  dsimp only
  split <;> simp

/-! ### The device's own accesses -/

/-- The state that a result of the device leaves has the page requests `q`. -/
def DRes.Pris {α : Type} (q : Tab (Nat × Nat) × Bool) : DRes α → Prop
  | .ok _ t => t.pris = q
  | .fault _ t => t.pris = q
  | .wait _ => True

theorem DRes.Pris.bind {α β : Type} {q : Tab (Nat × Nat) × Bool} {r : DRes α} {f : α → State → DRes β} (hr : r.Pris q)
    (hf : ∀ a t, t.pris = q → (f a t).Pris q) : (r.bind f).Pris q := by
  cases r with
  | ok a t => exact hf a t hr
  | fault va t => exact hr
  | wait w => trivial

theorem devReadGo_pris (unit pasid part : Nat) (l : List (Nat × Nat)) : ∀ s : State, (devReadGo none unit pasid part l s).Pris s.pris := by
  induction l with
  | nil => exact fun s => rfl
  | cons e rest ih =>
    obtain ⟨va, n⟩ := e
    intro s
    unfold devReadGo
    split
    · exact s.pris_devFail ..
    · trivial
    · next t _ =>
      split
      · exact s.pris_devFail ..
      · trivial
      · split
        · trivial
        · dsimp only
          split
          · exact s.pris_seeHost _
          · refine DRes.Pris.bind ?_ fun x u hu => hu
            have h := ih ((((s.seeHost t.key)).noteUseEv unit pasid t).countXfer t.key)
            simpa using h

theorem devWriteGo_pris (unit pasid part : Nat) (l : List (Nat × Nat)) :
    ∀ (v : Nat) (s : State), (devWriteGo none unit pasid part l v s).Pris s.pris := by
  induction l with
  | nil => exact fun v s => rfl
  | cons e rest ih =>
    obtain ⟨va, n⟩ := e
    intro v s
    unfold devWriteGo
    split
    · exact s.pris_devFail ..
    · trivial
    · next t _ =>
      split
      · exact s.pris_devFail ..
      · trivial
      · split
        · trivial
        · dsimp only
          split
          · rfl
          · have h := ih (v / 256 ^ n)
              (((((s.memStore t.key n (v % 256 ^ n) t.zb 0).1.shown 0 t.key n).sendDev t.key).noteUseEv unit pasid t).countXfer t.key)
            simpa using h

theorem State.devRead_pris (s : State) (unit pasid part va n : Nat) : (s.devRead unit pasid part va n).Pris s.pris :=
  devReadGo_pris ..

theorem State.devWrite_pris (s : State) (unit pasid part va n v : Nat) : (s.devWrite unit pasid part va n v).Pris s.pris := by
  have h := devWriteGo_pris unit pasid part (devPieces va n) v s
  unfold State.devWrite State.devWriteAs
  split
  · rfl
  · exact h

theorem State.devUpdate_pris (s : State) (unit pasid part va n : Nat) (f : Nat → Nat) :
    (s.devUpdate unit pasid part va n f).Pris s.pris :=
  (s.devRead_pris ..).bind fun _ t ht => (ht ▸ t.devWrite_pris ..).bind fun _ _ hu => hu

@[simp] theorem State.pris_devErr (s : State) (part addr code tag lin : Nat) : (s.devErr part addr code tag lin).pris = s.pris := by
  unfold State.devErr
  dsimp only
  split
  · rfl
  · rw [State.pris_updPart]
    split <;> simp

theorem State.passErr_pris (s : State) (unit pasid part addr bits : Nat) : (s.passErr unit pasid part addr bits).Pris s.pris := by
  have h := s.devUpdate_pris unit pasid part (addr + 20) 4 fun x => x ||| bits
  unfold State.passErr
  generalize s.devUpdate unit pasid part (addr + 20) 4 (fun x => x ||| bits) = r at h
  cases r with
  | ok a t => exact h
  | fault va t => exact (t.pris_devErr ..).trans h
  | wait w => trivial

/-! ### Passes and their tiles -/

theorem State.passAt_pris (s : State) (unit pasid part addr : Nat) : (s.passAt unit pasid part addr).Pris s.pris := by
  have h := s.devRead_pris unit pasid part addr 128
  unfold State.passAt
  generalize s.devRead unit pasid part addr 128 = r at h
  cases r with
  | ok x t =>
    dsimp only
    split
    · exact DRes.Pris.bind (h ▸ t.passErr_pris ..) fun _ _ hu => hu
    · exact ite_pris _ h h
  | fault va t => exact DRes.Pris.bind (h ▸ t.passErr_pris ..) fun _ _ hu => hu
  | wait w => trivial

theorem Pass.setStat_pris (p : Pass) (s : State) (tile x : Nat) : (p.setStat s tile x).Pris s.pris :=
  (s.devWrite_pris ..).bind fun _ _ ht => ite_pris _ ht ht

theorem Pass.pinBit_pris (p : Pass) (s : State) (tile : Nat) : (p.pinBit s tile).Pris s.pris :=
  DRes.Pris.bind (s.devRead_pris ..) fun _ t ht => ht ▸ p.setStat_pris t tile _

theorem State.pinBit_pris (s : State) (pasid part pass tile : Nat) : (s.pinBit pasid part pass tile).Pris s.pris := by
  refine (s.passAt_pris ..).bind fun p t ht => ?_
  cases p with
  | none => exact ht
  | some q =>
    have h := q.pinBit_pris t tile
    dsimp only
    unfold Pass.ended
    generalize q.pinBit t tile = r at h
    cases r with
    | ok a u => exact h.trans ht
    | fault va u => exact DRes.Pris.bind ((h.trans ht) ▸ u.passErr_pris ..) fun _ _ hv => hv
    | wait w => trivial

theorem State.pris_faultPin (s : State) (gid : Nat) : (s.faultPin gid).pris = s.pris := by
  unfold State.faultPin
  split
  · rfl
  · split
    · rfl
    · next pass _ =>
      refine foldl_pris (fun t tile => ?_) _ _
      have h := t.pinBit_pris (s.pasidOf (.gang gid 0)) (s.partOf (.gang gid 0)) pass tile
      split
      · next u hu =>
        rw [hu] at h
        exact h
      · next u hu =>
        rw [hu] at h
        exact h
      · next w _ => exact (State.pris_tileNotice _ _ _).trans (t.pris_askAts w)

/-! ### The way back from an escalation -/

theorem State.pris_resumeTrap (s : State) (gid : Nat) : (s.resumeTrap gid).pris = s.pris := by
  unfold State.resumeTrap
  split
  · rfl
  · exact ite_pris _ rfl rfl

theorem State.pris_enterSup (s : State) (gid fid : Nat) : (s.enterSup gid fid).pris = s.pris := by
  unfold State.enterSup State.enterAt
  split
  · split <;> rfl
  · rfl

theorem State.pris_actEsc (s : State) (gid : Nat) : (s.actEsc gid).pris = s.pris := by
  unfold State.actEsc
  split
  · rfl
  · dsimp only
    split
    · rfl
    · split
      · exact State.pris_resumeTrap _ _
      · exact State.pris_enterSup _ _ _

theorem State.pris_reenter (s : State) (wid : Nat) : (s.reenter wid).pris = s.pris := by
  unfold State.reenter
  split
  · rfl
  · split <;> rfl

theorem State.pris_pokeImg (s : State) (gid off n v : Nat) : (s.pokeImg gid off n v).pris = s.pris := by
  unfold State.pokeImg
  split
  · rfl
  · dsimp only
    split <;> simp

theorem State.pris_setPristat (s : State) (gid v : Nat) : (s.setPristat gid v).pris = s.pris := by
  unfold State.setPristat
  split
  · rfl
  · exact State.pris_pokeImg _ _ _ _ _

theorem State.pris_clearFault (s : State) (gid : Nat) : (s.clearFault gid).pris = s.pris := by
  unfold State.clearFault
  split
  · rfl
  · exact State.pris_pokeImg _ _ _ _ _

theorem State.pris_answer (s : State) (gid outcome : Nat) : (s.answer gid outcome).pris = s.pris := by
  unfold State.answer
  split
  · rfl
  · next g _ =>
    dsimp only
    have hcleared : (((if outcome = 1 then s.clearFault gid else s).setPristat gid outcome).updGang gid
        fun x => { x with esc := 2 + outcome }).pris = s.pris :=
      (State.pris_setPristat _ _ _).trans (ite_pris _ (s.pris_clearFault gid) rfl)
    split
    · exact (State.pris_reenter _ _).trans hcleared
    · exact hcleared
    · exact hcleared
    · refine ((State.pris_faultPin _ _).trans (State.pris_actEsc _ _)).trans ?_
      cases s.wgOf g with
      | none => exact hcleared
      | some w => exact hcleared

/-- An event ends with the page requests of the state it reached. -/
theorem runEv_pris (s u : State) : ∃ t, runEv s u = .next t ∧ t.pris = u.pris :=
  ⟨_, rfl, (ite_pris _ rfl rfl : (afterWrites u u.journal).pris = u.pris)⟩

end Sys2Proof.Machine
end

section
/-!
PROOF. PAGE_REQUEST_RESPONSE (09 R263, R264), and the obligation on the events of fragments and gangs.
-/
open Sys2Proof Sys2Proof.Machine
namespace Sys2Proof.Machine

/-- A gang on its way out, whose workgroup is not yet saved. -/
def State.swaps (s : State) (gid : Nat) : Prop :=
  ∃ g st, s.gang? gid = some g ∧ (s.wgOf g).map (fun (w : Wg) => w.stat) = some (.swapping st)

theorem State.swaps_updGang {s : State} {gid : Nat} {F : Gang → Gang} (h : s.swaps gid) (hF : ∀ g, (F g).wid = g.wid) :
    (s.updGang gid F).swaps gid := by
  obtain ⟨g, st, hg, hst⟩ := h
  refine ⟨F g, st, by rw [State.gang?_updGang, if_pos rfl, hg, Option.map_some], ?_⟩
  rw [← hst]
  unfold State.wgOf
  rw [State.wgs_updGang, hF]

/-- Such a gang has no image yet that a field could be written to. -/
theorem State.pokeImg_swaps {s : State} {gid : Nat} (h : s.swaps gid) (off n v : Nat) : s.pokeImg gid off n v = s := by
  obtain ⟨g, st, hg, hst⟩ := h
  unfold State.pokeImg
  rw [hg]
  dsimp only
  rw [hst]

theorem State.setPristat_swaps {s : State} {gid : Nat} (h : s.swaps gid) (v : Nat) :
    s.setPristat gid v = s.updGang gid fun x => { x with pristat := BitVec.ofNat 32 v } := by
  have hp := State.pokeImg_swaps (s.swaps_updGang (F := fun x => { x with pristat := BitVec.ofNat 32 v }) h fun _ => rfl)
  obtain ⟨g, st, hg, hst⟩ := h
  unfold State.setPristat
  rw [hg]
  exact hp _ _ _

/-- A gang whose PAGEFAULT is cleared. -/
def Gang.unfaulted (g : Gang) : Gang := { g with cause := g.cause &&& ~~~(BitVec.ofNat 64 cPAGEFAULT) }

theorem State.clearFault_swaps {s : State} {gid : Nat} (h : s.swaps gid) :
    s.clearFault gid = s.updGang gid Gang.unfaulted := by
  have hp := State.pokeImg_swaps (s.swaps_updGang (F := Gang.unfaulted) h fun _ => rfl)
  obtain ⟨g, st, hg, hst⟩ := h
  unfold State.clearFault
  rw [hg]
  exact hp _ _ _

/-- A gang with the host's answer kept for its return. -/
def Gang.answered (g : Gang) (outcome : Nat) : Gang :=
  { g with pristat := BitVec.ofNat 32 outcome, esc := 2 + outcome,
           cause := if outcome = 1 then g.cause &&& ~~~(BitVec.ofNat 64 cPAGEFAULT) else g.cause }

theorem State.answer_swaps {s : State} {gid : Nat} (h : s.swaps gid) (outcome : Nat) :
    s.answer gid outcome = s.updGang gid (·.answered outcome) := by
  have hset : ((if outcome = 1 then s.clearFault gid else s).setPristat gid outcome).updGang gid (fun x => { x with esc := 2 + outcome }) =
      s.updGang gid (·.answered outcome) := by
    by_cases ho : outcome = 1
    · rw [if_pos ho, State.clearFault_swaps h, State.setPristat_swaps (State.swaps_updGang (F := Gang.unfaulted) h fun _ => rfl),
        State.updGang_updGang, State.updGang_updGang]
      simp only [Gang.answered, Gang.unfaulted, if_pos ho]
    · rw [if_neg ho, State.setPristat_swaps h, State.updGang_updGang]
      simp only [Gang.answered, if_neg ho]
  obtain ⟨g, st, hg, hst⟩ := h
  unfold State.answer
  rw [hg]
  dsimp only
  rw [hst, hset]

/-- The index is free again, and outcome 3 ends the host's service. -/
def State.priTaken (s : State) (index outcome : Nat) : State := { s with pri := s.pri.del index, priOff := s.priOff || outcome == 3 }

/-- A state whose page requests are those with the index taken. -/
theorem State.priTaken_reads {s t : State} {index outcome : Nat} (h : t.pris = (s.priTaken index outcome).pris) :
    t.pri.find? index = none ∧ (∀ j, j ≠ index → t.pri.find? j = s.pri.find? j) ∧
    (t.priOff = true ↔ s.priOff = true ∨ outcome = 3) := by
  obtain ⟨hpri, hoff⟩ := Prod.mk.inj h
  rw [hpri, hoff]
  refine ⟨(Tab.find?_del _ _ _).trans (if_pos rfl), fun j hj => (Tab.find?_del _ _ _).trans (if_neg hj), ?_⟩
  simp [State.priTaken]

/-- What an answer of the host comes to: an answer that no gang awaits frees the index alone; a parked gang and one that is not are told. -/
theorem pageRequestResponse_eq {s : State} {index outcome gid live : Nat} (hpri : s.pri.find? index = some (gid, live))
    (h1 : 1 ≤ outcome) (h3 : outcome ≤ 3) : exec (.pageRequestResponse index outcome) s =
      match s.gang? gid with
      | none => runEv s (s.priTaken index outcome)
      | some g =>
        if live = 0 ∨ g.esc ≠ 1 then runEv s (s.priTaken index outcome)
        else if (s.wgOf g).any s.parks then
          runEv s ((if outcome = 1 then ((s.priTaken index outcome).wgOf g).elim (s.priTaken index outcome)
            ((s.priTaken index outcome).freshen g.wid) else s.priTaken index outcome).setPristat gid outcome)
        else runEv s ((s.priTaken index outcome).answer gid outcome) := by
  show execPageRequestResponse index outcome s = _
  unfold execPageRequestResponse
  rw [hpri]
  dsimp only
  rw [if_neg (by omega)]
  rfl

theorem pageRequestResponseResult : Says.PageRequestResponseResult := by
  intro s index outcome gid live hj hpri h1 h3
  have hexec := pageRequestResponse_eq hpri h1 h3
  have hquiet : runEv s (s.priTaken index outcome) = .next (s.priTaken index outcome) := runEv_quiet hj rfl
  obtain ⟨hfree, hothers, hoff⟩ := State.priTaken_reads (s := s) (t := s.priTaken index outcome) (index := index) (outcome := outcome) rfl
  cases hg : s.gang? gid with
  | none =>
    rw [hg] at hexec
    exact ⟨_, hexec.trans hquiet, hfree, hothers, hoff, fun _ => rfl, fun g w st _ hg' => by cases hg'⟩
  | some g =>
    rw [hg] at hexec
    dsimp only at hexec
    split at hexec
    · next hno =>
      refine ⟨_, hexec.trans hquiet, hfree, hothers, hoff, fun _ => rfl, fun g' w st hlive hg' hesc => ?_⟩
      cases hg'
      exact absurd hno (not_or.mpr ⟨hlive, not_not_intro hesc⟩)
    · next hawaited =>
      have hlive : live ≠ 0 := (not_or.mp hawaited).1
      split at hexec
      · next hparks =>
        obtain ⟨t, ht, hpris⟩ := runEv_pris s ((if outcome = 1 then ((s.priTaken index outcome).wgOf g).elim (s.priTaken index outcome)
            ((s.priTaken index outcome).freshen g.wid) else s.priTaken index outcome).setPristat gid outcome)
        have hpris' : t.pris = (s.priTaken index outcome).pris := by
          refine (hpris.trans (State.pris_setPristat _ _ _)).trans (ite_pris _ ?_ rfl)
          cases (s.priTaken index outcome).wgOf g <;> rfl
        obtain ⟨hfree, hothers, hoff⟩ := State.priTaken_reads hpris'
        refine ⟨t, hexec.trans ht, hfree, hothers, hoff, fun h => absurd h hlive, fun g' w st _ hg' _ hw _ hnot => ?_⟩
        cases hg'
        rw [hw, Option.any_some, hnot] at hparks
        cases hparks
      · obtain ⟨t, ht, hpris⟩ := runEv_pris s ((s.priTaken index outcome).answer gid outcome)
        obtain ⟨hfree, hothers, hoff⟩ := State.priTaken_reads (hpris.trans (State.pris_answer _ _ _))
        refine ⟨t, hexec.trans ht, hfree, hothers, hoff, fun h => absurd h hlive, fun g' w st _ hg' _ hw hstat _ => ?_⟩
        cases hg'
        have hswaps : (s.priTaken index outcome).swaps gid :=
          ⟨g, st, hg, by show (s.wgOf g).map _ = _; rw [hw, Option.map_some, hstat]⟩
        rw [State.answer_swaps hswaps] at ht
        have hnext : runEv s ((s.priTaken index outcome).updGang gid (·.answered outcome)) =
            .next ((s.priTaken index outcome).updGang gid (·.answered outcome)) := runEv_quiet hj rfl
        obtain rfl : (s.priTaken index outcome).updGang gid (·.answered outcome) = t := by
          rw [hnext] at ht
          injection ht
        refine ⟨g.answered outcome, ?_, rfl, rfl⟩
        rw [State.gang?_updGang, if_pos rfl]
        show (s.gang? gid).map _ = _
        rw [hg, Option.map_some]

/-- Settles O57: one clause for each event, proved above from what the event's function does. -/
theorem fragmentEvents : Obligations.FragmentEvents :=
  ⟨regangCheckResult, regangReleaseResult, waitersSettled, issueSelectResult, registerCacheFillResult, haltReachResult,
    asyncCauseTakeResult, monitorFireGang, monitorFireCtx, mwaitTimeoutGang, mwaitTimeoutCtx, sleepExpireResult, queueUnblockResult,
    cbwaitReleaseResult, pixlkReleaseResult, cohortPhaseCompleteResult, nrallocGrantResult, pageRequestResponseResult,
    atsTranslationCompletionResult, atsInvalidateResult, migrationHoldExpireResult, fabricHoldTimeoutResult⟩

end Sys2Proof.Machine
end

section
/-!
PROOF. A dispatch round can wake a workgroup that it does not place: it writes the STATE byte of each gang's image (05 R144), and a workgroup
on its way out whose wake table holds the line of that byte is seen (03 R81). So the clause of placing that keeps every other workgroup as it
was fails.
-/
open Sys2Proof Sys2Proof.Machine
namespace Sys2Proof.Machine

/-! ### What an event wakes -/

/-- A workgroup whose wake table holds a line that the event wrote to is noted as woken. -/
theorem runEv_wakes {s t : State} {wid line : Nat} {w : Wg} (hw : t.wgs.find? wid = some w) (hline : w.wakes.any (·.1 == line) = true)
    (hhit : t.journal.any (·.hits line) = true) : ∃ u, runEv s t = .next u ∧ u.wgs.find? wid = some { w with woken := true } := by
  have hsome : t.journal.isEmpty = false := by
    cases hj : t.journal with
    | nil => rw [hj] at hhit; cases hhit
    | cons => rfl
  have hwakes : w.wakes.any (fun e => t.journal.any fun x => x.hits e.1) = true := by
    obtain ⟨e, he, hel⟩ := List.any_eq_true.mp hline
    exact List.any_eq_true.mpr ⟨e, he, by rw [eq_of_beq hel]; exact hhit⟩
  refine ⟨_, rfl, ?_⟩
  unfold afterWrites
  rw [hsome]
  refine (Tab.find?_map (fun _ (x : Wg) => if x.wakes.any (fun e => t.journal.any fun y => y.hits e.1) then { x with woken := true } else x)
    t.wgs wid).trans ?_
  rw [hw, Option.map_some, if_pos hwakes]

/-- With every workgroup on its cores none comes back in a round, so that the event is the round alone. -/
theorem dispatchRound_of_onChip {s : State} {part : Nat} (hpart : part < 8) (hon : ∀ x ∈ s.wgs, x.2.onChip = true) :
    exec (.dispatchRound part) s = runEv s (s.dispatchRound part) := by
  have hback : (s.wgs.filter fun e => !e.2.onChip && ((s.dispatchRound part).wgs.find? e.1).any Wg.onChip) = [] :=
    List.filter_eq_nil_iff.mpr fun e he => by simp [hon e he]
  show execDispatchRound part s = _
  unfold execDispatchRound
  rw [if_neg (Nat.not_le.mpr hpart)]
  dsimp only
  rw [hback]
  rfl

/-! ### A workgroup that watches the next image -/

/-- A launch of two workgroups of one gang. -/
def pairGrid : Grid := { seatGrid with lr := { seatLaunch with gx := 2 }, count := 2 }

/-- Where partition 0 keeps its images, and what one workgroup of the launch takes of them. -/
def pairImages : Nat := 0x10000000
def pairNeed : Need := needOf pairGrid.lr pairGrid.kh

/-- The line of the STATE byte of the second workgroup's image, which stands behind the first one's. -/
def nextStateLine : Nat := (pairImages + pairNeed.image + 13) / 128

/-- The first workgroup on its way out by wait-swap, its gang's monitor in the wake table with that line. -/
def watchingWg : Wg :=
  { seatWg 0 2 0 with stat := .swapping 2, wakes := [(nextStateLine, 2 ^ 70 + 2)], image := pairImages, imageLen := pairNeed.image }

/-- Its gang, with the monitor armed. -/
def watchingGang : Gang :=
  { startGang pairGrid 1 0 0 0 0 pairImages 3 0 (fun _ => 0) 0 with
    mon := { line := nextStateLine, va := 128 * nextStateLine, armed := true, fired := false } }

/-- The launch's entry in dispatch, for its second workgroup. -/
def pairEntry : Entry :=
  { id := 4, part := 0, grid := 0, wid := none, base := 0, eff := 0, rounds := 0, victim := none, room := [] }

/-- The machine with the first workgroup on core 0 and the second one waiting for a place. -/
def watchingState : State :=
  { State.reset with
    parts := State.reset.parts.set 0 { PartBlk.reset with imgbase := BitVec.ofNat 64 pairImages, imgsize := 0x1000000, pen := 1 },
    grids := [(0, pairGrid)], wgs := [(1, watchingWg)], gangs := [(2, watchingGang)], entries := [pairEntry],
    images := [(0, pairImages, pairNeed.image)], nextId := 5 }

/-- The same with its entries aged, as the round first does. -/
def watchingAged : State := { watchingState with entries := ageEntries 0 watchingState.entries }

/-- The wake-table entry is the one that a wait-swap of the workgroup makes there (03 R81). -/
theorem watchingState_wakes : watchingState.wakesOf watchingWg = watchingWg.wakes := by decide +kernel

/-- The round places the second workgroup on core 1, with its image behind the first one's. -/
theorem watchingState_places :
    (roundOrder 0 watchingAged.entries).head? = some pairEntry ∧ watchingAged.placeFor pairEntry none none = some [1] ∧
    watchingAged.needEntry pairEntry = some (pairGrid, pairNeed, 1) ∧
    watchingAged.findImage 0 pairNeed.image = some (pairImages + pairNeed.image) := by
  decide +kernel

/-- The round leaves the first workgroup as it is, and writes to the line that it watches. -/
theorem watchingState_round : (watchingState.dispatchRound 0).wgs.find? 1 = some watchingWg ∧
    (watchingState.dispatchRound 0).journal.any (·.hits nextStateLine) = true := by
  decide +kernel

/-- The event notes the first workgroup as woken. -/
theorem watchingState_woken : ∃ t, exec (.dispatchRound 0) watchingState = .next t ∧
    t.wgs.find? 1 = some { watchingWg with woken := true } := by
  rw [dispatchRound_of_onChip (by decide) (by decide)]
  exact runEv_wakes watchingState_round.1 (line := nextStateLine) (by decide) watchingState_round.2

/-- DISPATCH_ROUND does not leave every other workgroup as it was. -/
theorem not_dispatchPlaces : ¬ Says.DispatchPlaces := by
  intro h
  obtain ⟨hhead, hplace, hneed, himg⟩ := watchingState_places
  obtain ⟨t, w, g', ht, -, -, hothers, -⟩ := h watchingState 0 1 (pairImages + pairNeed.image) pairEntry pairGrid pairNeed [1] rfl (by decide)
    rfl (by decide) hhead rfl rfl hplace hneed himg rfl rfl (by decide)
  obtain ⟨u, hu, hwoken⟩ := watchingState_woken
  obtain rfl : t = u := by
    rw [ht] at hu
    injection hu
  have hsame : some { watchingWg with woken := true } = some watchingWg := hwoken.symm.trans (hothers 1 (by decide))
  exact absurd (congrArg (Option.map Wg.woken) hsame) (by decide)

/-- Refutes O58: the clause on DISPATCH_ROUND keeps every workgroup but the new one, and a workgroup on its way out whose wake table holds
the line of the new image's STATE byte is woken by the round. -/
theorem not_frontEndAndDispatch : ¬ Obligations.FrontEndAndDispatch := by
  intro h
  obtain ⟨-, -, -, -, -, -, -, -, -, -, -, hplaces, -⟩ := h
  exact not_dispatchPlaces hplaces

end Sys2Proof.Machine
end

section
/-!
PROOF. Integer results narrowed to their type (04 R98): wrapped, or clamped to the type's range with the SAT flag.
-/
open Sys2Proof Sys2Proof.Machine
namespace Sys2Proof.Machine

/-- The least number of an integer format. -/
theorem intRange_fst (sg : Bool) (w : Nat) : (intRange sg w).1 = if sg then -((2 ^ (w - 1) : Nat) : Int) else 0 := by
  cases sg <;> rfl

/-- The greatest number of an integer format. -/
theorem intRange_snd (sg : Bool) (w : Nat) :
    (intRange sg w).2 = if sg then ((2 ^ (w - 1) : Nat) : Int) - 1 else (2 ^ w : Nat) - 1 := by
  cases sg <;> rfl

theorem intRange_fst_le_snd (sg : Bool) (w : Nat) : (intRange sg w).1 ≤ (intRange sg w).2 := by
  have hlow : 0 < 2 ^ (w - 1) := Nat.two_pow_pos _
  have hall : 0 < 2 ^ w := Nat.two_pow_pos _
  rw [intRange_fst, intRange_snd]
  split <;> omega

/-- Clamping gives the nearest number of the range. -/
theorem clampInt_fst (sg : Bool) (w : Nat) (x : Int) :
    (clampInt sg w x).1 = max (intRange sg w).1 (min (intRange sg w).2 x) := by
  have hle := intRange_fst_le_snd sg w
  unfold clampInt
  dsimp only
  split
  · omega
  · split <;> omega

/-- Clamping is told exactly of a number outside the range. -/
theorem clampInt_snd (sg : Bool) (w : Nat) (x : Int) :
    (clampInt sg w x).2 = !decide ((intRange sg w).1 ≤ x ∧ x ≤ (intRange sg w).2) := by
  unfold clampInt
  dsimp only
  split
  · simp; omega
  · split <;> simp <;> omega

theorem intResult_saturated (t w : Nat) (r : Int) :
    intResult t w true r = (wrapInt (max (intRange (tySigned t) w).1 (min (intRange (tySigned t) w).2 r)) w,
      if (intRange (tySigned t) w).1 ≤ r ∧ r ≤ (intRange (tySigned t) w).2 then 0 else fSAT) := by
  unfold intResult
  rw [if_pos rfl]
  dsimp only
  rw [clampInt_fst, clampInt_snd]
  by_cases hin : (intRange (tySigned t) w).1 ≤ r ∧ r ≤ (intRange (tySigned t) w).2 <;> simp [hin]

/-- Settles O9: the clamp is to the range that `intRange` gives of the type. -/
theorem integerNarrowing : Obligations.IntegerNarrowing := by
  intro t r _
  dsimp only
  rw [← intRange_fst, ← intRange_snd, intResult_saturated]
  exact ⟨rfl, rfl, rfl⟩

end Sys2Proof.Machine
end

section
/-!
PROOF. What a bundle's results do as they are written (11 R309, R311): queue words taken, flags recorded, registers or a queue written, for
every operation that gives a result.
-/
open Sys2Proof Sys2Proof.Machine
namespace Sys2Proof.Machine

/-! ### Queues of a gang -/

theorem Gang.queue_setWords (g : Gang) (n j : Nat) (ws : List W32) (d : Queue) :
    (g.setWords n ws).q.getD j d =
      if n = j ∧ n < 16 then { bind := (g.q.getD n { bind := 0, words := [] }).bind, words := ws } else g.q.getD j d := by
  simp only [Gang.setWords, Vector.getD, Array.getD_eq_getD_getElem?, Vector.getElem?_toArray, Vector.getElem?_setIfInBounds]
  by_cases h : n = j
  · subst h
    by_cases hn : n < 16 <;> simp [hn]
  · simp [h]

@[simp] theorem Gang.port_setWords (g : Gang) (n j : Nat) (ws : List W32) : (g.setWords n ws).port j = g.port j := by
  unfold Gang.port
  rw [Gang.queue_setWords]
  split
  · next h => rw [h.1]
  · rfl

theorem Gang.qwords_setWords (g : Gang) {n : Nat} (hn : n < 16) (j : Nat) (ws : List W32) :
    (g.setWords n ws).qwords j = if n = j then ws else g.qwords j := by
  unfold Gang.qwords
  rw [Gang.queue_setWords]
  by_cases h : n = j
  · subst h; simp [hn]
  · simp [h]

theorem Gang.length_qwords_drop (g : Gang) (n k j : Nat) :
    ((g.setWords n ((g.qwords n).drop k)).qwords j).length ≤ (g.qwords j).length := by
  unfold Gang.qwords
  rw [Gang.queue_setWords]
  split
  · next h => rw [h.1, List.length_drop]; exact Nat.sub_le _ _
  · exact Nat.le_refl _

/-- Words taken from queues change a gang's queues alone. -/
theorem popAll_eq (g : Gang) (k : Nat) (qs : List Nat) : (popAll g k qs).2 = { g with q := (popAll g k qs).2.q } := by
  induction qs generalizing g with
  | nil => rfl
  | cons n rest ih => exact (ih (g.setWords n ((g.qwords n).drop k))).trans rfl

/-- They leave the bindings, and no queue longer than it was. -/
theorem popAll_queues (g : Gang) (k : Nat) (qs : List Nat) (j : Nat) :
    (popAll g k qs).2.port j = g.port j ∧ ((popAll g k qs).2.qwords j).length ≤ (g.qwords j).length := by
  induction qs generalizing g with
  | nil => exact ⟨rfl, Nat.le_refl _⟩
  | cons n rest ih =>
    obtain ⟨hport, hlen⟩ := ih (g.setWords n ((g.qwords n).drop k))
    exact ⟨hport.trans (g.port_setWords n j _), Nat.le_trans hlen (g.length_qwords_drop n k j)⟩

theorem takePops_gang {s : State} {is : Issue} {gid fid : Nat} {g : Gang} (hag : is.ag = .gang gid fid) (hg : s.gang? gid = some g)
    (sh : Shape) (o : Opw) :
    ∃ g1, (takePops s is sh o).2.gang? gid = some g1 ∧ g1 = { g with q := g1.q } ∧
      ∀ j, g1.port j = g.port j ∧ (g1.qwords j).length ≤ (g.qwords j).length := by
  unfold takePops State.withPops
  simp only [hag, hg, State.gang?_updGang, if_true, Option.map_some]
  exact ⟨_, rfl, popAll_eq g _ _, popAll_queues g _ _⟩

@[simp] theorem fpctlOf_takePops (s : State) (is : Issue) (sh : Shape) (o : Opw) :
    (takePops s is sh o).2.fpctlOf is.ag = s.fpctlOf is.ag := by
  cases hag : is.ag with
  | ctx n => rfl
  | gang gid fid =>
    cases hg : s.gang? gid with
    | none => simp only [takePops, State.withPops, State.fpctlOf, hag, hg]
    | some g =>
      obtain ⟨g1, hg1, heq, -⟩ := takePops_gang hag hg sh o
      simp only [State.fpctlOf, hg, hg1, Option.map_some]
      rw [heq]

/-! ### Flags recorded -/

theorem gang?_orFlags {s : State} {gid : Nat} {g : Gang} (hg : s.gang? gid = some g) (fid flags : Nat) :
    (s.orFlags (.gang gid fid) flags).gang? gid = some { g with fpstat := g.fpstat ||| BitVec.ofNat 32 flags } := by
  simp only [State.orFlags, State.gang?_updGang, if_true, hg, Option.map_some]

theorem orFlags_othersKept (s : State) (ag : Agent) (flags : Nat) : OthersKept ag s (s.orFlags ag flags) := by
  cases ag with
  | ctx n => exact ⟨fun _ _ => rfl, fun _ _ => rfl⟩
  | gang gid fid =>
    refine ⟨fun j hj => ?_, fun _ _ => rfl⟩
    simp only [ofGang] at hj
    simp [State.orFlags, Ne.symm hj]

theorem flights_orFlags (s : State) (ag : Agent) (flags : Nat) : (s.orFlags ag flags).flights = s.flights := by
  cases ag <;> rfl

theorem Tab.upd_id {α : Type} {f : α → α} (hf : ∀ x, f x = x) (t : Tab α) (k : Nat) : Tab.upd f t k = t := by
  induction t with
  | nil => rfl
  | cons e t ih => simp only [Tab.upd, hf, ih, ite_self]

/-- No flag recorded changes nothing. -/
@[simp] theorem orFlags_zero (s : State) (ag : Agent) : s.orFlags ag 0 = s := by
  cases ag with
  | ctx n => rfl
  | gang gid fid =>
    unfold State.orFlags State.updGang
    dsimp only
    rw [Tab.upd_id (fun g => by simp)]

/-- The end of an operation none of whose flags, given per lane, traps. -/
theorem commit_of_quiet {s t : State} {is : Issue} {scalar : Bool} {gm : LaneMask} {lat : Nat} {lanes : List Nat} {fl : Nat → Nat}
    {ws : List Wr} (h : trapsOf (s.fpctlOf is.ag) (lanes.foldl (fun a l => a ||| fl l) 0) = 0) :
    commit s t is scalar gm lat (lanes.map fun l => (l, fl l)) ws =
      writeAll (t.orFlags is.ag (lanes.foldl (fun a l => a ||| fl l) 0)) is lat ws := by
  unfold commit
  dsimp only
  rw [List.foldl_map, if_neg (by simp [h])]
  split
  · next h0 => rw [h0, orFlags_zero]
  · rfl

/-- The end of an operation with a flag that traps. -/
theorem commit_of_trap {s t : State} {is : Issue} {scalar : Bool} {gm : LaneMask} {lat : Nat} {lanes : List Nat} {fl : Nat → Nat}
    {ws : List Wr} (h : trapsOf (s.fpctlOf is.ag) (lanes.foldl (fun a l => a ||| fl l) 0) ≠ 0) :
    ∃ ti : TrapInfo, ti.causes = trapsOf (s.fpctlOf is.ag) (lanes.foldl (fun a l => a ||| fl l) 0) ∧
      commit s t is scalar gm lat (lanes.map fun l => (l, fl l)) ws =
        (s.orFlags is.ag (lanes.foldl (fun a l => a ||| fl l) 0)).takeCause is.ag .fault ti := by
  unfold commit
  dsimp only
  rw [List.foldl_map]
  exact ⟨_, rfl, if_pos h⟩

/-! ### Registers written -/

theorem NSet.has_era {k j : Nat} (h : j ≠ k) (s : NSet) : (s.era k).has j = s.has j := by
  rw [Bool.eq_iff_iff]
  simp [NSet.has, NSet.era, h]

theorem vKey_inj {k l r m : Nat} (hl : l < 1024) (hm : m < 1024) (h : vKey k l = vKey r m) : k = r ∧ l = m := by
  unfold vKey at h
  omega

/-- A lane's V register that no write names stays as poisoned as it was. -/
theorem Gang.has_vbad_put {ws : List Wr} {r l : Nat} (hl : l < 1024)
    (hws : ∀ w ∈ ws, ∃ k vals, w = .v k vals ∧ ∀ e ∈ vals, e.1 < 1024 ∧ ¬ (k = r ∧ e.1 = l)) (g : Gang) :
    (ws.foldl Gang.put g).vbad.has (vKey r l) = g.vbad.has (vKey r l) := by
  have one : ∀ (k : Nat) (vals : Tab W32) (b : NSet), (∀ e ∈ vals, e.1 < 1024 ∧ ¬ (k = r ∧ e.1 = l)) →
      (vals.foldl (fun b e => NSet.era b (vKey k e.1)) b).has (vKey r l) = b.has (vKey r l) := by
    intro k vals
    induction vals with
    | nil => exact fun _ _ => rfl
    | cons e t ih =>
      intro b h
      obtain ⟨hlt, hne⟩ := h e (by simp)
      rw [List.foldl_cons, ih _ fun x hx => h x (by simp [hx]),
        NSet.has_era fun he => hne ((vKey_inj hl hlt he).imp Eq.symm Eq.symm)]
  induction ws generalizing g with
  | nil => rfl
  | cons w ws ih =>
    obtain ⟨k, vals, rfl, hv⟩ := hws w (by simp)
    rw [List.foldl_cons, ih (fun x hx => hws x (by simp [hx])), Gang.put, Gang.wrVs_eq]
    exact one k vals g.vbad hv

/-- A gang with a result: `g'` is `g` but for `n` words of `val` in the registers that a destination names, in the lanes given. -/
structure Gang.HasResult (g g' : Gang) (dst : BitVec 10) (n : Nat) (lanes : List Nat) (val : Nat → Nat) : Prop where
  frame : { g' with v := g.v, s := g.s, h := g.h, vbad := g.vbad } = g
  inV : ∀ k, opnd dst = .v k → ∀ l ∈ lanes, ∀ i < n, g'.rdV (k + i) l = wordOf (val l) i
  inS : ∀ k, opnd dst = .s k → ∀ l, lanes.head? = some l → ∀ i < n, Tab.get 0 g'.s (k + i) = wordOf (val l) i
  inH : ∀ k, opnd dst = .h k → ∀ l, lanes.head? = some l → Tab.get 0 g'.h k = wordOf (val l) 0
  keptV : ∀ k l, l < 1024 → ¬ (inDst (opnd dst) .v n k ∧ l ∈ lanes) →
    g'.rdV k l = g.rdV k l ∧ g'.vbad.has (vKey k l) = g.vbad.has (vKey k l)
  keptS : ∀ k, ¬ inDst (opnd dst) .s n k → Tab.get 0 g'.s k = Tab.get 0 g.s k
  keptH : ∀ k, ¬ inDst (opnd dst) .h 1 k → Tab.get 0 g'.h k = Tab.get 0 g.h k

/-- No register changes where a destination names none, or no lane acts. -/
theorem Gang.HasResult.refl {dst : BitVec 10} {n : Nat} {lanes : List Nat} {val : Nat → Nat} (g : Gang)
    (hv : ∀ k, opnd dst ≠ .v k) (hnone : ∀ k l, (opnd dst = .s k ∨ opnd dst = .h k) → lanes.head? ≠ some l) :
    g.HasResult g dst n lanes val where
  frame := rfl
  inV k hd := absurd hd (hv k)
  inS k hd l hl := absurd hl (hnone k l (.inl hd))
  inH k hd l hl := absurd hl (hnone k l (.inr hd))
  keptV _ _ _ _ := ⟨rfl, rfl⟩
  keptS _ _ := rfl
  keptH _ _ := rfl

section
variable {o : Opw} {n : Nat} {lanes : List Nat} {val : Nat → Nat} {k : Nat}

theorem dstWrites_v (hd : opnd o.dst = .v k) : dstWrites o n (lanes.map fun l => (l, val l)) =
    (List.range n).map fun i => .v (k + i) ((lanes.map fun l => (l, val l)).map fun e => (e.1, wordOf e.2 i)) := by
  simp only [dstWrites, hd, wordOf]

theorem dstWrites_s {l : Nat} (hd : opnd o.dst = .s k) (hl : lanes.head? = some l) :
    dstWrites o n (lanes.map fun l => (l, val l)) = (List.range n).map fun i => .s (k + i) (wordOf (val l) i) := by
  simp only [dstWrites, hd, List.head?_map, hl, Option.map_some, wordOf]

theorem dstWrites_h {l : Nat} (hd : opnd o.dst = .h k) (hl : lanes.head? = some l) :
    dstWrites o n (lanes.map fun l => (l, val l)) = [.h k (wordOf (val l) 0)] := by
  simp only [dstWrites, hd, List.head?_map, hl, Option.map_some, wordOf]

theorem dstWrites_q {l : Nat} (hd : opnd o.dst = .q k) (hl : lanes.head? = some l) :
    dstWrites o n (lanes.map fun l => (l, val l)) = [.q k [wordOf (val l) 0]] := by
  simp only [dstWrites, hd, List.head?_map, hl, Option.map_some, wordOf]

/-- A destination that is one for the fragment is not written where no lane acts. -/
theorem dstWrites_no_lane (hv : ∀ k, opnd o.dst ≠ .v k) : dstWrites o n (([] : List Nat).map fun l => (l, val l)) = [] := by
  unfold dstWrites
  cases hd : opnd o.dst with
  | v k => exact absurd hd (hv k)
  | _ => rfl

/-- A destination that is no register or queue is not written. -/
theorem dstWrites_no_reg (vals : Tab Nat) (hv : ∀ k, opnd o.dst ≠ .v k) (hs : ∀ k, opnd o.dst ≠ .s k) (hh : ∀ k, opnd o.dst ≠ .h k)
    (hq : ∀ k, opnd o.dst ≠ .q k) : dstWrites o n vals = [] := by
  unfold dstWrites
  cases hd : opnd o.dst with
  | v k => exact absurd hd (hv k)
  | s k => exact absurd hd (hs k)
  | h k => exact absurd hd (hh k)
  | q k => exact absurd hd (hq k)
  | _ => rfl

/-- The writes that a result can make. -/
theorem mem_dstWrites {vals : Tab Nat} {w : Wr} (hw : w ∈ dstWrites o n vals) :
    (∃ k xs, w = .v k xs) ∨ (∃ k x b, w = .s k x ∧ opnd o.dst = .s b ∧ vals ≠ []) ∨ (∃ k x, w = .h k x) ∨ ∃ k xs, w = .q k xs := by
  unfold dstWrites at hw
  cases hd : opnd o.dst <;> rw [hd] at hw <;> dsimp only at hw
  case v k =>
    obtain ⟨i, -, rfl⟩ := List.mem_map.mp hw
    exact .inl ⟨_, _, rfl⟩
  case s k =>
    cases vals with
    | nil => cases hw
    | cons e t =>
      obtain ⟨i, -, rfl⟩ := List.mem_map.mp hw
      exact .inr (.inl ⟨_, _, k, rfl, rfl, List.cons_ne_nil e t⟩)
  case h k =>
    cases vals with
    | nil => cases hw
    | cons e t => exact .inr (.inr (.inl ⟨_, _, List.mem_singleton.mp hw⟩))
  case q k =>
    cases vals with
    | nil => cases hw
    | cons e t => exact .inr (.inr (.inr ⟨_, _, List.mem_singleton.mp hw⟩))
  all_goals cases hw

theorem dstWrites_plain (vals : Tab Nat) : ∀ w ∈ dstWrites o n vals, w.plain = true := by
  intro w hw
  obtain ⟨_, _, rfl⟩ | ⟨_, _, _, rfl, -⟩ | ⟨_, _, rfl⟩ | ⟨_, _, rfl⟩ := mem_dstWrites hw <;> rfl

variable (hlt : ∀ l ∈ lanes, l < 1024) (hnd : lanes.Nodup)
include hlt hnd

theorem Gang.hasResult_v (g : Gang) (hd : opnd o.dst = .v k) :
    g.HasResult ((dstWrites o n (lanes.map fun l => (l, val l))).foldl Gang.put g) o.dst n lanes val := by
  rw [dstWrites_v hd]
  have hin : ∀ r, inDst (opnd o.dst) .v n r ↔ k ≤ r ∧ r < k + n := fun r => by simp [inDst, hd]
  have hrest := put_v_rest g ((List.range n).map fun i => .v (k + i) ((lanes.map fun l => (l, val l)).map fun e => (e.1, wordOf e.2 i)))
    fun w hw => by obtain ⟨i, -, rfl⟩ := List.mem_map.mp hw; exact ⟨_, _, rfl⟩
  refine ⟨by rw [hrest], fun j hj l hl i hi => ?_, by simp [hd], by simp [hd], fun r l hl hout => ⟨?_, ?_⟩,
    fun r _ => by rw [hrest], fun r _ => by rw [hrest]⟩
  · obtain rfl : k = j := by rw [hd] at hj; injection hj
    rw [rdV_put g k n lanes val hlt hnd _ l (hlt l hl), if_pos ⟨by omega, by omega, hl⟩, Nat.add_sub_cancel_left]
  · rw [rdV_put g k n lanes val hlt hnd r l hl, if_neg fun h => hout ⟨(hin r).mpr ⟨h.1, h.2.1⟩, h.2.2⟩]
  · refine Gang.has_vbad_put hl (fun w hw => ?_) g
    obtain ⟨i, hi, rfl⟩ := List.mem_map.mp hw
    refine ⟨_, _, rfl, fun e he => ?_⟩
    simp only [List.map_map, List.mem_map, Function.comp_apply] at he
    obtain ⟨j, hj, rfl⟩ := he
    refine ⟨hlt j hj, fun ⟨hr, hjl⟩ => hout ⟨(hin r).mpr ?_, hjl ▸ hj⟩⟩
    have := List.mem_range.mp hi
    omega

omit hlt hnd

theorem Gang.hasResult_s (g : Gang) {l : Nat} (hd : opnd o.dst = .s k) (hl : lanes.head? = some l) :
    g.HasResult ((dstWrites o n (lanes.map fun l => (l, val l))).foldl Gang.put g) o.dst n lanes val := by
  rw [dstWrites_s hd hl, put_s]
  have hin : ∀ r, inDst (opnd o.dst) .s n r ↔ k ≤ r ∧ r < k + n := fun r => by simp [inDst, hd]
  refine ⟨rfl, by simp [hd], fun j hj m hm i hi => ?_, by simp [hd], fun _ _ _ _ => ⟨rfl, rfl⟩, fun r hr => ?_, fun _ _ => rfl⟩
  · obtain rfl : k = j := by rw [hd] at hj; injection hj
    obtain rfl : l = m := by rw [hl] at hm; injection hm
    rw [get_sets, if_pos ⟨by omega, by omega⟩, Nat.add_sub_cancel_left]
  · rw [get_sets, if_neg fun h => hr ((hin r).mpr h)]

theorem Gang.hasResult_h (g : Gang) {l : Nat} (hd : opnd o.dst = .h k) (hl : lanes.head? = some l) :
    g.HasResult ((dstWrites o n (lanes.map fun l => (l, val l))).foldl Gang.put g) o.dst n lanes val := by
  rw [dstWrites_h hd hl]
  refine ⟨rfl, by simp [hd], by simp [hd], fun j hj m hm => ?_, fun _ _ _ _ => ⟨rfl, rfl⟩, fun _ _ => rfl, fun r hr => ?_⟩
  · obtain rfl : k = j := by rw [hd] at hj; injection hj
    obtain rfl : l = m := by rw [hl] at hm; injection hm
    exact Tab.get_set_same 0 g.h k _
  · refine (Tab.get_set 0 g.h k r _).trans (if_neg fun h => hr ⟨k, hd, ?_, ?_⟩) <;> omega

include hlt hnd

/-- What the writes of a result leave in a gang, for every destination but a queue. -/
theorem Gang.hasResult_dstWrites (g : Gang) (hq : ∀ k, opnd o.dst ≠ .q k) :
    g.HasResult ((dstWrites o n (lanes.map fun l => (l, val l))).foldl Gang.put g) o.dst n lanes val := by
  cases hd : opnd o.dst with
  | v k => exact g.hasResult_v hlt hnd hd
  | q k => exact absurd hd (hq k)
  | s k =>
    cases lanes with
    | nil => rw [dstWrites_no_lane (by simp [hd])]; exact .refl g (by simp [hd]) (by simp)
    | cons l t => exact g.hasResult_s hd rfl
  | h k =>
    cases lanes with
    | nil => rw [dstWrites_no_lane (by simp [hd])]; exact .refl g (by simp [hd]) (by simp)
    | cons l t => exact g.hasResult_h hd rfl
  | _ =>
    rw [dstWrites_no_reg _ (by simp [hd]) (by simp [hd]) (by simp [hd]) (by simp [hd])]
    exact .refl g (by simp [hd]) (by simp [hd])

end

/-- The writes of a result change S registers of a context alone: those that the destination names. -/
theorem Ctx.put_dstWrites (c : Ctx) (o : Opw) (n : Nat) (lanes : List Nat) (val : Nat → Nat) :
    let c' := (dstWrites o n (lanes.map fun l => (l, val l))).foldl Ctx.put c
    { c' with s := c.s } = c ∧
      (∀ k, opnd o.dst = .s k → ∀ l, lanes.head? = some l → ∀ i < n, Tab.get 0 c'.s (k + i) = wordOf (val l) i) ∧
      ∀ k, ¬ inDst (opnd o.dst) .s n k → Tab.get 0 c'.s k = Tab.get 0 c.s k := by
  dsimp only
  have same : ∀ ws : List Wr, (∀ w ∈ ws, ∀ x : Ctx, x.put w = x) → ws.foldl Ctx.put c = c := fun ws hws => by
    induction ws with
    | nil => rfl
    | cons w ws ih => rw [List.foldl_cons, hws w (by simp)]; exact ih fun x hx => hws x (by simp [hx])
  by_cases hs : ∃ k l, opnd o.dst = .s k ∧ lanes.head? = some l
  · obtain ⟨k, l, hd, hl⟩ := hs
    rw [dstWrites_s hd hl, put_s_ctx]
    refine ⟨rfl, fun j hj m hm i hi => ?_, fun r hr => ?_⟩
    · obtain rfl : k = j := by rw [hd] at hj; injection hj
      obtain rfl : l = m := by rw [hl] at hm; injection hm
      rw [get_sets, if_pos ⟨by omega, by omega⟩, Nat.add_sub_cancel_left]
    · rw [get_sets, if_neg fun h => hr ⟨k, hd, h⟩]
  · rw [same]
    · exact ⟨rfl, fun k hd l hl => absurd ⟨k, l, hd, hl⟩ hs, fun _ _ => rfl⟩
    · intro w hw x
      obtain ⟨_, _, rfl⟩ | ⟨_, _, k, rfl, hd, hne⟩ | ⟨_, _, rfl⟩ | ⟨_, _, rfl⟩ := mem_dstWrites hw
      · rfl
      · cases lanes with
        | nil => exact absurd rfl hne
        | cons l t => exact absurd ⟨k, l, hd, rfl⟩ hs
      · rfl
      · rfl

/-! ### A result in the state -/

section
variable {u : State} {is : Issue} {lat : Nat} {o : Opw} {n : Nat} {lanes : List Nat} {val : Nat → Nat} {flags : Nat}
  (hlt : ∀ l ∈ lanes, l < 1024) (hnd : lanes.Nodup) (hq : ∀ k, opnd o.dst ≠ .q k)
include hlt hnd hq

/-- The state that a result written to registers leaves: the result stands in its destination, and the agent's other registers are as they
were but for the flags. -/
theorem writeResult_agent (hgang : ∀ gid fid, is.ag = .gang gid fid → (u.gang? gid).isSome = true) :
    let t := writeAll (u.orFlags is.ag flags) is lat (dstWrites o n (lanes.map fun l => (l, val l)))
    ResultAt t is.ag o.dst n lanes val ∧ AgentKept u t is.ag o.dst n lanes flags := by
  dsimp only
  cases hag : is.ag with
  | gang gid fid =>
    obtain ⟨g, hg⟩ := Option.isSome_iff_exists.mp (hgang gid fid hag)
    obtain ⟨g', hg', hbare⟩ := writeAll_gang is lat _ _ gid fid hag (dstWrites_plain (o := o) (n := n) (lanes.map fun l => (l, val l))) _
      (gang?_orFlags hg fid flags)
    rw [hag] at *
    have R := Gang.hasResult_dstWrites (o := o) (n := n) (val := val) hlt hnd
      { g with fpstat := g.fpstat ||| BitVec.ofNat 32 flags } hq
    generalize (dstWrites o n (lanes.map fun l => (l, val l))).foldl Gang.put _ = h at hbare R
    have hv : g'.v = h.v := (congrArg Gang.v hbare :)
    have hvbad : g'.vbad = h.vbad := (congrArg Gang.vbad hbare :)
    have hs : g'.s = h.s := (congrArg Gang.s hbare :)
    have hh : g'.h = h.h := (congrArg Gang.h hbare :)
    have hrd : ∀ k l, g'.rdV k l = h.rdV k l := fun k l => by simp only [Gang.rdV, hv]
    constructor
    · unfold ResultAt
      cases hd : opnd o.dst with
      | v k =>
        intro x hx l hl i hi
        obtain rfl : g' = x := by rw [hg'] at hx; injection hx
        rw [hrd, R.inV k hd l hl i hi]
      | s k =>
        intro l hl i hi
        simp only [State.rdS, hg', Option.map_some, Option.getD_some, hs]
        exact R.inS k hd l hl i hi
      | h k =>
        intro x hx l hl
        obtain rfl : g' = x := by rw [hg'] at hx; injection hx
        rw [hh]
        exact R.inH k hd l hl
      | _ => trivial
    · intro x hx
      obtain rfl : g = x := by rw [hg] at hx; injection hx
      refine ⟨g', hg', ?_, fun k l hl hout => ?_, fun k hk => ?_, fun k hk => ?_⟩
      · rw [hbare]
        exact congrArg Gang.bare R.frame
      · rw [hrd, hvbad]
        exact R.keptV k l hl hout
      · rw [hs]; exact R.keptS k hk
      · rw [hh]; exact R.keptH k hk
  | ctx c =>
    have hbare := writeAll_ctx is lat (dstWrites o n (lanes.map fun l => (l, val l))) (u.orFlags is.ag flags) c hag
      (dstWrites_plain _)
    rw [hag] at *
    obtain ⟨hframe, hres, hkept⟩ := Ctx.put_dstWrites (u.ctx c) o n lanes val
    have hctx : (u.orFlags (.ctx c) flags).ctx c = u.ctx c := rfl
    rw [hctx] at hbare
    generalize (dstWrites o n (lanes.map fun l => (l, val l))).foldl Ctx.put _ = h at hbare hframe hres hkept
    have hs := congrArg Ctx.s hbare
    constructor
    · unfold ResultAt
      cases hd : opnd o.dst with
      | s k =>
        intro l hl i hi
        exact (congrArg (Tab.get 0 · (k + i)) hs).trans (hres k hd l hl i hi)
      | _ => trivial
    · refine ⟨?_, fun k hk => ?_⟩
      · rw [hbare]
        exact congrArg Ctx.bare hframe
      · exact (congrArg (Tab.get 0 · k) hs).trans (hkept k hk)

omit hlt hnd hq

end

/-- Results written, with their flags, leave the device, the operations in flight and the other agents. -/
theorem writeResult_kept (u : State) (is : Issue) (lat flags : Nat) (ws : List Wr) :
    (writeAll (u.orFlags is.ag flags) is lat ws).rest = u.rest ∧
      FlightsKept u (writeAll (u.orFlags is.ag flags) is lat ws) ∧ OthersKept is.ag u (writeAll (u.orFlags is.ag flags) is lat ws) := by
  obtain ⟨hrest, hfl, hoth⟩ := writeAll_kept (u.orFlags is.ag flags) is lat ws
  obtain ⟨hgangs, hctxs⟩ := orFlags_othersKept u is.ag flags
  refine ⟨hrest.trans (rest_orFlags u is.ag flags), fun i => ?_, fun j hj => (hoth.1 j hj).trans (hgangs j hj),
    fun j hj => (hoth.2 j hj).trans (hctxs j hj)⟩
  rw [hfl i, flights_orFlags]

end Sys2Proof.Machine
end

section
/-!
PROOF. Operations that reach their effect (11 R309, R310): results written to registers, words pushed to a queue, and the traps of flags.
-/
open Sys2Proof Sys2Proof.Machine
namespace Sys2Proof.Machine

/-! ### Source words taken -/

/-- `u` is `s` but for words taken from the agent's queues. -/
structure PopsOnly (ag : Agent) (s u : State) : Prop where
  rest : u.rest = s.rest
  flights : u.flights = s.flights
  others : OthersKept ag s u
  gang : ∀ gid fid, ag = .gang gid fid → ∀ g, s.gang? gid = some g → ∃ g1, u.gang? gid = some g1 ∧ g1 = { g with q := g1.q } ∧
    ∀ j, g1.port j = g.port j ∧ (g1.qwords j).length ≤ (g.qwords j).length

theorem takePops_popsOnly (s : State) (is : Issue) (sh : Shape) (o : Opw) : PopsOnly is.ag s (takePops s is sh o).2 := by
  obtain ⟨hrest, hflights, hothers⟩ := withPops_facts s is.ag (popCount sh o (s.lanesAg is.ag is.mask).length) (sh.pops o)
  exact ⟨hrest, hflights, hothers, fun _ _ hag _ hg => takePops_gang hag hg sh o⟩

/-! ### The frame of a bundle that reaches its effect -/

/-- A bundle's part that changed gangs, contexts and operations in flight alone ends where it is. -/
theorem runOp_of_rest {s t : State} (hj : s.journal = []) (h : t.rest = s.rest) :
    runOp s t = .next t ∧ DeviceKept s t ∧ MemKept s t := by
  have hmem : t.mem = s.mem := (congrArg State.mem h :)
  have hjt : t.journal = [] := (congrArg State.journal h :).trans hj
  refine ⟨?_, deviceKept_of s t h, memKept_of_mem (hjt.trans hj.symm) hmem⟩
  unfold runOp
  rw [← hmem, ← hjt]

section
variable {i : Instr} {o : Opw} {s : State} {is : Issue} {bad : Issue → Bool} {rd : Issue → List RegId} {more : Issue → Nat}
  {gid fid k : Nat} {g : Gang}

theorem Issues.gang (H : Issues i o s is bad rd more) (hag : is.ag = .gang gid fid) : ∃ g, s.gang? gid = some g := by
  obtain ⟨f, hf⟩ := Option.isSome_iff_exists.mp (H.agent gid fid hag)
  obtain ⟨g, hg, -⟩ := State.gang?_of_frag hf
  exact ⟨g, hg⟩

/-- Where the destination is an operand specifier, a bundle that pushes nothing names no queue there. -/
theorem Issues.dst_ne_q (H : Issues i o s is bad rd more) (hdst : ∀ ctx, ∃ fs m al, (shape ctx i).dst = .reg fs m al) (k : Nat) :
    opnd o.dst ≠ .q k := by
  intro hd
  obtain ⟨ctx, hshape⟩ : ∃ ctx, shapeOf is i = shape ctx i := ⟨_, rfl⟩
  obtain ⟨fs, m, al, hu⟩ := hdst ctx
  have hnone := H.noPush
  rw [hshape, hu] at hnone
  simp [Use.queueOf, hd] at hnone

theorem Use.queueOf_eq_some {u : Use} {sp : BitVec 10} (h : u.queueOf sp = some k) :
    (∃ fs m al, u = .reg fs m al) ∧ opnd sp = .q k := by
  unfold Use.queueOf at h
  split at h
  · refine ⟨⟨_, _, _, rfl⟩, ?_⟩
    split at h
    · next hq => injection h with h; rw [hq, h]
    · cases h
  · cases h

theorem opnd_q {sp : BitVec 10} (h : opnd sp = .q k) : k < 16 ∧ isV sp = false := by
  unfold opnd at h
  dsimp only at h
  by_cases hv : sp.toNat < 256
  · rw [if_pos hv] at h; cases h
  · refine ⟨?_, by simp [isV, hv]⟩
    rw [if_neg hv] at h
    repeat' split at h
    all_goals injection h
    omega

/-- The bundle's destination is a queue. -/
theorem PushIssues.dst_q (H : PushIssues i o s is gid fid k g) :
    (∃ fs m al, (shape false i).dst = .reg fs m al) ∧ opnd o.dst = .q k := by
  have h := H.dest
  simp only [shapeOf, H.agent.1] at h
  exact Use.queueOf_eq_some h

/-- A push is scalar: at most one lane acts. -/
theorem PushIssues.lanes_le_one (H : PushIssues i o s is gid fid k g) : (effLanes s is (shape false i) o).length ≤ 1 := by
  obtain ⟨⟨fs, m, al, hu⟩, hd⟩ := H.dst_q
  have hscalar : (shape false i).scalarDst o = true := by simp [Shape.scalarDst, hu, (opnd_q hd).2]
  unfold effLanes
  dsimp only
  rw [if_pos hscalar]
  split <;> simp

/-- A bundle with a queue destination whose word completes no packet runs its effect. -/
theorem issueOp_of_pushIssues (H : PushIssues i o s is gid fid k g) (body : Issue → State) (hl : lauPush s is (body is) = some (body is)) :
    issueOp i o s noBad noRd noMore body = runOp s (body is) := by
  have hstage : stageTrap i s is (decodeCauses i o is s (noBad is) (noRd is) (noMore is)) (scrOut i o s is) = none := by
    rw [show decodeCauses i o is s (noBad is) (noRd is) (noMore is) = 0 from H.checks, H.bounds]
    simp [stageTrap]
  have hag := H.agent.1
  have hready := H.queues
  have hdest := H.dest
  have hclean : readsBad i o s is (noRd is) = false := H.clean
  unfold shapeOf at hready hdest
  rw [hag] at hready hdest
  dsimp only at hready hdest
  unfold issueOp
  rw [H.issuing]
  dsimp only
  rw [hstage, H.target, hag]
  dsimp only
  rw [hready, hdest, hl, hclean]
  rfl

end

/-- No packet is taken of a queue with fewer words than one has. -/
theorem takeLau_of_short {t : State} {gid n : Nat} {g : Gang} (hg : t.gang? gid = some g) (hlen : (g.qwords n).length < 16) (fuel : Nat) :
    t.takeLau gid n fuel = t := by
  cases fuel with
  | zero => rfl
  | succ fuel =>
    unfold State.takeLau
    rw [hg]
    dsimp only
    rw [if_neg fun h => by omega]

/-- A bundle after which no LAU_CMD queue that grew holds a packet completes none. -/
theorem lauPush_of_short {s t : State} {is : Issue} {gid fid : Nat} {g g' : Gang} (hag : is.ag = .gang gid fid)
    (hg : s.gang? gid = some g) (hg' : t.gang? gid = some g')
    (hshort : ∀ n, g'.port n = 6 → (g.qwords n).length < (g'.qwords n).length → (g'.qwords n).length < 16) :
    lauPush s is t = some t := by
  unfold lauPush
  rw [hag]
  dsimp only
  rw [hg, hg']
  dsimp only
  generalize hns : (List.range 16).filter _ = ns
  have hlen : ∀ n ∈ ns, 0 < (g'.qwords n).length ∧ (g'.qwords n).length < 16 := by
    intro n hn
    subst hns
    simp only [List.mem_filter, Bool.and_eq_true, beq_iff_eq, decide_eq_true_eq] at hn
    obtain ⟨-, hport, hgrew⟩ := hn
    exact ⟨by omega, hshort n hport hgrew⟩
  rw [if_neg]
  · clear hns
    induction ns with
    | nil => rfl
    | cons n ns ih =>
      rw [List.foldl_cons, takeLau_of_short hg' (hlen n (by simp)).2]
      exact ih fun m hm => hlen m (by simp [hm])
  · rw [Bool.not_eq_true, List.any_eq_false]
    intro n hn
    obtain ⟨hpos, hlt⟩ := hlen n hn
    have hmod : (g'.qwords n).length % 16 ≠ 0 := by omega
    simp [hmod]

/-! ### Results -/

theorem Gang.setWords_self (g : Gang) (n : Nat) : g.setWords n (g.qwords n) = g := by
  have hq : g.q.setIfInBounds n { bind := (g.q.getD n { bind := 0, words := [] }).bind, words := g.qwords n } = g.q := by
    ext j hj : 1
    rw [Vector.getElem_setIfInBounds]
    split
    · next h => subst h; simp [Gang.qwords, Vector.getD, hj]
    · rfl
  unfold Gang.setWords
  dsimp only
  rw [hq]

/-- A result whose destination is a queue is its low word, pushed once. -/
theorem Gang.put_dstWrites_q {o : Opw} {n k : Nat} {lanes : List Nat} (hd : opnd o.dst = .q k) (hlen : lanes.length ≤ 1)
    (val : Nat → Nat) (g : Gang) : (dstWrites o n (lanes.map fun l => (l, val l))).foldl Gang.put g =
      g.setWords k (g.qwords k ++ lanes.map fun l => wordOf (val l) 0) := by
  match lanes with
  | [] => rw [dstWrites_no_lane (by simp [hd]), List.map_nil, List.append_nil, g.setWords_self]; rfl
  | [l] => rw [dstWrites_q hd rfl]; rfl
  | _ :: _ :: _ => simp at hlen

section
variable {i : Instr} {o : Opw} {s u : State} {is : Issue} {lat n flags : Nat} {lanes : List Nat} {val : Nat → Nat}

/-- A bundle whose effect is to write a result to registers, with its flags, once its source words were taken. -/
theorem writesReg_of_writeAll {bad : Issue → Bool} {rd : Issue → List RegId} {more : Issue → Nat} (H : Issues i o s is bad rd more)
    (hdst : ∀ ctx, ∃ fs m al, (shape ctx i).dst = .reg fs m al) (hu : PopsOnly is.ag s u)
    (hlt : ∀ l ∈ lanes, l < 1024) (hnd : lanes.Nodup)
    (hx : exec i s = runOp s (writeAll (u.orFlags is.ag flags) is lat (dstWrites o n (lanes.map fun l => (l, val l))))) :
    WritesReg i o s u is n lanes val flags := by
  obtain ⟨hrest, hflights, hothers⟩ := writeResult_kept u is lat flags (dstWrites o n (lanes.map fun l => (l, val l)))
  obtain ⟨hnext, hdev, hmem⟩ := runOp_of_rest H.quiet (hrest.trans hu.rest)
  obtain ⟨hres, hkept⟩ := writeResult_agent (lat := lat) (n := n) (val := val) (flags := flags) hlt hnd (H.dst_ne_q hdst)
    fun gid fid hag => by
      obtain ⟨g, hg⟩ := H.gang hag
      obtain ⟨g1, hg1, -⟩ := hu.gang gid fid hag g hg
      exact Option.isSome_iff_exists.mpr ⟨g1, hg1⟩
  exact ⟨_, hx.trans hnext, hres, hkept,
    ⟨fun j hj => (hothers.1 j hj).trans (hu.others.1 j hj), fun j hj => (hothers.2 j hj).trans (hu.others.2 j hj)⟩, hdev,
    fun j => (hflights j).trans (by rw [hu.flights]), hmem⟩

/-- A bundle whose effect is to push the word of a result, with its flags, once its source words were taken. -/
theorem pushes_of_writeAll {gid fid k : Nat} {g : Gang} (H : PushIssues i o s is gid fid k g) (hu : PopsOnly is.ag s u)
    (hlen : lanes.length ≤ 1) (body : Issue → State)
    (hb : body is = writeAll (u.orFlags is.ag flags) is lat (dstWrites o n (lanes.map fun l => (l, val l))))
    (hx : exec i s = issueOp i o s noBad noRd noMore body) : Pushes i s u is.ag gid k lanes val flags := by
  obtain ⟨-, hd⟩ := H.dst_q
  obtain ⟨hk, -⟩ := opnd_q hd
  have hag := H.agent.1
  obtain ⟨g1, hg1, heq, hqueues⟩ := hu.gang gid fid hag g H.gang
  obtain ⟨hrest, hflights, hothers⟩ := writeResult_kept u is lat flags (dstWrites o n (lanes.map fun l => (l, val l)))
  obtain ⟨hnext, hdev, hmem⟩ := runOp_of_rest H.quiet (hrest.trans hu.rest)
  have hflagged : (u.orFlags is.ag flags).gang? gid = some { g1 with fpstat := g1.fpstat ||| BitVec.ofNat 32 flags } := by
    rw [hag]; exact gang?_orFlags hg1 fid flags
  obtain ⟨g', hg', hbare⟩ := writeAll_gang is lat _ _ gid fid hag (dstWrites_plain (o := o) (n := n) (lanes.map fun l => (l, val l))) _
    hflagged
  rw [Gang.put_dstWrites_q hd hlen] at hbare
  have hq : g'.q = (g1.setWords k (g1.qwords k ++ lanes.map fun l => wordOf (val l) 0)).q := (congrArg Gang.q hbare :)
  have hword : ∀ j, g'.qwords j = if k = j then g1.qwords k ++ lanes.map (fun l => wordOf (val l) 0) else g1.qwords j := fun j => by
    rw [← Gang.qwords_setWords g1 hk]; simp only [Gang.qwords, hq]
  have hport : ∀ j, g'.port j = g1.port j := fun j => by
    rw [← Gang.port_setWords g1 k j (g1.qwords k ++ lanes.map fun l => wordOf (val l) 0)]; simp only [Gang.port, hq]
  have hlau : lauPush s is (body is) = some (body is) := by
    rw [hb]
    refine lauPush_of_short hag H.gang hg' fun j h6 hgrew => ?_
    obtain ⟨hportj, hlej⟩ := hqueues j
    rw [hword] at hgrew ⊢
    by_cases hj : k = j
    · subst hj
      have hroom := H.inPacket (by rw [← h6, hport, hportj])
      rw [if_pos rfl, List.length_append, List.length_map]
      omega
    · rw [if_neg hj] at hgrew
      omega
  refine ⟨_, g1, g', (hx.trans (issueOp_of_pushIssues H body hlau)).trans (hb ▸ hnext), hg1, hg', ?_, ?_, hport k, fun j hj => ?_,
    ⟨fun j hj => (hothers.1 j hj).trans (hu.others.1 j hj), fun j hj => (hothers.2 j hj).trans (hu.others.2 j hj)⟩, hdev,
    fun j => (hflights j).trans (by rw [hu.flights]), hmem⟩
  · rw [hbare]; rfl
  · rw [hword, if_pos rfl]
  · rw [hq]; exact Vector.getElem?_setIfInBounds_ne (Ne.symm hj)

end

/-! ### ALU operations -/

section
variable {mk : Opw → Instr} {o : Opw} {w : Widen} {n : Nat} {f : Nat → Nat → Nat → Nat × Nat}

/-- What an ALU operation gives in a lane, with its flags. -/
def laneResult (i : Instr) (o : Opw) (w : Widen) (f : Nat → Nat → Nat → Nat × Nat) (s : State) (is : Issue) (l : Nat) : Nat × Nat :=
  let sh := shape false i
  let pp := takePops s is sh o
  f (srcVal s is o sh.a o.a w 1 pp.1.1 l) (srcVal s is o sh.b o.b w 2 pp.1.2.1 l) (srcVal s is o sh.c o.c w 3 pp.1.2.2 l)

theorem aluEffect_eq (i : Instr) (s : State) (is : Issue) :
    aluEffect i o w n f s is = commit s (takePops s is (shape false i) o).2 is ((shape false i).scalarDst o) (guardMask s is o)
      (shape false i).lat ((effLanes s is (shape false i) o).map fun l => (l, (laneResult i o w f s is l).2))
      (dstWrites o n ((effLanes s is (shape false i) o).map fun l => (l, (laneResult i o w f s is l).1))) := by
  unfold aluEffect
  dsimp only
  rw [List.map_map, List.map_map]
  rfl

/-- An operation whose meaning is that of an ALU operation gives its result, to a register and to a queue. -/
theorem aluResult_of_aluOp (hdst : ∀ ctx, ∃ fs m al, (shape ctx (mk o)).dst = .reg fs m al)
    (hx : ∀ s, exec (mk o) s = aluOp (mk o) o w n f s) : AluResult mk o w n f := by
  constructor
  · intro s is H sh lanes pp r flags hquiet
    refine writesReg_of_writeAll H hdst (takePops_popsOnly s is sh o) (fun _ => effLanes_lt) (effLanes_nodup s is sh o) (lat := sh.lat) ?_
    rw [hx, aluOp, issueOp_of_issues H, aluEffect_eq]
    exact congrArg (runOp s) (commit_of_quiet hquiet)
  · intro s is gid fid k g H sh lanes pp r flags hquiet
    exact pushes_of_writeAll H (takePops_popsOnly s is sh o) H.lanes_le_one _ ((aluEffect_eq _ s is).trans (commit_of_quiet hquiet)) (hx s)

end

/-! ### Compares -/

/-- What a compare gives in a lane, with its flags. -/
def laneTruth (i : Instr) (o : Opw) (w : Widen) (f : Nat → Nat → Bool × Nat) (s : State) (is : Issue) (l : Nat) : Bool × Nat :=
  let sh := shape false i
  let pp := takePops s is sh o
  f (srcVal s is o sh.a o.a w 1 pp.1.1 l) (srcVal s is o sh.b o.b w 2 pp.1.2.1 l)

theorem cmpEffect_eq {o : Opw} {w : Widen} {f : Nat → Nat → Bool × Nat} (i : Instr) (s : State) (is : Issue) :
    cmpEffect i o w f s is = commit s (takePops s is (shape false i) o).2 is ((shape false i).scalarDst o) (guardMask s is o)
      (shape false i).lat ((effLanes s is (shape false i) o).map fun l => (l, (laneTruth i o w f s is l).2))
      (predWrites o.dst ((effLanes s is (shape false i) o).map fun l => (l, (laneTruth i o w f s is l).1))) := by
  unfold cmpEffect
  dsimp only
  rw [List.map_map, List.map_map]
  rfl

end Sys2Proof.Machine
end

section
/-!
PROOF. Floating-point flags with their traps enabled (04 R112, 09 R249-R253): the trap is taken in place of every write.
-/
open Sys2Proof Sys2Proof.Machine
namespace Sys2Proof.Machine

/-- A bundle whose effect is to record flags and take a first cause. -/
theorem trapsInstead_of_takeCause {i : Instr} {s : State} {gid fid flags : Nat} {ti : TrapInfo} (hj : s.journal = [])
    (hx : ∀ g f, s.gang? gid = some g → g.frags.find? fid = some f → g.slot = none → g.trap = none →
      exec i s = runOp s ((s.orFlags (.gang gid fid) flags).takeCause (.gang gid fid) .fault ti)) :
    TrapsInstead i s gid fid flags ti.causes := by
  intro g f w hg hf hslot htrap hw
  have hflagged := gang?_orFlags hg fid flags
  have hnext := hx g f hg hf hslot htrap
  rw [State.takeCause_first .fault ti hflagged hf hslot htrap] at hnext
  refine ⟨_, _, _, w.haltedAt s.cycle, hnext, (oneGang_updGang (s := { s.orFlags (.gang gid fid) flags with issue := none }) hflagged _).2.2,
    Gang.find?_trapped hf f.pc .fault ti, ?_, rfl, rfl, rfl, rfl, rfl, rfl, rfl, rfl, rfl, rfl, rfl, rfl, rfl, memKept_of_mem hj.symm rfl⟩
  refine (Tab.find?_upd _ s.wgs _ _).trans ?_
  rw [if_pos rfl, hw]
  rfl

section
variable {i : Instr} {o : Opw} {s : State} {is : Issue} {gid fid flags : Nat} {ti : TrapInfo}

theorem IssuesAny.quiet (H : IssuesAny i o s is gid fid) : s.journal = [] := by
  obtain ⟨H, -⟩ | ⟨k, g, H⟩ := H <;> exact H.quiet

theorem IssuesAny.agent (H : IssuesAny i o s is gid fid) : is.ag = .gang gid fid := by
  obtain ⟨-, hag⟩ | ⟨k, g, H⟩ := H
  · exact hag
  · exact H.agent.1

/-- A first cause leaves the words of every queue, so it completes no packet. -/
theorem lauPush_takeCause {g : Gang} {f : Frag} (hag : is.ag = .gang gid fid) (hg : s.gang? gid = some g)
    (hf : g.frags.find? fid = some f) (hslot : g.slot = none) (htrap : g.trap = none) :
    lauPush s is ((s.orFlags is.ag flags).takeCause is.ag .fault ti) = some ((s.orFlags is.ag flags).takeCause is.ag .fault ti) := by
  have hflagged := gang?_orFlags hg fid flags
  rw [hag, State.takeCause_first .fault ti hflagged hf hslot htrap]
  refine lauPush_of_short hag hg (oneGang_updGang (s := { s.orFlags (.gang gid fid) flags with issue := none }) hflagged _).2.2
    fun n _ hgrew => absurd hgrew (Nat.lt_irrefl _)

/-- An operation whose effect is to record flags and take a cause, to a register or a queue. -/
theorem trapsInstead_of_issueOp (H : IssuesAny i o s is gid fid) (body : Issue → State)
    (hb : body is = (s.orFlags is.ag flags).takeCause is.ag .fault ti) (hx : exec i s = issueOp i o s noBad noRd noMore body) :
    TrapsInstead i s gid fid flags ti.causes := by
  refine trapsInstead_of_takeCause H.quiet fun g f hg hf hslot htrap => ?_
  rw [← H.agent, ← hb, hx]
  obtain ⟨H, -⟩ | ⟨k, g', H⟩ := H
  · exact issueOp_of_issues H body
  · exact issueOp_of_pushIssues H body (hb ▸ lauPush_takeCause H.agent.1 hg hf hslot htrap)

end

/-- An operation whose meaning is that of an ALU operation takes the trap of a flag in place of its result. -/
theorem aluTraps_of_aluOp {mk : Opw → Instr} {o : Opw} {w : Widen} {n : Nat} {f : Nat → Nat → Nat → Nat × Nat}
    (hx : ∀ s, exec (mk o) s = aluOp (mk o) o w n f s) : AluTraps mk o w f := by
  intro s is gid fid H sh lanes pp r flags htraps
  obtain ⟨ti, hti, hcommit⟩ := commit_of_trap (t := pp.2) (scalar := sh.scalarDst o) (gm := guardMask s is o) (lat := sh.lat)
    (ws := dstWrites o n (lanes.map fun l => (l, (r l).1))) htraps
  exact hti ▸ trapsInstead_of_issueOp H _ ((aluEffect_eq _ s is).trans hcommit) (hx s)

/-- A compare takes the trap of a flag in place of its truth. -/
theorem cmpTraps_of_cmpOp {mk : Opw → Instr} {o : Opw} {w : Widen} {f : Nat → Nat → Bool × Nat}
    (hx : ∀ s, exec (mk o) s = cmpOp (mk o) o w f s) : CmpTraps mk o w f := by
  intro s is gid fid H hag sh lanes pp r flags htraps
  obtain ⟨ti, hti, hcommit⟩ := commit_of_trap (t := pp.2) (scalar := sh.scalarDst o) (gm := guardMask s is o) (lat := sh.lat)
    (ws := predWrites o.dst (lanes.map fun l => (l, (r l).1))) htraps
  exact hti ▸ trapsInstead_of_issueOp (.inl ⟨H, hag⟩) _ ((cmpEffect_eq _ s is).trans hcommit) (hx s)

/-- The end of a reduction with a flag that traps, its source words taken. -/
theorem flagged_of_trap {s : State} {is : Issue} {sh : Shape} {o : Opw} {flags : Nat} (gm : LaneMask) (writes : State → State)
    (h : trapsOf (s.fpctlOf is.ag) flags ≠ 0) :
    ∃ ti : TrapInfo, ti.causes = trapsOf (s.fpctlOf is.ag) flags ∧
      flagged s (takePops s is sh o).2 is flags gm writes = (s.orFlags is.ag flags).takeCause is.ag .fault ti := by
  unfold flagged
  rw [fpctlOf_takePops]
  exact ⟨_, rfl, if_pos h⟩

/-- An operation that, where its guard holds in a lane, ends as `flagged` says takes the trap of a flag in place of its writes. -/
theorem trapsInstead_of_flagged {i : Instr} {o : Opw} {s : State} {is : Issue} {gid fid flags : Nat} {writes : State → State}
    (H : IssuesAny i o s is gid fid) (hg : anyGuard s is o = true) (body : Issue → State)
    (hx : exec i s = issueOp i o s noBad noRd noMore body)
    (hb : body is = if guardMask s is o = 0 then (takePops s is (shape false i) o).2 else
      flagged s (takePops s is (shape false i) o).2 is flags (guardMask s is o) writes)
    (htraps : trapsOf (s.fpctlOf is.ag) flags ≠ 0) : TrapsInstead i s gid fid flags (trapsOf (s.fpctlOf is.ag) flags) := by
  have hgm : guardMask s is o ≠ 0 := of_decide_eq_true hg
  obtain ⟨ti, hti, hflagged⟩ := flagged_of_trap (sh := shape false i) (o := o) (guardMask s is o) writes htraps
  rw [if_neg hgm, hflagged] at hb
  exact hti ▸ trapsInstead_of_issueOp H body hb hx

theorem redf_traps : ReductionTraps .redf fun op ty mode l => (redAll op ty mode l).2 :=
  fun _ _ _ _ _ H hg htraps => trapsInstead_of_flagged H hg _ rfl rfl htraps

theorem scanf_traps : ReductionTraps .scanf fun op ty mode l => (scanAll op ty mode l).2 :=
  fun _ _ _ _ _ H hg htraps => trapsInstead_of_flagged H hg _ rfl rfl htraps

/-- Settles O25: every operation that sets floating-point flags is an ALU operation, a compare or a reduction. -/
theorem flagTraps : Obligations.FlagTraps := by
  intro o
  refine ⟨?fadd, ?fmul, ?fmac, ?fdiv, ?frcp, ?fsqrt, ?frsq, ?fex2, ?flg2, ?fsin, ?fcos, ?fmin, ?fmax, ?frnd, ?cvt, ?vdot,
    ?dadd, ?dmul, ?dmac, ?hadd2, ?hmul2, ?hmac2, redf_traps, scanf_traps, ?fcmp, ?dcmp⟩
  case fcmp | dcmp => exact cmpTraps_of_cmpOp fun _ => rfl
  all_goals exact aluTraps_of_aluOp fun _ => rfl

end Sys2Proof.Machine
end

section
/-!
PROOF. The lesser and the greater of two floating-point operands (04 R113).
-/
open Sys2Proof Sys2Proof.Machine
namespace Sys2Proof.Machine

/-- The flags are those of signalling operands, whichever operand is chosen. -/
theorem fpMinMax_flags (f : FFmt) (mx : Bool) (x y : Nat) : (fpMinMax f mx x y).2 = sigFlags [f.decode x, f.decode y] := by
  unfold fpMinMax
  dsimp only
  split
  · rfl
  · rfl
  · rfl
  · split <;> rfl

theorem RVal.isSig_iff (a : RVal) : a.isSig = true ↔ ∃ neg, a = .nan true neg := by
  cases a <;> simp [RVal.isSig]

theorem sigFlags_pair (a b : RVal) : sigFlags [a, b] = fNV ↔ a.isSig = true ∨ b.isSig = true := by
  cases ha : a.isSig <;> cases hb : b.isSig <;> simp [sigFlags, ha, hb, fNV]

/-- FMIN and FMAX of a NaN: the numeric operand, or the canonical NaN. -/
theorem fpMinMax_nan (f : FFmt) (mx : Bool) (x y : Nat) :
    ((f.decode x).isNan = true → (f.decode y).isNan = false → (fpMinMax f mx x y).1 = y) ∧
    ((f.decode x).isNan = false → (f.decode y).isNan = true → (fpMinMax f mx x y).1 = x) ∧
    ((f.decode x).isNan = true → (f.decode y).isNan = true → (fpMinMax f mx x y).1 = f.cnan) := by
  refine ⟨fun hx hy => ?_, fun hx hy => ?_, fun hx hy => ?_⟩ <;> simp only [fpMinMax, hx, hy]

/-- Of two zeros, -0 is the lesser, in either order of the operands. -/
theorem fpMinMax_zeros :
    fpMinMax fp32 false 0x80000000 0 = (0x80000000, 0) ∧ fpMinMax fp32 false 0 0x80000000 = (0x80000000, 0) ∧
      fpMinMax fp32 true 0x80000000 0 = (0, 0) ∧ fpMinMax fp32 true 0 0x80000000 = (0, 0) := by
  decide

/-- Settles O24: FMIN and FMAX are ALU operations with the results of `fpMinMax`, and a reduction's MIN and MAX are that function. -/
theorem minMaxRule : Obligations.MinMaxRule := by
  refine ⟨fun f mx x y => ?_, fpMinMax_zeros, fun a b => ?_, fun o => ⟨?_, ?_⟩, fun _ _ _ => ⟨rfl, rfl, rfl, rfl⟩⟩
  · obtain ⟨hleft, hright, hboth⟩ := fpMinMax_nan f mx x y
    exact ⟨hleft, hright, hboth, fpMinMax_flags f mx x y⟩
  · rw [sigFlags_pair, a.isSig_iff, b.isSig_iff]
  · exact aluResult_of_aluOp (fun _ => ⟨_, _, _, rfl⟩) fun _ => rfl
  · exact aluResult_of_aluOp (fun _ => ⟨_, _, _, rfl⟩) fun _ => rfl

end Sys2Proof.Machine
end

section
/-!
PROOF. A cause raised in handler mode (09 R256): the double fault that it is.
-/
open Sys2Proof Sys2Proof.Machine
namespace Sys2Proof.Machine

theorem Tab.find?_upd_same {α : Type} (F : α → α) {t : Tab α} {k : Nat} {v : α} (h : t.find? k = some v) :
    (Tab.upd F t k).find? k = some (F v) := by
  rw [Tab.find?_upd, if_pos rfl, h, Option.map_some]

/-- A gang that has raised causes in handler mode: the fragment that raised them is the one to be found in its slot. -/
def Gang.doubleFaulted (g : Gang) (fid causes : Nat) : Gang :=
  { g with
    cause := g.cause ||| BitVec.ofNat 64 causes, slot := g.slot.map fun x => { x with fid := fid },
    trap := g.trap.map fun x => { x with fid := fid }, frags := g.frags.upd (fun f => { f with stopped := true }) fid }

theorem State.doubleFault_eq {s : State} {gid fid : Nat} {g : Gang} {w : Wg} (causes : Nat) (hg : s.gang? gid = some g)
    (hw : s.wgOf g = some w) : s.doubleFault gid fid causes =
      (((s.updGang gid (·.doubleFaulted fid causes)).haltWg g.wid).updWg g.wid fun w =>
        { w with stat := .swapping 3, dblFault := true }).devFlight (.gang gid fid) .dev
          (.devRec w.part 0 32 (((s.gridOf g).map fun r => r.lr.tag).getD 0) w.linear) := by
  unfold State.doubleFault
  rw [hg]
  dsimp only
  rw [hw, State.updFrag, State.updGang_updGang]
  rfl

theorem State.takeCause_inHandler {s : State} {gid fid : Nat} {g : Gang} {sl : Slot} (k : RKind) (ti : TrapInfo) (hg : s.gang? gid = some g)
    (hslot : g.slot = some sl) : s.takeCause (.gang gid fid) k ti = ({ s with issue := none } : State).doubleFault gid fid ti.causes := by
  have hg0 : ({ s with issue := none } : State).gang? gid = some g := hg
  unfold State.takeCause
  dsimp only
  rw [hg0]
  dsimp only
  rw [hslot]
  rfl

/-- Settles O36: a cause taken by a gang with its slot filled is a double fault. -/
theorem doubleFault : Obligations.DoubleFault := by
  intro s gid fid g f w sl k ti hg hf hslot hw t
  have ht : t = _ := (State.takeCause_inHandler k ti hg hslot).trans (State.doubleFault_eq (s := { s with issue := none }) ti.causes hg hw)
  have hfrag : (g.doubleFaulted fid ti.causes).frags.find? fid = some { f with stopped := true } := Tab.find?_upd_same _ hf
  rw [ht]
  refine ⟨_, _, { w.haltedAt s.cycle with stat := .swapping 3, dblFault := true }, _,
    (oneGang_updGang (s := { s with issue := none }) hg _).2.2, hfrag, ?_, rfl, rfl, rfl, rfl, rfl, rfl, rfl, rfl, rfl, rfl, rfl, rfl, rfl,
    Tab.find?_put_same _ _ _, rfl⟩
  show Tab.find? (Tab.upd _ (Tab.upd _ s.wgs g.wid) g.wid) g.wid = _
  simp only [Tab.upd_upd, Tab.find?_upd, if_true, hw, Option.map_some]
  rfl

end Sys2Proof.Machine
end

section
/-!
PROOF. What the decode stage finds of an operation outside the modes that it may run in (09 R255, 13 R379).
-/
open Sys2Proof Sys2Proof.Machine
namespace Sys2Proof.Machine

/-- The decode stage's causes, one flag each: bit 0 is ILLOP and bit 1 is PRIV. -/
theorem decodeBits (ill priv bound qb chk : Bool) :
    let c := (if ill then cILLOP else 0) ||| (if priv then cPRIV else 0) ||| (if bound then cREGBOUND else 0) |||
      (if qb then cQBIND else 0) ||| (if chk then cSTALLCHK else 0) ||| 0
    c.testBit 0 = ill ∧ c.testBit 1 = priv := by
  revert ill priv bound qb chk
  decide

section
variable {o : Opw} {s : State} {is : Issue} {gid fid : Nat} {g : Gang}

/-- An operation that a mode of Table 9.5 does not allow raises PRIV. -/
theorem decodeCauses_priv {i : Instr} (hag : is.ag = .gang gid fid) (hg : s.gang? gid = some g)
    (h : ((shape false i).mode = 1 ∧ g.mode = .user) ∨ ((shape false i).mode = 2 ∧ g.mode ≠ .supHandler) ∨
      (g.mode ≠ .supHandler ∧ (shape false i).a.isSpec = true ∧ ∃ n, opnd o.a = .h n)) :
    (decodeCauses i o is s false [] 0).testBit 1 = true := by
  unfold decodeCauses
  rw [hag]
  dsimp only
  rw [hg]
  refine (decodeBits _ _ _ _ _).2.trans ?_
  obtain ⟨hmode, huser⟩ | ⟨hmode, hsup⟩ | ⟨hsup, hspec, n, hn⟩ := h
  · simp [hmode, huser]
  · simp [hmode, hsup]
  · simp [hsup, hspec, hn]

theorem decodeCauses_hret (hag : is.ag = .gang gid fid) (hg : s.gang? gid = some g) (hmode : g.mode = .user) :
    (decodeCauses (.hret o) o is s false [] 0).testBit 0 = true := by
  unfold decodeCauses
  rw [hag]
  dsimp only
  rw [hg]
  refine (decodeBits _ _ _ _ _).1.trans ?_
  simp [hmode]

end

theorem isSpec_movShape {o : Opw} (hsub : o.sub = 0) : (movShape o).a.isSpec = true := by
  simp [movShape, hsub, Use.isSpec, uAny]

/-- Settles O37: the decode stage compares the gang's mode with the least mode that the operation's shape names. -/
theorem modeChecks : Obligations.ModeChecks := by
  intro o s is gid fid g hag hg
  refine ⟨decodeCauses_hret hag hg, fun huser => decodeCauses_priv hag hg (.inl ⟨rfl, huser⟩), fun hsup i hi => ?_, fun hsup hsub n hn =>
    decodeCauses_priv hag hg (.inr (.inr ⟨hsup, isSpec_movShape hsub, n, hn⟩))⟩
  have hmode : (shape false i).mode = 2 := by
    simp only [List.mem_cons, List.not_mem_nil, or_false] at hi
    obtain rfl | rfl | rfl | rfl | rfl | rfl | rfl := hi <;> rfl
  exact decodeCauses_priv hag hg (.inr (.inl ⟨hmode, hsup⟩))

end Sys2Proof.Machine
end

section
/-!
PROOF. Entering a handler (09 R254): which one the causes standing choose, and what entering it saves and starts with.
-/
open Sys2Proof Sys2Proof.Machine
namespace Sys2Proof.Machine

/-- From `s`, the fragment enters a handler at an address and in a mode: only its gang changes, to `g'` with the fragment `f'`. -/
structure EntersAt (s t : State) (gid fid : Nat) (g : Gang) (f : Frag) (h : Nat × Mode) (g' : Gang) (f' : Frag) : Prop where
  gang : OneGang s t gid g'
  frag : g'.frags.find? fid = some f'
  slot : g'.slot = some { fid := fid, mode := h.2, fmt := f.fmt, lc := f.lc, frames := f.frames, k := g.k }
  k : g'.k = if h.2 = .supHandler then 0 else g.k
  rest : { g' with slot := g.slot, trap := g.trap, k := g.k, frags := g.frags } = g
  start : f'.pc = h.1 ∧ f'.frames = [] ∧ (∀ n, n < 4 → f'.lc.getD n 0 = 0) ∧ f'.stat = .ready ∧ f'.stopped = false
  kept : f'.mask = f.mask ∧ f'.fmt = f.fmt

/-- The counters that a handler starts with. -/
theorem zeroCounters (n : Nat) (h : n < 4) : (Vector.replicate 4 (0 : W32)).getD n 0 = 0 := by
  simp [Vector.getD, h]

theorem State.enterAt_entersAt {s : State} {gid fid : Nat} {g : Gang} {f : Frag} (hg : s.gang? gid = some g)
    (hf : g.frags.find? fid = some f) (h : Nat × Mode) : ∃ g' f', EntersAt s (s.enterAt gid fid h) gid fid g f h g' f' := by
  have hfrag : s.frag? gid fid = some f := (State.frag?_of_gang hg fid).trans hf
  unfold State.enterAt
  rw [hg, hfrag]
  exact ⟨_, _, oneGang_updGang hg _, Tab.find?_upd_same _ hf, rfl, rfl, rfl, ⟨rfl, rfl, zeroCounters, rfl, rfl⟩, rfl, rfl⟩

theorem State.enterHandler_entersAt {s : State} {gid fid : Nat} {g : Gang} {f : Frag} (hg : s.gang? gid = some g)
    (hf : g.frags.find? fid = some f) :
    ∃ g' f', EntersAt s (s.enterHandler gid fid) gid fid g f (s.handlerFor g) g' f' := by
  unfold State.enterHandler
  rw [hg]
  exact State.enterAt_entersAt hg hf _

theorem OneGang.wgs {s t : State} {gid : Nat} {g : Gang} (h : OneGang s t gid g) : t.wgs = s.wgs := (congrArg State.wgs h.1 :)
theorem OneGang.mem {s t : State} {gid : Nat} {g : Gang} (h : OneGang s t gid g) : t.mem = s.mem := (congrArg State.mem h.1 :)
theorem OneGang.journal {s t : State} {gid : Nat} {g : Gang} (h : OneGang s t gid g) : t.journal = s.journal :=
  (congrArg State.journal h.1 :)

/-- The bits of the supervisor's causes (09 Table 9.2). -/
theorem supCauses_testBit (i : Nat) : supCauses.testBit i = true ↔ i ∈ [1, 8, 9, 10, 20] := by
  by_cases hi : i < 21
  · revert i
    decide
  · have hlt : supCauses < 2 ^ i := Nat.lt_of_lt_of_le (by decide : supCauses < 2 ^ 21) (Nat.pow_le_pow_right (by decide) (by omega))
    have hnot : i ∉ [1, 8, 9, 10, 20] := by
      simp only [List.mem_cons, List.not_mem_nil, or_false]
      omega
    simp only [Nat.testBit_lt_two_pow hlt, Bool.false_eq_true, hnot]

/-- A cause of the supervisor's stands. -/
theorem land_supCauses (c : W64) : c.toNat &&& supCauses ≠ 0 ↔
    (c.getLsbD 1 || c.getLsbD 8 || c.getLsbD 9 || c.getLsbD 10 || c.getLsbD 20) = true := by
  have hbit : ∀ i, (c.toNat &&& supCauses).testBit i = true ↔ c.getLsbD i = true ∧ i ∈ [1, 8, 9, 10, 20] := fun i => by
    rw [Nat.testBit_and, Bool.and_eq_true, supCauses_testBit]
    rfl
  have hany : c.toNat &&& supCauses ≠ 0 ↔ ∃ i ∈ [1, 8, 9, 10, 20], c.getLsbD i = true := by
    refine ⟨fun hne => ?_, fun ⟨i, hi, hc⟩ hz => ?_⟩
    · obtain ⟨i, hi⟩ := Nat.exists_testBit_of_ne_zero hne
      obtain ⟨hc, hmem⟩ := (hbit i).mp hi
      exact ⟨i, hmem, hc⟩
    · have hset := (hbit i).mpr ⟨hc, hi⟩
      rw [hz, Nat.zero_testBit] at hset
      exact Bool.false_ne_true hset
  rw [hany]
  simp [or_assoc]

theorem handlerChoice : Says.HandlerChoice := by
  intro s g w hw
  unfold State.handlerFor
  dsimp only
  rw [hw]
  simp only [land_supCauses, Option.map_some, Option.getD_some]

theorem handlerEntry : Says.HandlerEntry := by
  intro s gid g f tr w hj hg htrap hent hhalt hstop hw hacts hf
  obtain ⟨g', f', H⟩ := State.enterHandler_entersAt hg hf
  have hexec : exec (.handlerEnter gid) s = runEv s (s.enterHandler gid tr.fid) := by
    have hall : g.frags.all (fun e => e.2.stopped) = true := List.all_eq_true.mpr hstop
    show execHandlerEnter gid s = _
    unfold execHandlerEnter
    rw [hg]
    dsimp only
    rw [htrap]
    dsimp only
    rw [hent, hhalt, hall, hw]
    simp [hacts]
  obtain ⟨hpc, hframes, hlc, hstat, hstopped⟩ := H.start
  have hkept : ∀ {α : Type} (p : Gang → α), p { g' with slot := g.slot, trap := g.trap, k := g.k, frags := g.frags } = p g :=
    fun p => congrArg p H.rest
  exact ⟨_, g', f', hexec.trans (runEv_quiet (H.gang.journal.trans hj) H.gang.mem), H.gang.2.2, H.frag, H.slot, hpc, H.kept.1, H.kept.2,
    hframes, hlc, hstopped, hstat, H.k, hkept Gang.v, hkept Gang.s, hkept Gang.p, hkept Gang.cause, hkept Gang.epc,
    memKept_of_mem H.gang.journal H.gang.mem⟩

/-- Settles O34: entering is `enterAt` at the address and in the mode that `handlerFor` gives. -/
theorem handlerChoiceAndEntry : Obligations.HandlerChoiceAndEntry := ⟨handlerChoice, handlerEntry⟩

end Sys2Proof.Machine
end

section
/-!
PROOF. HRET (13 R379, 09 R257): the slot comes back; then the handler is entered again, or the fragment resumes and the halt is released.
-/
open Sys2Proof Sys2Proof.Machine
namespace Sys2Proof.Machine

/-! ### The handler left -/

/-- The cycle from which a bundle's fragment may issue again (11 R300). -/
def Issue.stallEnd (is : Issue) : Nat := is.lastPass + 1 + is.ctl.stall.toNat

/-- A gang whose handler fragment issues HRET: it is the fragment of the slot and of the trap. -/
def Gang.hretting (g : Gang) (fid readyAt : Nat) : Gang :=
  { g with
    slot := g.slot.map fun x => { x with fid := fid }, trap := g.trap.map fun x => { x with fid := fid },
    frags := g.frags.upd (fun f => { f with readyAt := readyAt }) fid }

theorem Gang.find?_hretting {g : Gang} {fid : Nat} {f : Frag} (hf : g.frags.find? fid = some f) (r : Nat) :
    (g.hretting fid r).frags.find? fid = some { f with readyAt := r } := Tab.find?_upd_same _ hf

theorem Gang.slot_hretting {g : Gang} {sl : Slot} (hslot : g.slot = some sl) (fid r : Nat) :
    (g.hretting fid r).slot = some { sl with fid := fid } := by
  simp only [Gang.hretting, hslot, Option.map_some]

theorem Gang.trap_hretting {g : Gang} {tr : TrapSt} (htrap : g.trap = some tr) (fid r : Nat) :
    (g.hretting fid r).trap = some { tr with fid := fid } := by
  simp only [Gang.hretting, htrap, Option.map_some]

/-- The state in which HRET returns: the bundle has issued. -/
def State.hretting (s : State) (is : Issue) (gid fid : Nat) : State :=
  ({ s with issue := none } : State).updGang gid (·.hretting fid is.stallEnd)

theorem hretEffect_eq {s : State} {is : Issue} {gid fid : Nat} (hag : is.ag = .gang gid fid) :
    hretEffect s is = (s.hretting is gid fid).handlerReturn gid := by
  unfold hretEffect
  rw [hag]
  dsimp only
  rw [State.updFrag, State.updGang_updGang]
  rfl

theorem exec_hret_of_issues {o : Opw} {s : State} {is : Issue} {gid fid : Nat} (H : Issues (.hret o) o s is noBad noRd noMore)
    (hag : is.ag = .gang gid fid) : exec (.hret o) s = runOp s ((s.hretting is gid fid).handlerReturn gid) :=
  (issueOp_of_issues H (hretEffect s)).trans (congrArg (runOp s) (hretEffect_eq hag))

theorem State.gang?_hretting {s : State} {gid : Nat} {g : Gang} (hg : s.gang? gid = some g) (is : Issue) (fid : Nat) :
    (s.hretting is gid fid).gang? gid = some (g.hretting fid is.stallEnd) :=
  (oneGang_updGang (s := { s with issue := none }) hg _).2.2

/-- A fragment with what its gang's slot holds. -/
def Frag.restored (f : Frag) (sl : Slot) : Frag := { f with fmt := sl.fmt, lc := sl.lc, frames := sl.frames }

/-- A gang with what its slot holds. -/
def Gang.restored (g : Gang) (sl : Slot) : Gang :=
  { g with slot := none, k := if sl.mode = .userHandler then g.k else sl.k, frags := g.frags.upd (·.restored sl) sl.fid }

theorem Gang.restoreSlot_eq {g : Gang} {sl : Slot} (hslot : g.slot = some sl) : g.restoreSlot = g.restored sl := by
  unfold Gang.restoreSlot
  rw [hslot]
  rfl

/-- The choice of a handler looks at workgroups, grids and partitions, and at a gang's causes. -/
theorem State.handlerFor_congr {s t : State} {g x : Gang} (hw : t.wgs = s.wgs) (hgr : t.grids = s.grids) (hp : t.parts = s.parts)
    (hc : x.cause = g.cause) (hid : x.wid = g.wid) : t.handlerFor x = s.handlerFor g := by
  unfold State.handlerFor State.khOf State.gridOf State.wgOf State.part
  rw [hw, hgr, hp, hc, hid]

/-- A bundle's part that changed neither memory nor the journal. -/
theorem runOp_quiet {s t : State} (hj : s.journal = []) (hjt : t.journal = s.journal) (hm : t.mem = s.mem) :
    runOp s t = .next t ∧ MemKept s t := by
  refine ⟨?_, memKept_of_mem hjt hm⟩
  unfold runOp
  rw [← hm, ← hj, ← hjt]

theorem Gang.find?_restored {g : Gang} {sl : Slot} {f : Frag} (hf : g.frags.find? sl.fid = some f) :
    (g.restored sl).frags.find? sl.fid = some (f.restored sl) := Tab.find?_upd_same _ hf

/-- While another cause stands, what the slot holds comes back, and the handler is entered again. -/
theorem State.handlerReturn_enters {s : State} {gid : Nat} {g : Gang} {f : Frag} {sl : Slot} (hg : s.gang? gid = some g)
    (hslot : g.slot = some sl) (hf : g.frags.find? sl.fid = some f) (hc : g.cause.toNat &&& (2 ^ 64 - 1 - cHALTSIB) ≠ 0) :
    ∃ g' f', EntersAt (s.updGang gid fun _ => g.restored sl) (s.handlerReturn gid) gid sl.fid (g.restored sl) (f.restored sl)
      (s.handlerFor g) g' f' := by
  have hagain : s.handlerReturn gid = (s.updGang gid fun _ => g.restored sl).enterHandler gid sl.fid := by
    unfold State.handlerReturn
    rw [hg]
    dsimp only
    rw [hslot, State.updGang_congr (G := fun _ => g.restored sl) hg (Gang.restoreSlot_eq hslot)]
    exact if_pos hc
  have hfor : (s.updGang gid fun _ => g.restored sl).handlerFor (g.restored sl) = s.handlerFor g :=
    State.handlerFor_congr rfl rfl rfl rfl rfl
  rw [hagain, ← hfor]
  exact State.enterHandler_entersAt (oneGang_updGang hg _).2.2 (Gang.find?_restored hf)

theorem hretReenters : Says.HretReenters := by
  intro o s is gid fid g f sl w H hag hg hf hslot hw hc
  obtain ⟨g', f', E⟩ := State.handlerReturn_enters (State.gang?_hretting hg is fid) (Gang.slot_hretting hslot fid is.stallEnd)
    (Gang.find?_hretting hf is.stallEnd) hc
  obtain ⟨hpc, hframes, hlc, -, -⟩ := E.start
  obtain ⟨hnext, hmem⟩ := runOp_quiet H.quiet E.gang.journal E.gang.mem
  have hmode : g'.mode = (s.handlerFor g).2 := by rw [Gang.mode, E.slot]; rfl
  have hhalted : Option.map (·.halted) (((s.hretting is gid fid).handlerReturn gid).wgs.find? g.wid) = some w.halted := by
    rw [E.gang.wgs]
    exact congrArg (Option.map (·.halted)) hw
  exact ⟨_, g', f', (exec_hret_of_issues H hag).trans hnext, E.gang.2.2, E.frag, hpc, hmode, E.kept.2, hframes, hlc, hhalted, hmem⟩

/-! ### The halt released -/

/-- A fragment that goes on. -/
def Frag.goesOn (f : Frag) : Frag := { f with stopped := false }

/-- A gang that goes on when its workgroup's halt is released. -/
def Gang.released (g : Gang) : Gang :=
  { g with
    halt := .running, cause := g.cause &&& ~~~(BitVec.ofNat 64 cHALTSIB), frags := g.frags.map fun p => (p.1, p.2.goesOn) }

theorem Gang.find?_released (g : Gang) (fid : Nat) : g.released.frags.find? fid = (g.frags.find? fid).map Frag.goesOn :=
  Tab.find?_map (fun _ => Frag.goesOn) g.frags fid

theorem State.gang?_releaseHalt (s : State) (wid j : Nat) :
    (s.releaseHalt wid).gang? j = (s.gang? j).map fun g => if g.wid = wid then g.released else g :=
  Tab.find?_map (fun _ (g : Gang) => if g.wid = wid then g.released else g) s.gangs j

theorem State.halted_releaseHalt {s : State} {wid : Nat} {w : Wg} (hw : s.wgs.find? wid = some w) :
    ∃ w', (s.releaseHalt wid).wgs.find? wid = some w' ∧ w'.halted = false :=
  ⟨_, Tab.find?_upd_same _ hw, rfl⟩

theorem State.anyTrap_eq_false {s : State} {wid : Nat} (h : ∀ j g, s.gang? j = some g → g.wid = wid → g.trap = none) :
    s.anyTrap wid = false := by
  refine List.any_eq_false.mpr fun e _ => ?_
  cases hg : s.gang? e.1 with
  | none => simp
  | some g =>
    by_cases hw : g.wid = wid
    · simp [h e.1 g hg hw]
    · simp [hw]

/-- The trapping fragment at SR_EPC (09 R257 step 3). -/
def Frag.atEpc (f : Frag) (g : Gang) (cycle : Nat) : Frag :=
  { f with
    pc := g.epc.toNat / 16 * 16 % 2 ^ 57, pendSeq := g.epc.getLsbD 0, stat := .ready, rgOk := false, jt := none,
    readyAt := max f.readyAt cycle, stopped := true, skip := if g.epc.getLsbD 0 then 0 else g.dmask }

/-- The trapping gang outside its handler. -/
def Gang.resumed (g : Gang) (sl : Slot) (fid cycle : Nat) : Gang :=
  { g.restored sl with trap := none, frags := (g.restored sl).frags.upd (·.atEpc g cycle) fid }

theorem Gang.find?_resumed {g : Gang} {sl : Slot} {f : Frag} (hf : g.frags.find? sl.fid = some f) (cycle : Nat) :
    (g.resumed sl sl.fid cycle).frags.find? sl.fid = some ((f.restored sl).atEpc g cycle) :=
  Tab.find?_upd_same _ (Gang.find?_restored hf)

/-- The last trapping gang of a workgroup resumes, and releases the halt. -/
theorem State.handlerReturn_releases {s : State} {gid : Nat} {g : Gang} {sl : Slot} {tr : TrapSt} (hg : s.gang? gid = some g)
    (hslot : g.slot = some sl) (htrap : g.trap = some tr) (hc : g.cause.toNat &&& (2 ^ 64 - 1 - cHALTSIB) = 0)
    (hothers : ∀ j g2, s.gang? j = some g2 → j ≠ gid → g2.wid = g.wid → g2.trap = none) :
    s.handlerReturn gid = (s.updGang gid fun _ => g.resumed sl tr.fid (s.cycleOf (.gang gid tr.fid))).releaseHalt g.wid := by
  have hreturn : s.handlerReturn gid = s.resumeTrap gid := by
    unfold State.handlerReturn
    rw [hg]
    dsimp only
    rw [hslot]
    exact if_neg (not_not_intro hc)
  have hresumed : (s.updGang gid fun x => { x.restoreSlot with trap := none }).updFrag gid tr.fid
      (·.atEpc g (s.cycleOf (.gang gid tr.fid))) = s.updGang gid fun _ => g.resumed sl tr.fid (s.cycleOf (.gang gid tr.fid)) := by
    rw [State.updFrag, State.updGang_updGang]
    exact State.updGang_congr hg (by rw [Gang.restoreSlot_eq hslot]; rfl)
  have hlast : ∀ j x, (s.updGang gid fun _ => g.resumed sl tr.fid (s.cycleOf (.gang gid tr.fid))).gang? j = some x → x.wid = g.wid →
      x.trap = none := by
    intro j x hx hw
    rw [State.gang?_updGang] at hx
    split at hx
    · next hj =>
      rw [hj, hg] at hx
      injection hx with hx
      rw [← hx]
      rfl
    · next hj => exact hothers j x hx hj hw
  rw [hreturn]
  unfold State.resumeTrap
  rw [hg]
  dsimp only
  rw [htrap, Option.map_some, Option.getD_some]
  exact (congrArg (fun t : State => if t.anyTrap g.wid then t else t.releaseHalt g.wid) hresumed).trans
    (if_neg (Bool.eq_false_iff.mp (State.anyTrap_eq_false hlast)))

theorem hretResumes : Says.HretResumes := by
  intro o s is gid fid g f sl tr w H hag hg hf hslot htrap hw hc hothers
  have hg1 := State.gang?_hretting hg is fid
  have hothers1 : ∀ j g2, (s.hretting is gid fid).gang? j = some g2 → j ≠ gid → g2.wid = g.wid → g2.trap = none := fun j g2 hj hne =>
    hothers j g2 (((oneGang_updGang (s := { s with issue := none }) hg _).2.1 j hne).symm.trans hj) hne
  have hreturn := State.handlerReturn_releases hg1 (Gang.slot_hretting hslot fid is.stallEnd) (Gang.trap_hretting htrap fid is.stallEnd)
    hc hothers1
  let sl1 : Slot := { sl with fid := fid }
  let cyc := (s.hretting is gid fid).cycleOf (.gang gid fid)
  let t := (s.hretting is gid fid).updGang gid fun _ => (g.hretting fid is.stallEnd).resumed sl1 fid cyc
  have hgang : (t.releaseHalt g.wid).gang? gid = some ((g.hretting fid is.stallEnd).resumed sl1 fid cyc).released := by
    rw [State.gang?_releaseHalt, (oneGang_updGang hg1 _).2.2]
    exact congrArg some (if_pos rfl)
  have hfrag := (Gang.find?_released ((g.hretting fid is.stallEnd).resumed sl1 fid cyc) fid).trans
    (congrArg (Option.map Frag.goesOn) (Gang.find?_resumed (sl := sl1) (Gang.find?_hretting hf is.stallEnd) cyc))
  obtain ⟨w', hw', hrun⟩ := State.halted_releaseHalt (s := t) hw
  obtain ⟨hnext, hmem⟩ := runOp_quiet (t := t.releaseHalt g.wid) H.quiet rfl rfl
  exact ⟨_, _, _, w', (exec_hret_of_issues H hag).trans ((congrArg (runOp s) hreturn).trans hnext), hgang, hfrag, hw', rfl, rfl, rfl,
    rfl, rfl, rfl, rfl, rfl, rfl, rfl, rfl, rfl, rfl, rfl, rfl, hrun, rfl, hmem⟩

/-- Settles O33: HRET is `handlerReturn`, which enters the handler again or resumes at SR_EPC and releases the halt. -/
theorem hretSteps : Obligations.HretSteps := ⟨hretResumes, hretReenters⟩

end Sys2Proof.Machine
end

section
/-!
PROOF. What GKILL reports (13 R375, R377). Where the table of gangs is canonical, the kill of the submitter's own workgroup leaves no gang under
the submitter's number, and no report is due. The statement is about every table.
-/
open Sys2Proof Sys2Proof.Machine
namespace Sys2Proof.Machine

/-- The next stage of an operation that the device carries out is its step at the device. -/
theorem exec_homeApply_of_sysActs {s : State} {fl gid : Nat} {f : Flight} {g : Gang} (H : SysActs s fl gid f g) (hown : f.ownEvent = false)
    (k : Nat) (fromL1 : Bool) : exec (.homeApply fl k fromL1) s = runEv s (s.sysStep f) := by
  obtain ⟨-, hfl, -, hpath, hmay, -, -⟩ := H
  have hstep : s.homeApply fl k fromL1 = .ok () (s.sysStep f) := by
    unfold State.homeApply
    rw [hfl]
    dsimp only
    rw [hmay, hown, hpath]
    rfl
  show devEv s (s.homeApply fl k fromL1) = _
  rw [hstep]
  rfl

/-- A gang of the placed workgroup 1. -/
def killedGang : Gang := startGang seatGrid 1 0 0 0 0 0 3 0 (fun _ => 0) 0

/-- GKILL's operation word: K1 the destination. -/
def killWord : Opw := { sub := 0, gneg := false, gpred := 0, dst := 1, a := 0x300, b := 0x300, c := 0x300, aux := 0, imm := 0 }

/-- GKILL of the placed workgroup, in flight for a fragment of the workgroup's own gang. -/
def killFlight : Flight :=
  { id := 0, ag := .gang 2 3, core := 0, slot := 0, path := sysPath, cnt := false, instr := .gkill killWord, mask := 1, pc := 0, pasid := 0,
    scope := 3, acq := false, rel := false, rd := false, wr := false, nt := false, handler := true, after := [], accs := [devAcc .none],
    dest := .k 1, fmt := 0, sw := [seatLaunch.tag, 0], lw := [], pages := [], cur := 0, born := 0, grant := 0, withdrawn := false,
    invals := [], tafter := [], clash := [], joins := [], fenced := [], acks := [] }

/-- The table of gangs lists the number 2 twice: the placed workgroup's gang, and behind it one of workgroup 9. -/
def twiceState : State :=
  { State.reset with
    grids := [(0, seatGrid)], wgs := [(1, seatWg 0 2 0)], gangs := [(2, killedGang), (2, { killedGang with wid := 9 })],
    flights := [(0, killFlight)], nextId := 4 }

theorem twiceState_sysActs : SysActs twiceState 0 2 killFlight killedGang :=
  ⟨rfl, rfl, rfl, rfl, by decide +kernel, ⟨3, rfl⟩, rfl⟩

theorem twiceState_named : twiceState.named 0 seatLaunch.tag 0 = [(1, seatWg 0 2 0)] := by decide +kernel

/-- The kill drops its own operation with the gang's others, and the second entry of the number then stands for the gang: no report. -/
theorem twiceState_kill : (twiceState.gkillStep killFlight).journal = [] ∧ (twiceState.gkillStep killFlight).mem = twiceState.mem ∧
    ((twiceState.gkillStep killFlight).gang? 2).map (fun g => (g.wid, g.k)) = some (9, 0) := by
  decide +kernel

theorem not_killAndResumeAct : ¬ Says.KillAndResumeAct := by
  intro h
  obtain ⟨hj, hm, hgang⟩ := twiceState_kill
  have hexec : exec (.homeApply 0 0 false) twiceState = .next (twiceState.gkillStep killFlight) :=
    (exec_homeApply_of_sysActs twiceState_sysActs rfl 0 false).trans (runEv_quiet hj hm)
  have hnamed : ∀ i w, (i, w) ∈ twiceState.named 0 seatLaunch.tag 0 → 2 ∈ w.gangs → killedGang.wid = i := by
    intro i w hmem _
    rw [twiceState_named, List.mem_singleton, Prod.mk.injEq] at hmem
    exact hmem.1.symm
  have hne : twiceState.named 0 seatLaunch.tag 0 ≠ [] := by rw [twiceState_named]; simp
  obtain ⟨-, hkill, -⟩ := h twiceState 0 0 2 false killFlight killedGang killWord twiceState_sysActs
  obtain ⟨t, ht, -, -, -, hreport⟩ := hkill rfl (.inl hne) hnamed
  obtain rfl : t = twiceState.gkillStep killFlight := by
    rw [hexec] at ht
    injection ht with ht
    exact ht.symm
  obtain ⟨g, hg, hgk⟩ := Option.map_eq_some_iff.mp hgang
  have hsilent : (twiceState.gkillStep killFlight).rdK (.gang 2 3) 1 = false := by
    simp only [State.rdK, hg, Option.map_some, Option.getD_some, (Prod.mk.inj hgk).2]
    rfl
  have hk := hreport 1 rfl (by decide) (by rw [hg]; rfl)
  exact Bool.false_ne_true (hsilent.symm.trans hk)

/-- Refutes O29: the clause on GKILL asks for a report in the submitter's register wherever its number still stands for a gang, and a state may
list the number twice. Then the kill removes the one entry, which the submitter's workgroup owns, and the operation with it, so that no report
is written; the other entry stands for the number from then on, and its K1 stays false. -/
theorem not_supervisorEffects : ¬ Obligations.SupervisorEffects := by
  intro h
  obtain ⟨-, -, -, hkill⟩ := h
  exact not_killAndResumeAct hkill

end Sys2Proof.Machine
end

section
/-!
PROOF. The machine at reset (10 R294, R297; Tables 10.3, 10.4).
-/
open Sys2Proof Sys2Proof.Machine
namespace Sys2Proof.Machine

/-- Every partition block, within the table of eight or not, stands at its reset values. -/
theorem State.part_reset (p : Nat) : State.reset.part p = PartBlk.reset := by
  show (List.replicate 8 PartBlk.reset)[p]?.getD PartBlk.reset = PartBlk.reset
  rw [List.getElem?_replicate]
  by_cases hp : p < 8
  · rw [if_pos hp, Option.getD_some]
  · rw [if_neg hp, Option.getD_none]

theorem State.ctx_reset (n : Nat) : State.reset.ctx n = Ctx.free := rfl

theorem State.peek_reset (k : Nat) : State.reset.peek k = 0 := rfl

/-- Settles O1: memory lists no byte at reset, and no write is under way. -/
theorem resetInv : Obligations.ResetInv := by
  unfold Obligations.ResetInv
  exact ⟨rfl, rfl⟩

/-- Settles O3, from the reset values of each register table and from the empty tables of work. -/
theorem resetValues : Obligations.ResetValues := by
  unfold Obligations.ResetValues
  have hkiln : ∀ c, c < 32 → State.reset.kbudget[c]? = some 32 := fun c hc => List.getElem?_replicate_of_lt hc
  have htimeout : ∀ p, p < 8 → (State.reset.part p).mctimeout = 2000000 := fun p _ => by rw [State.part_reset]; rfl
  have hctx : ∀ n, (State.reset.ctx n).stat = .free := fun n => by rw [State.ctx_reset]; rfl
  exact ⟨rfl, rfl, hkiln, htimeout, rfl, rfl, rfl, rfl, rfl, rfl, hctx, State.peek_reset⟩

end Sys2Proof.Machine
end

section
/-!
PROOF. A CXL port that is down (10 R280), and a constant ZB block (05 R158): the block's bytes come from its header alone, so that a read of
them touches no port but the header's.
-/
open Sys2Proof Sys2Proof.Machine
namespace Sys2Proof.Machine

/-! ### Constant ZB blocks -/

/-- A block's header can be read, and says that the block repeats four bytes (05 R158). -/
def State.ConstBlock (s : State) (block : Nat) : Prop :=
  s.unreadable (s.zbHdrKey block) 8 = false ∧ s.peekN (s.zbHdrKey block) 8 % 4 = 2 ∧ natBits (s.peekN (s.zbHdrKey block) 8) 11 2 = 0

/-- A constant block expands whatever has become of the memory behind its own addresses. -/
theorem State.ConstBlock.zbExpand_isSome {s : State} {block : Nat} (h : s.ConstBlock block) : (s.zbExpand block).isSome = true := by
  obtain ⟨hread, hmode, hlen⟩ := h
  simp [State.zbExpand, hread, hmode, hlen]

/-- A read within one constant block of tier 0 or 1 meets no poison. -/
theorem State.ConstBlock.memRead_clean {s : State} {key n : Nat} (h : s.ConstBlock (key / 512 * 512)) (htier : keyTier key < 2)
    (hone : (key + n - 1) / 512 = key / 512) : (s.memRead key n true).2 = false := by
  obtain ⟨x, hx⟩ := Option.isSome_iff_exists.mp h.zbExpand_isSome
  have hpoison : (keyTier key == poisonTier) = false := by simp only [poisonTier, beq_eq_false_iff_ne]; omega
  simp [State.memRead, hpoison, zbHere, htier, hx, hone]

/-! ### The port of the block's bytes goes down -/

/-- CXL_LINK_DOWN ends with the port's state and HEALTH changed. -/
theorem exec_cxlLinkDown {s : State} (hj : s.journal = []) (port : Nat) : exec (.cxlLinkDown port) s = .next (s.cxlSet port false) :=
  runEv_quiet hj rfl

/-- Tier 1 has its ZB headers from 2^20 on, and the header of the first block, behind port 0, says that the block repeats four zeros. -/
def constBlockState : State := { State.reset with mem := [(2 ^ 60 + 2 ^ 20, 2)], dev := { DevBlk.reset with zbh1 := 2 ^ 20 } }

/-- A byte of that block behind port 1. -/
def constBlockByte : Nat := 2 ^ 60 + 256

/-- The header stands behind port 0 and stays readable. -/
theorem constBlock_of_port_down : (constBlockState.cxlSet 1 false).ConstBlock (constBlockByte / 512 * 512) := by
  unfold State.ConstBlock
  decide +kernel

/-- CXL_LINK_DOWN's clause on accesses does not hold of a byte that a constant ZB block gives. -/
theorem not_cxlLinkResult : ¬ Says.CxlLinkResult := by
  intro h
  obtain ⟨⟨t, ht, -, -, -, -, hpoison⟩, -⟩ := h constBlockState 1 rfl (by decide)
  obtain rfl : constBlockState.cxlSet 1 false = t := by
    rw [exec_cxlLinkDown rfl] at ht
    injection ht
  have hclean : ((constBlockState.cxlSet 1 false).memRead constBlockByte 1 true).2 = false :=
    constBlock_of_port_down.memRead_clean (by decide) (by decide)
  have hport : sliceOf constBlockByte / 160 * 2 + constBlockByte / 256 % 2 = 1 := by decide +kernel
  exact Bool.false_ne_true (hclean.symm.trans (hpoison constBlockByte 1 true (by decide) hport))

/-- Refutes O60: the clause on CXL_LINK_DOWN (10 R280) asks that every read of an address behind the port meet poison, on ZB pages too. A
constant ZB block is expanded from its header (05 R158), and where that stands behind a port that is up the read finds the block's bytes. -/
theorem not_deviceEvents : ¬ Obligations.DeviceEvents := by
  intro h
  obtain ⟨-, -, -, -, -, -, -, -, -, -, -, -, -, -, -, -, -, -, -, -, -, -, hcxl, -, -⟩ := h
  exact not_cxlLinkResult hcxl

end Sys2Proof.Machine
end
